-- ==== Sys2Proof/Word.lean ====
section
/-! DEFINITION. Word: the word types of the Claemin 2400 (R184, R195) and the small closed sets of names the other
files share: sequencers (R31), element types (R199), rounding codes (R69), trap causes (R168). -/

namespace Sys2Proof

/-- A scalar register value and an instruction word are 64 bits (R184, R210). -/
abbrev Word := BitVec 64
/-- A byte of memory. -/
abbrev Byte := BitVec 8
/-- A 32-bit cell of a tile row (R269). -/
abbrev Cell32 := BitVec 32
/-- A 6-bit scalar register field (R195). -/
abbrev RegF := BitVec 6

/-- The four sequencers of a bank, in the order that decides everything on one clock (R31, R103, R170). -/
inductive Seq where
  | K | L | X | D
  deriving DecidableEq, Repr, Inhabited

/-- K 0, L 1, X 2, D 3 (R179). -/
def Seq.idx : Seq → Nat
  | .K => 0
  | .L => 1
  | .X => 2
  | .D => 3

/-- The sequencer of a number; numbers above 3 name D. -/
def Seq.ofIdx : Nat → Seq
  | 0 => .K
  | 1 => .L
  | 2 => .X
  | _ => .D

/-- The element types of TY codes 0 to 14 (R199). -/
inductive Ty where
  | f32 | f64 | bf16 | f16 | e4m3 | e5m2 | e2m1 | i32 | i16 | i8 | n8 | i4 | n32 | kb4 | kb8
  deriving DecidableEq, Repr, Inhabited

/-- The type of a TY code. Code 15 is reserved and no well-formed word carries it; it is given F32 only to make the
function total. -/
def Ty.ofCode : Nat → Ty
  | 0 => .f32
  | 1 => .f64
  | 2 => .bf16
  | 3 => .f16
  | 4 => .e4m3
  | 5 => .e5m2
  | 6 => .e2m1
  | 7 => .i32
  | 8 => .i16
  | 9 => .i8
  | 10 => .n8
  | 11 => .i4
  | 12 => .n32
  | 13 => .kb4
  | 14 => .kb8
  | _ => .f32

/-- The TY code of a type (R199). -/
def Ty.code : Ty → Nat
  | .f32 => 0
  | .f64 => 1
  | .bf16 => 2
  | .f16 => 3
  | .e4m3 => 4
  | .e5m2 => 5
  | .e2m1 => 6
  | .i32 => 7
  | .i16 => 8
  | .i8 => 9
  | .n8 => 10
  | .i4 => 11
  | .n32 => 12
  | .kb4 => 13
  | .kb8 => 14

/-- The rounding codes of R69; code 7 is reserved. -/
inductive Rnd where
  | rne | rna | rtz | rdn | rup | rto | rdh
  deriving DecidableEq, Repr, Inhabited

/-- The mode of a rounding code; 7 is reserved and no check lets it through (R69). -/
def Rnd.ofCode : Nat → Rnd
  | 0 => .rne
  | 1 => .rna
  | 2 => .rtz
  | 3 => .rdn
  | 4 => .rup
  | 5 => .rto
  | 6 => .rdh
  | _ => .rne

/-- The code of a rounding mode (R69). -/
def Rnd.code : Rnd → Nat
  | .rne => 0
  | .rna => 1
  | .rtz => 2
  | .rdn => 3
  | .rup => 4
  | .rto => 5
  | .rdh => 6

/-- The trap causes of R168. -/
inductive Cause where
  | illegal | streamx | priv | align | page | prot | atomRepro | witness | kbind | runaway | eccu | trap | bkpt | qovf
  | framex | trailx | gate | watchx
  deriving DecidableEq, Repr, Inhabited

/-- The code that records carry (R168). -/
def Cause.code : Cause → Nat
  | .illegal => 0x01
  | .streamx => 0x02
  | .priv => 0x03
  | .align => 0x04
  | .page => 0x05
  | .prot => 0x06
  | .atomRepro => 0x07
  | .witness => 0x08
  | .kbind => 0x09
  | .runaway => 0x0A
  | .eccu => 0x0B
  | .trap => 0x0C
  | .bkpt => 0x0D
  | .qovf => 0x0E
  | .framex => 0x0F
  | .trailx => 0x10
  | .gate => 0x11
  | .watchx => 0x12

/-- The kinds of access Translate knows (R28, R105), with the ACCESS codes of R179. -/
inductive Kind where
  | read | write | atomic | exec
  deriving DecidableEq, Repr, Inhabited

/-- ACCESS[1:0] of R179. -/
def Kind.code : Kind → Nat
  | .read => 0
  | .write => 1
  | .atomic => 2
  | .exec => 3

/-- The bit field [lo + n - 1 : lo] of a number (R27). -/
def fld (w lo n : Nat) : Nat := w / 2 ^ lo % 2 ^ n

/-- One bit of a number. -/
def bitOf (w i : Nat) : Bool := w / 2 ^ i % 2 == 1

/-- 1 for true. -/
def b2n (b : Bool) : Nat := if b then 1 else 0

/-- The word of a number, modulo 2^64. -/
abbrev word (n : Nat) : Word := BitVec.ofNat 64 n

end Sys2Proof
end

