-- ==== Sys2Proof/Syntax.lean ====
section
/-! DEFINITION. Syntax: the eight word formats (R184, R187 to R194), the peer flit (R357) and the one inductive of the
machine's steps: a constructor for each row of the opcode table, program words first, then the device's own steps. -/

namespace Sys2Proof

/-- The common header of a word (R184) without OP, which the constructor of Instr stands for. -/
structure Hdr where
  idle : BitVec 10
  pred : BitVec 3
  pneg : Bool
  deriving DecidableEq, Repr, Inhabited

/-- R format (R187). -/
structure RF where
  h : Hdr
  dst : RegF
  sa : RegF
  sb : RegF
  fn : BitVec 8
  imm : BitVec 16
  deriving DecidableEq, Repr, Inhabited

/-- I format (R188). -/
structure IF where
  h : Hdr
  dst : RegF
  sa : RegF
  imm : BitVec 30
  deriving DecidableEq, Repr, Inhabited

/-- J format (R189). -/
structure JF where
  h : Hdr
  lnk : RegF
  off : BitVec 36
  deriving DecidableEq, Repr, Inhabited

/-- M format (R190). -/
structure MF where
  h : Hdr
  ds : RegF
  base : RegF
  idx : RegF
  sz : BitVec 3
  sc : BitVec 3
  hint : BitVec 2
  fn : BitVec 4
  off : BitVec 12
  deriving DecidableEq, Repr, Inhabited

/-- V format (R191). -/
structure VF where
  h : Hdr
  td : BitVec 5
  ta : BitVec 5
  tb : BitVec 5
  tc : BitVec 5
  sm : BitVec 2
  sx : BitVec 5
  si : BitVec 6
  msk : BitVec 3
  ty : BitVec 4
  md : BitVec 2
  deriving DecidableEq, Repr, Inhabited

/-- X format, a matrix queue entry (R192). -/
structure XF where
  h : Hdr
  ew : BitVec 6
  ep : BitVec 6
  ts : BitVec 5
  sq : Bool
  ct : BitVec 4
  hn : BitVec 4
  fn : BitVec 6
  ty : BitVec 4
  t : Bool
  acc : Bool
  sat : Bool
  chn : BitVec 2
  deriving DecidableEq, Repr, Inhabited

/-- Q format, a command to an engine (R193). -/
structure QF where
  h : Hdr
  qn : BitVec 4
  da : RegF
  sa : RegF
  ln : RegF
  crc : BitVec 2
  fn : BitVec 6
  imm : BitVec 12
  deriving DecidableEq, Repr, Inhabited

/-- S format, a system word (R194); FN is the constructor. -/
structure SF where
  h : Hdr
  dst : RegF
  sa : RegF
  imm : BitVec 22
  deriving DecidableEq, Repr, Inhabited

/-- A peer flit (R357); TYPE and the virtual channel follow from OPC, and its bytes from all of it. -/
structure Flit where
  port : Nat
  part : Nat
  seq : Nat
  ack : Nat
  srcn : Nat
  dstn : Nat
  opc : Nat
  size : Nat
  tag : Nat
  fn : Nat
  addr : Nat
  data : List Byte
  deriving DecidableEq, Repr, Inhabited

/-- What the test of a bank found: the rows whose cells fail, and the sectors whose bytes cannot be corrected. -/
structure BankTest where
  fails : List Nat
  bad : List Nat
  deriving DecidableEq, Repr, Inhabited

/-- The steps of the device, one constructor a row of spec/opcode_table.json. Program words carry the fields of their
format; a device step carries the unit it happens at and what the outside world brings to it. -/
inductive Instr where
  -- scalar words (14_scalar)
  | nop (f : RF) | add (f : RF) | sub (f : RF) | and (f : RF) | or (f : RF) | xor (f : RF) | shl (f : RF) | shr (f : RF)
  | sra (f : RF) | rotl (f : RF) | min (f : RF) | max (f : RF) | minn (f : RF) | maxn (f : RF) | mul (f : RF)
  | mulh (f : RF) | mulhn (f : RF) | div (f : RF) | divn (f : RF) | rem (f : RF) | remn (f : RF) | clz (f : RF)
  | popc (f : RF) | brev (f : RF) | sext (f : RF) | zext (f : RF) | cmp (f : RF) | plog (f : RF) | sel (f : RF)
  | addi (f : IF) | andi (f : IF) | ori (f : IF) | xori (f : IF) | shli (f : IF) | shri (f : IF) | srai (f : IF)
  | muli (f : IF) | ldi (f : IF) | ldhi (f : IF)
  | br (f : JF) | call (f : JF) | jr (f : RF) | loop (f : RF) | brq (f : JF) | bopush (f : RF)
  | post (f : IF) | await (f : IF) | waitc (f : IF) | go (f : RF) | halt (f : RF) | yield (f : RF) | bar (f : RF)
  | amode (f : RF) | aadd (f : RF) | astep (f : RF)
  -- memory, atomic and Lookout words (15_memory_ops)
  | ld (f : MF) | st (f : MF) | ldq (f : MF) | stq (f : MF) | mark (f : MF) | fence (f : MF) | rinv (f : MF)
  | pref (f : MF) | rpin (f : MF) | runpin (f : MF) | atom (f : MF) | red (f : MF) | redx (f : MF) | rdx (f : MF)
  | waita (f : MF) | wset (f : MF) | wclr (f : RF) | warm (f : RF) | winfo (f : RF)
  -- engine and trail words
  | cpy (f : QF) | cpySnk (f : QF) | cpySrc (f : QF) | cpy2 (f : QF) | gath (f : QF) | scat (f : QF)
  | crcqSum (f : QF) | crcqPut (f : QF) | crcqSeed (f : QF) | trset (f : QF) | tradv (f : QF) | trel (f : QF)
  | qfence (f : QF) | qbind (f : QF)
  -- system words (23_system_ops)
  | csrr (f : SF) | csrw (f : SF) | csrs (f : SF) | csrc (f : SF) | trap (f : SF) | bkpt (f : SF) | rmark (f : SF)
  | ecall (f : SF)
  -- vector words (18_vector)
  | vadd (f : VF) | vsub (f : VF) | vmul (f : VF) | vfma (f : VF) | vmin (f : VF) | vmax (f : VF) | vabs (f : VF)
  | vneg (f : VF) | vand (f : VF) | vor (f : VF) | vxor (f : VF) | vshl (f : VF) | vshr (f : VF) | vsra (f : VF)
  | vsadd (f : VF) | vssub (f : VF) | vcmp (f : VF) | vsel (f : VF) | vmov (f : VF) | vmovIns (f : VF) | vsplat (f : VF)
  | viota (f : VF) | vcvt (f : VF) | vquant (f : VF) | vdeq (f : VF) | vchk (f : VF) | vclamp (f : VF) | vrcp (f : VF)
  | vrsq (f : VF) | vsqrt (f : VF) | vexp2 (f : VF) | vlog2 (f : VF) | vsin (f : VF) | vcos (f : VF) | vtanh (f : VF)
  | vrrot (f : VF) | vrbc (f : VF) | vcrot (f : VF) | vcbc (f : VF) | vrred (f : VF) | vrscan (f : VF) | vcred (f : VF)
  | vcscan (f : VF) | vtrn (f : VF) | vwmax (f : VF) | vwmin (f : VF) | vwmed (f : VF) | vwssum (f : VF)
  | vwclamp (f : VF) | vadj (f : VF) | vwout (f : VF) | vwin (f : VF) | vldw (f : VF) | vstw (f : VF) | vpopq (f : VF)
  | vpushq (f : VF) | vcpush (f : VF) | vcpop (f : VF)
  -- matrix words (21_matrix)
  | mldw (f : XF) | mswap (f : XF) | mmul (f : XF) | mzero (f : XF) | mrd (f : XF) | mrdq (f : XF) | mmode (f : XF)
  | mchain (f : XF) | kbind (f : XF) | krel (f : XF) | kgen (f : XF) | msolve (f : XF) | mstat (f : XF) | msamp (f : XF)
  -- steps of a bank's own units; `unit` 0 to 3 are K, L, X, D and 4 to 7 copy queues 0 to 3
  | postTakesEffect (bank unit : Nat)
  | waitaBoundExpiry (bank : Nat)
  | waitaReturn (bank : Nat)
  | engineCommandStart (bank queue : Nat)
  | engineCommandComplete (bank queue : Nat)
  | enginePageFault (bank queue : Nat)
  | trailRowArrival (bank trail row : Nat)
  | drainRowWritten (bank trail row : Nat)
  | ecallAnswer (bank : Nat)
  | matrixEntryStart (bank : Nat)
  | matrixEntryComplete (bank entry : Nat)
  | loadPerformed (bank unit id : Nat)
  | eccuDataDelivery (bank unit pos : Nat) (pa : Option Nat)
  | storePerformed (bank unit id : Nat)
  -- Lookout (10_lookout)
  | leadEntryWriteArrival (die slice : Nat)
  | triggerClose (bank : Nat)
  | rateWindowReset (die slice : Nat)
  -- launches, dependences, placement (09_tasks, 24_platform); `prov` names the provider launch queue
  | lqTailWrite (part : Nat) (prov : Bool) (value : Word)
  | launchEntryRead (part : Nat) (prov : Bool)
  | gangSubmission (die : Nat)
  | versionCopyComplete (part plot version : Nat)
  | gangReady (gang : Nat)
  | basketUp (quadLevel : Bool) (unit : Nat)
  | basketDown (quadLevel : Bool) (unit : Nat)
  | dispatch (bank : Nat)
  | overlayLoad (bank : Nat)
  | taskStart (gang : Nat)
  | taskRetire (bank : Nat)
  | gangCompletion (gang : Nat)
  | gateRead (gang : Nat)
  | versionPublication (part plot : Nat)
  | graphAccept (die : Nat)
  | graphTaskNode (graph node : Nat)
  | graphJoinNode (graph node : Nat)
  | graphIfNode (graph node : Nat)
  | graphSwitchNode (graph node : Nat)
  | graphWhileNode (graph node : Nat)
  | graphNodeSkip (graph node : Nat)
  | graphComplete (graph : Nat)
  -- bind records (R146): the record written, whole
  | bind (bank : Nat) (record : BitVec 128)
  | preempt (bank : Nat) (record : BitVec 128)
  | reserve (bank : Nat) (record : BitVec 128)
  | drain (bank : Nat) (record : BitVec 128)
  | save (bank : Nat) (record : BitVec 128)
  | restore (bank : Nat)
  | bankSwitchIn (bank : Nat)
  | rangerQuantumEnd (part : Nat)
  -- faults and their answers (11_faults)
  | faultRecordWrite (part : Nat)
  | fansCont (part : Nat) (value : Word)
  | fansRetire (part : Nat) (value : Word)
  | fansAerrClear (part : Nat) (value : Word)
  | rangerPagePlace (part : Nat) (seq : Nat)
  -- translation, migration, frames, resize (06_memory, 24_platform)
  | tinv (part : Nat) (whole : Bool) (lo len : Nat)
  | hotPageEpochEnd (die : Nat)
  | migration (die : Nat)
  | migrationComplete (die : Nat)
  | freqGive (part : Nat) (value : Word)
  | freqTake (part : Nat) (value : Word)
  | resizeGo (part : Nat)
  -- host (24_platform)
  | hostMemRead (addr size : Nat)
  | hostMemWrite (addr : Nat) (data : List Byte)
  | hostSnoop (addr : Nat) (invalidate : Bool)
  | lineWriteback (part line : Nat)
  | msixUnmask (part vector : Nat)
  -- peers (24_platform)
  | peerRead (f : Flit) | peerWrite (f : Flit) | peerAtom (f : Flit) | peerRed (f : Flit)
  | peerReadData (f : Flit) | peerWriteDone (f : Flit) | peerError (f : Flit) | peerAckFlit (f : Flit)
  -- reliability, bring-up, provider words (25_reliability, 24_platform)
  | dieStop (die unit : Nat) (pa : Option Nat)
  | attestRequest (value : Word)
  | providerWordWrite (offset : Nat) (value : Word)
  | recNone (bank : Nat) (record : BitVec 128)
  | attestDone
  | reset
  | backInvalidateAnswer (line : Nat)
  | flitRetry (port : Nat)
  | bistBankTest (stack pch bank : Nat) (found : BankTest)
  | capWindowEnd (link : Nat)
  deriving DecidableEq, Repr, Inhabited

end Sys2Proof
end

