-- ==== Sys2Proof/Config.lean ====
section
/-! DEFINITION. Config: what one device fixes and what the spec leaves open. The opaque constants have no body, so no
proof can rest on a value of them. -/

namespace Sys2Proof

/-- What the machine does next. `issue`: one issue opportunity of a bank's next sequencer (R31, R42). `event`: one of the
device's own steps. `record`: the device acts on a pending bind record (R146, R147). `evictTlb`, `evictUtlb`,
`evictLine`: a replacement that R106 and R99 leave to timing. `walk`: the walk that a word waits for (R44, R106). `logRecord`: a
logbook record that waited for its slot is written (R342). `upset`: an uncorrectable error strikes a sector (R362, R363).
`readWord`: the host reads a word of the provider control space or of a VF's BAR (R346, R347). -/
inductive Turn where
  | issue (bank : Nat)
  | event (i : Instr)
  | record (bank : Nat)
  | evictTlb (core entry : Nat)
  | evictUtlb (core entry : Nat)
  | evictTable (core entry : Nat)
  | evictLine (core line : Nat)
  | pinOverflow (slice : Nat)
  | walk (bank : Nat) (seq : Seq)
  | logRecord (part : Nat)
  | upset (sector : Nat)
  | readWord (offset : Nat)
  deriving DecidableEq, Repr, Inhabited

namespace Config

/-- The next turn, chosen by timing and by the outside world when the agenda names none (R129, R37): DESIGN CHOICE,
log 1. -/
opaque freeTurn : Nat → Turn

/-- A choice among `n` that the spec leaves to the part and that changes timing only, such as a victim (R106, R99): log 1. -/
opaque freeNat : Nat → Nat

/-- A byte that the spec gives no value, by its place: a coordinate of a point beyond the end of its trail row (log 26). -/
opaque freeByte : Nat → BitVec 8

/-- Which of the values within the stated bound a special function gives: a fixed function of the function, the type and
the operand's bits (R286): log 6. -/
opaque specPick : Nat → Nat → Nat → Nat

/-- Whether the signed Ranger firmware registers a service number from 4 on (R341): log 7. -/
opaque ecallRegistered : Nat → Bool

/-- The answer of a provider's service to an ECALL: a function of the service number, the argument and the moment
(R341): log 7. -/
opaque ecallAnswer : Nat → Nat → Nat → BitVec 64

/-- The bytes that the PUF's corrected response yields (R373): log 8. -/
opaque pufKey : Nat → BitVec 8

/-- The noise in the randomiser of the device's signatures, by the moment and the place (R374): log 8. -/
opaque signNoise : Nat → Nat → BitVec 8

/-- The check bytes of a flit, by its other bytes and the place (R357): log 72. -/
opaque flitCheck : List (BitVec 8) → Nat → BitVec 8

/-- The number of the device's own node (R357, R358): log 42. -/
opaque ownNode : Nat

/-- Where the repair list stands in the body of a configuration image, and how many entries it has (R367): log 9. -/
opaque repairSection : List (BitVec 8) → Nat × Nat

/-- The 4 KiB frames of a stack that hold a row: stack, pseudo-channel, bank, row (R93, R366): log 41. -/
opaque rowFrames : Nat → Nat → Nat → Nat → List Nat

/-- Where Ranger looks first for an area for a save of its own, by bank (R150): log 34. -/
opaque saveArea : Nat → Nat

end Config

end Sys2Proof
end

