-- ==== Sys2Proof/WellFormed.lean ====
section
/-! DEFINITION. WellFormed: which terms of Instr stand for an instruction word. These are the checks that a word's own
bits decide (step 3 of R207, with the fields each description leaves unused at 0 by R186); for the device's own steps,
the unit named exists (R3). -/

namespace Sys2Proof

/-- PRED 0 with PNEG 1 traps with ILLEGAL (R185). -/
def Hdr.wf (h : Hdr) : Bool := !(h.pred == 0 && h.pneg)

/-- Bits [41:0] all 0 (R212, R229). -/
def RF.bare (f : RF) : Bool := f.h.wf && f.dst == 0 && f.sa == 0 && f.sb == 0 && f.fn == 0 && f.imm == 0

/-- An ALU word of function code `c` (R202). -/
def RF.alu (f : RF) (c : Nat) : Bool := f.h.wf && f.fn.toNat == c

/-- A one-operand ALU word: SB and IMM16 are 0 (R213). -/
def RF.alu1 (f : RF) (c : Nat) : Bool := f.alu c && f.sb == 0 && f.imm == 0

/-- A predicate destination is p1 to p7 (R197). -/
def isPdst (r : RegF) : Bool := decide (1 ≤ r.toNat) && decide (r.toNat ≤ 7)

/-- A predicate source is p0 to p7 (R197). -/
def isPsrc (r : RegF) : Bool := decide (r.toNat ≤ 7)

/-- An address register value, 32 to 47 (R195). -/
def isA (r : RegF) : Bool := decide (32 ≤ r.toNat) && decide (r.toNat ≤ 47)

/-- A stream register value, 48 to 63 (R195). -/
def isQ (r : RegF) : Bool := decide (48 ≤ r.toNat)

/-- POST and AWAIT: DST and SA 0, IMM30[29:6] 0, event 1 to 63 (R226, R197). -/
def IF.event (f : IF) : Bool :=
  f.h.wf && f.dst == 0 && f.sa == 0 && decide (1 ≤ f.imm.toNat) && decide (f.imm.toNat ≤ 63)

/-- An address register word with destination a0 to a15 and SB 0 (R234). -/
def RF.addrReg (f : RF) : Bool := f.h.wf && isA f.dst && f.sb == 0

/-- The accepted SZ, SC, HINT and FN values of an M-format word (R237, R204). -/
def MF.fields (f : MF) (szs : List Nat) (scMax hintMax : Nat) (fns : List Nat) : Bool :=
  f.h.wf && szs.contains f.sz.toNat && decide (f.sc.toNat ≤ scMax) && decide (f.hint.toNat ≤ hintMax) &&
    fns.contains f.fn.toNat

/-- DS, BASE, IDX and OFF12 are 0. -/
def MF.noAddr (f : MF) : Bool := f.ds == 0 && f.base == 0 && f.idx == 0 && f.off == 0

/-- A copy-family command names copy queue 0 to 3 and carries no IMM12 (R193, R259, R261). -/
def QF.copy (f : QF) : Bool := f.h.wf && decide (f.qn.toNat ≤ 3) && f.imm == 0

/-- A trail command: DA, CRC and FN are 0 (R262). -/
def QF.trail (f : QF) : Bool := f.h.wf && f.da == 0 && f.crc == 0 && f.fn == 0

/-- The control word numbers that R333 assigns. -/
def cwAssigned (n : Nat) : Bool :=
  [0x000, 0x001, 0x008, 0x009, 0x00A, 0x00B, 0x00C, 0x00D, 0x00E, 0x00F, 0x010, 0x011, 0x012, 0x013, 0x014, 0x015,
    0x020, 0x021, 0x022, 0x023, 0x100, 0x101, 0x102, 0x103, 0x104, 0x105, 0x106, 0x110, 0x111, 0x112, 0x113,
    0x180, 0x181, 0x182, 0x188, 0x189, 0x18A, 0x18B, 0x18C, 0x18D].contains n

/-- A control word form: IMM22 is an assigned number (R330). -/
def SF.cw (f : SF) : Bool := f.h.wf && cwAssigned f.imm.toNat

/-- Type classes of R272, by TY code. -/
def tyFL (t : Nat) : Bool := decide (t ≤ 3)
/-- Integer types (R272). -/
def tyIN (t : Nat) : Bool := decide (7 ≤ t) && decide (t ≤ 12)
/-- TY 0 to 12 (R272). -/
def tyPL (t : Nat) : Bool := decide (t ≤ 12)
/-- F32, I32, N32 (R272). -/
def tyW32 (t : Nat) : Bool := t == 0 || t == 7 || t == 12
/-- KB4 and KB8. -/
def tyBlock (t : Nat) : Bool := t == 13 || t == 14
/-- The twelve array types of R302. -/
def tyArray (t : Nat) : Bool := decide (t ≤ 6) || t == 9 || t == 10 || t == 11 || tyBlock t

/-- Elements per row of a type (R269). -/
def rowElems (t : Nat) : Nat :=
  match Ty.ofCode t with
  | .f32 | .i32 | .n32 => 64
  | .f64 => 32
  | .bf16 | .f16 | .i16 => 128
  | .e4m3 | .e5m2 | .i8 | .n8 | .kb8 => 256
  | .e2m1 | .i4 | .kb4 => 512

/-- With SM 00, SX and SI are 0 unless the description assigns them (R198). -/
def VF.slice (f : VF) : Bool := f.sm != 0 || (f.sx == 0 && f.si == 0)

/-- No slice and no scalar operand. -/
def VF.plain (f : VF) : Bool := f.sm == 0 && f.sx == 0 && f.si == 0

/-- A two-source element-wise word (R274) on types `tys`; `rnd` says whether it rounds for FL types (R200). -/
def VF.ew2 (f : VF) (tys : Nat → Bool) (rnd : Bool) : Bool :=
  f.h.wf && f.slice && f.tc == 0 && tys f.ty.toNat && (f.md == 0 || (rnd && tyFL f.ty.toNat))

/-- A one-source element-wise word (R274, R285). -/
def VF.ew1 (f : VF) (tys : Nat → Bool) (rnd : Bool) : Bool := f.ew2 tys rnd && f.tb == 0

/-- FL or IN. -/
def tyFLIN (t : Nat) : Bool := tyFL t || tyIN t

/-- A rotate or broadcast (R287). -/
def VF.axisMove (f : VF) : Bool :=
  f.h.wf && f.sm == 0 && f.tb == 0 && f.tc == 0 && f.md == 0 && tyPL f.ty.toNat

/-- A reduction or scan (R288). -/
def VF.reduce (f : VF) : Bool :=
  f.h.wf && f.plain && f.tb == 0 && tyFLIN f.ty.toNat && decide (fld f.tc.toNat 0 2 ≤ 2) && fld f.tc.toNat 2 2 == 0 &&
    (!bitOf f.tc.toNat 4 || (tyIN f.ty.toNat && fld f.tc.toNat 0 2 == 0)) &&
    (f.md == 0 || (tyFL f.ty.toNat && fld f.tc.toNat 0 2 == 0))

/-- A witness producer other than VWCLAMP (R291). -/
def VF.witness (f : VF) (rnd : Bool) : Bool :=
  f.h.wf && f.sm == 0 && f.msk == 0 && f.tb == 0 && decide (f.tc.toNat < 16) && decide (f.sx.toNat < 8) &&
    tyW32 f.ty.toNat && (f.md == 0 || (rnd && f.ty == 0))

/-- A trail row word (R296, R297): trail in TA, SM 01, row count 0 to 16. -/
def VF.trailRow (f : VF) : Bool :=
  f.h.wf && decide (f.ta.toNat < 16) && f.sm == 1 && decide (f.tc.toNat ≤ 16) && f.ty == 0 && f.md == 0

/-- A tile row to or from a stream register (R298, R299). -/
def VF.streamRow (f : VF) : Bool :=
  f.h.wf && decide (f.tb.toNat < 16) && f.sm == 1 && f.tc == 0 && f.md == 0

/-- The matrix fields a word leaves unused are 0 (R303): TS with SQ, CT, HN, FN, TY, then T, ACC, SAT, CHN. -/
def XF.zero (f : XF) (ts ct hn fn ty : Bool) : Bool :=
  f.h.wf && (!ts || (f.ts == 0 && !f.sq)) && (!ct || f.ct == 0) && (!hn || f.hn == 0) && (!fn || f.fn == 0) &&
    (!ty || f.ty == 0)

/-- T, ACC, SAT and CHN are 0 where named. -/
def XF.zeroTail (f : XF) (t acc sat chn : Bool) : Bool :=
  (!t || !f.t) && (!acc || !f.acc) && (!sat || !f.sat) && (!chn || f.chn == 0)

/-- TS names a stream register with SQ 1 and TS[4] 0 (R192). -/
def XF.qOk (f : XF) : Bool := !f.sq || decide (f.ts.toNat < 16)

/-- MLDW (R303, R311). -/
def XF.mldwOk (f : XF) : Bool :=
  let k := f.fn.toNat
  f.zero (k == 3) true (k != 3) false false && f.zeroTail (k != 2) true (k != 3) true && decide (k ≤ 3) &&
    (f.sq == (k == 1)) && (decide (k = 0) || decide (f.ts.toNat < 16)) &&
    (if k = 3 then decide (f.ty.toNat ≤ 5) else tyArray f.ty.toNat)

/-- MMUL (R303, R312). -/
def XF.mmulOk (f : XF) : Bool :=
  f.zero false false false false false && f.zeroTail (!bitOf f.hn.toNat 3) true true false && !bitOf f.hn.toNat 2 &&
    f.qOk && (!bitOf f.hn.toNat 3 || (!f.sq && decide (f.ts.toNat < 16))) && tyArray f.ty.toNat &&
    decide (f.chn.toNat ≤ 1)

/-- MMODE (R303, R318). -/
def XF.mmodeOk (f : XF) : Bool :=
  f.zero (!bitOf f.fn.toNat 3) true true false true && f.zeroTail true true true true && f.qOk &&
    decide (fld f.fn.toNat 0 3 ≤ 6) && decide (f.fn.toNat < 16)

/-- MSAMP (R319). -/
def XF.msampOk (f : XF) : Bool :=
  f.zero true true true false true && f.zeroTail true true true true &&
    (decide (f.fn.toNat ≤ 16) || decide (f.fn.toNat = 32))

/-- Bank numbers 0 to 511: die, quad, core, bank (R3, R346). -/
def isBank (b : Nat) : Bool := decide (b < 512)
/-- Partitions 0 to 15 (R3). -/
def isPart (p : Nat) : Bool := decide (p < 16)
/-- Dies 0 to 3 (R3). -/
def isDie (d : Nat) : Bool := decide (d < 4)

/-- Which terms are instructions: every check of R207 that the bits of a word decide, and for a device step that the
unit it names exists. -/
def Instr.wf : Instr → Bool
  | .nop f => f.bare
  | .add f => f.alu 0x00
  | .sub f => f.alu 0x01
  | .and f => f.alu 0x02
  | .or f => f.alu 0x03
  | .xor f => f.alu 0x04
  | .shl f => f.alu 0x05
  | .shr f => f.alu 0x06
  | .sra f => f.alu 0x07
  | .rotl f => f.alu 0x08
  | .min f => f.alu 0x09
  | .max f => f.alu 0x0A
  | .minn f => f.alu 0x0B
  | .maxn f => f.alu 0x0C
  | .mul f => f.alu 0x0D
  | .mulh f => f.alu 0x0E
  | .mulhn f => f.alu 0x0F
  | .div f => f.alu 0x10
  | .divn f => f.alu 0x11
  | .rem f => f.alu 0x12
  | .remn f => f.alu 0x13
  | .clz f => f.alu1 0x14
  | .popc f => f.alu1 0x15
  | .brev f => f.alu1 0x16
  | .sext f => f.alu 0x17
  | .zext f => f.alu 0x18
  | .cmp f => f.h.wf && isPdst f.dst && decide (f.fn.toNat ≤ 5)
  | .plog f => f.h.wf && isPdst f.dst && isPsrc f.sa && isPsrc f.sb && decide (f.fn.toNat ≤ 5) &&
      (f.fn != 5 || f.sb == 0) && f.imm == 0
  | .sel f => f.h.wf && decide (f.fn.toNat < 16) && f.imm == 0
  | .addi f => f.h.wf
  | .andi f => f.h.wf
  | .ori f => f.h.wf
  | .xori f => f.h.wf
  | .shli f => f.h.wf
  | .shri f => f.h.wf
  | .srai f => f.h.wf
  | .muli f => f.h.wf
  | .ldi f => f.h.wf && f.sa == 0
  | .ldhi f => f.h.wf
  | .br f => f.h.wf && f.lnk == 0
  | .call f => f.h.wf && decide (1 ≤ f.lnk.toNat) && decide (f.lnk.toNat ≤ 31)
  | .jr f => f.h.wf && f.sb == 0 && f.fn == 0
  | .loop f => f.h.wf && f.dst == 0 && f.sb == 0 && f.fn == 0
  | .brq f => f.h.wf && f.lnk == 0
  | .bopush f => f.h.wf && f.dst == 0 && isPsrc f.sa && f.sb == 0 && f.imm == 0 && decide (f.fn.toNat < 32) &&
      decide (f.fn.toNat % 16 ≠ 0)
  | .post f => f.event
  | .await f => f.event
  | .waitc f => f.h.wf && f.dst == 0 && f.sa == 0 && decide (f.imm.toNat < 2 ^ 24)
  | .go f => f.bare
  | .halt f => f.bare
  | .yield f => f.bare
  | .bar f => f.h.wf && f.sb == 0 && f.imm == 0 && decide (8 ≤ f.fn.toNat) && decide (f.fn.toNat < 20)
  | .amode f => f.addrReg && f.imm == 0 && decide (f.fn.toNat < 4)
  | .aadd f => f.addrReg && f.fn == 0
  | .astep f => f.addrReg && f.fn == 0
  | .ld f => f.fields [0, 1, 2, 3] 5 2 [0, 1] && (f.fn == 0 || f.sz != 3)
  | .st f => f.fields [0, 1, 2, 3] 5 2 [0]
  | .ldq f => f.fields [0, 1, 2, 3, 4] 5 2 [0, 1] && (f.fn == 0 || decide (f.sz.toNat < 3)) && isQ f.ds
  | .stq f => f.fields [0, 1, 2, 3, 4] 5 2 [0] && isQ f.ds
  | .mark f => f.fields [0] 0 0 [0] && f.noAddr
  | .fence f => f.fields [0] 5 0 [0] && f.noAddr
  | .rinv f => f.fields [3, 4] 0 0 [0] && (f.sz == 3 || f.noAddr)
  | .pref f => f.fields [4] 0 2 [0] && f.ds == 0
  | .rpin f => f.fields [0] 0 0 [0]
  | .runpin f => f.fields [0] 0 0 [0] && f.base == 0 && f.idx == 0 && f.off == 0
  | .atom f => f.fields [2, 3] 5 0 [0, 1, 2, 3, 4, 5, 6, 7, 8, 9]
  | .red f => f.fields [2, 3] 5 0 [0, 1, 2, 3, 4, 5, 6, 7]
  | .redx f => f.fields [2, 3] 5 0 [0, 1] && (f.fn == 1) == (f.sz == 3)
  | .rdx f => f.fields [2, 3] 5 0 [0, 1, 2, 3, 4, 5, 8, 9, 10, 11, 12, 13] && bitOf f.fn.toNat 3 == (f.sz == 3)
  | .waita f => f.fields [2, 3] 0 0 [0] && decide (1 ≤ f.off.toNat) && decide (f.off.toNat ≤ 7)
  | .wset f => f.fields [4] 0 0 [0]
  | .wclr f => f.h.wf && f.dst == 0 && f.fn == 0 && f.sb == 0 && f.imm == 0
  | .warm f => f.h.wf && f.dst == 0 && f.fn == 0 && f.sb == 0 && f.imm == 0
  | .winfo f => f.h.wf && f.sb == 0 && f.imm == 0 && fld f.fn.toNat 2 2 == 0 && decide (f.fn.toNat < 32) &&
      (bitOf f.fn.toNat 4 || f.sa == 0)
  | .cpy f => f.copy && f.fn == 0
  | .cpySnk f => f.copy && (f.fn == 1 || (f.fn == 3 && f.sa == 0)) && f.da == 0
  | .cpySrc f => f.copy && f.fn == 2 && f.sa == 0 && f.crc != 3
  | .cpy2 f => f.copy && f.fn == 0 && !isQ f.da && !isQ f.sa
  | .gath f => f.copy && decide (f.fn.toNat < 8)
  | .scat f => f.copy && decide (f.fn.toNat < 8)
  | .crcqSum f => f.copy && f.fn == 0 && f.da == 0 && f.crc != 0
  | .crcqPut f => f.copy && f.fn == 1 && f.sa == 0 && f.ln == 0 && f.crc == 0
  | .crcqSeed f => f.copy && f.fn == 2 && f.da == 0 && f.ln == 0 && f.crc == 0
  | .trset f => f.trail && f.ln == 0
  | .tradv f => f.trail && f.sa == 0
  | .trel f => f.trail && f.sa == 0 && f.ln == 0 && f.imm == 0
  | .qfence f => f.trail && f.qn == 0 && f.sa == 0 && f.ln == 0 && decide (f.imm.toNat < 128)
  | .qbind f => f.h.wf && f.da == 0 && f.sa == 0 && f.ln == 0 && f.crc == 0 && decide (f.fn.toNat < 4) &&
      decide (f.imm.toNat < 16) && (f.fn != 3 || f.qn == 0)
  | .csrr f => f.cw && f.sa == 0
  | .csrw f => f.cw
  | .csrs f => f.cw
  | .csrc f => f.cw
  | .trap f => f.h.wf && f.dst == 0 && f.sa == 0 && f.imm == 0
  | .bkpt f => f.h.wf && f.dst == 0 && f.sa == 0 && f.imm == 0
  | .rmark f => f.h.wf && f.dst == 0
  | .ecall f => f.h.wf && decide (f.imm.toNat < 256)
  | .vadd f => f.ew2 tyFLIN true
  | .vsub f => f.ew2 tyFLIN true
  | .vmul f => f.ew2 tyFLIN true
  | .vfma f => f.h.wf && f.slice && tyFLIN f.ty.toNat && (f.md == 0 || tyFL f.ty.toNat)
  | .vmin f => f.ew2 tyFLIN false
  | .vmax f => f.ew2 tyFLIN false
  | .vabs f => f.ew1 tyFLIN false
  | .vneg f => f.ew1 tyFLIN false
  | .vand f => f.ew2 tyPL false
  | .vor f => f.ew2 tyPL false
  | .vxor f => f.ew2 tyPL false
  | .vshl f => f.ew2 tyIN false
  | .vshr f => f.ew2 tyIN false
  | .vsra f => f.ew2 tyIN false
  | .vsadd f => f.ew2 tyIN false
  | .vssub f => f.ew2 tyIN false
  | .vcmp f => f.h.wf && f.slice && f.md == 0 && tyFLIN f.ty.toNat && decide (f.td.toNat < 8) &&
      decide (f.tc.toNat < 8) && (tyFL f.ty.toNat || decide (f.tc.toNat < 6))
  | .vsel f => f.h.wf && f.slice && f.md == 0 && tyPL f.ty.toNat && decide (f.tc.toNat < 8)
  | .vmov f => f.h.wf && f.slice && f.md == 0 && tyPL f.ty.toNat && f.tb == 0 && f.tc == 0
  | .vmovIns f => f.h.wf && f.sm != 0 && f.md == 0 && tyPL f.ty.toNat && f.tc == 1
  | .vsplat f => f.h.wf && f.ta == 0 && f.tb == 0 && f.tc == 0 && f.sm == 0 && f.si == 0 && f.md == 0 && tyPL f.ty.toNat
  | .viota f => f.h.wf && f.ta == 0 && f.tb == 0 && f.tc == 0 && f.sm == 0 && f.md == 0 && tyIN f.ty.toNat
  | .vcvt f => f.h.wf && f.tb == 0 && f.sm == 0 && f.sx == 0 && tyPL f.ty.toNat && decide (fld f.tc.toNat 0 4 ≤ 14) &&
      decide (f.si.toNat < Nat.max 1 (Nat.max (rowElems f.ty.toNat / rowElems (fld f.tc.toNat 0 4))
        (rowElems (fld f.tc.toNat 0 4) / rowElems f.ty.toNat)))
  | .vquant f => f.h.wf && f.tb == 0 && f.sm == 0 && tyBlock f.ty.toNat &&
      decide (f.tc.toNat ≤ 3) && decide (f.si.toNat < rowElems f.ty.toNat / rowElems f.tc.toNat)
  | .vdeq f => f.h.wf && f.tb == 0 && f.sm == 0 && tyFL f.ty.toNat && tyBlock f.tc.toNat &&
      decide (f.si.toNat < rowElems f.tc.toNat / rowElems f.ty.toNat)
  | .vchk f => f.h.wf && f.plain && f.tb == 0 && f.tc == 0 && f.md == 0 && decide (f.td.toNat < 8) &&
      (decide (f.ty.toNat ≤ 5) || tyBlock f.ty.toNat)
  | .vclamp f => f.h.wf && f.slice && f.md == 0 && tyFLIN f.ty.toNat
  | .vrcp f => f.ew1 tyFL true
  | .vrsq f => f.ew1 tyFL false
  | .vsqrt f => f.ew1 tyFL true
  | .vexp2 f => f.ew1 tyFL false
  | .vlog2 f => f.ew1 tyFL false
  | .vsin f => f.ew1 tyFL false
  | .vcos f => f.ew1 tyFL false
  | .vtanh f => f.ew1 tyFL false
  | .vrrot f => f.axisMove
  | .vrbc f => f.axisMove
  | .vcrot f => f.axisMove
  | .vcbc f => f.axisMove
  | .vrred f => f.reduce
  | .vrscan f => f.reduce
  | .vcred f => f.reduce
  | .vcscan f => f.reduce
  | .vtrn f => f.h.wf && f.plain && f.tb == 0 && f.tc == 0 && f.md == 0 && tyW32 f.ty.toNat
  | .vwmax f => f.witness false
  | .vwmin f => f.witness false
  | .vwmed f => f.witness false
  | .vwssum f => f.witness true
  | .vwclamp f => f.h.wf && f.sm == 0 && f.msk == 0 && f.md == 0 && decide (f.sx.toNat < 8) && tyW32 f.ty.toNat
  | .vadj f => f.h.wf && f.ty == 0 && f.sm == 0 && f.md == 0 && decide (f.tb.toNat < 8) &&
      decide (fld f.tb.toNat 0 2 ≤ 2) && decide (f.tc.toNat < 16) && decide (f.sx.toNat < 8)
  | .vwout f => f.h.wf && f.plain && f.td == 0 && f.tc == 0 && f.msk == 0 && f.ty == 0 && f.md == 0 &&
      decide (f.ta.toNat < 8) && decide (f.tb.toNat < 16)
  | .vwin f => f.h.wf && f.plain && f.ta == 0 && f.tc == 0 && f.msk == 0 && f.ty == 0 && f.md == 0 &&
      decide (f.td.toNat < 8) && decide (f.tb.toNat < 16)
  | .vldw f => f.trailRow && f.tb == 0
  | .vstw f => f.trailRow && f.td == 0
  | .vpopq f => f.streamRow && f.ta == 0 && f.msk == 0 && f.ty == 0
  | .vpushq f => f.streamRow && f.td == 0 && f.msk == 0 && f.ty == 0
  | .vcpush f => f.streamRow && (tyW32 f.ty.toNat || f.ty == 1)
  | .vcpop f => f.streamRow && f.ta == 0 && (tyW32 f.ty.toNat || f.ty == 1)
  | .mldw f => f.mldwOk
  | .mswap f => f.zero true true true true true && f.zeroTail true true true true
  | .mmul f => f.mmulOk
  | .mzero f => f.zero true false true true true && f.zeroTail true true true true
  | .mrd f => f.zero false false false false false && f.zeroTail true false false true && !f.sq &&
      decide (f.hn.toNat < 8) && decide (f.ty.toNat ≤ 14)
  | .mrdq f => f.zero false false false false false && f.zeroTail true false false true && f.sq &&
      decide (f.ts.toNat < 16) && decide (f.hn.toNat < 4) && decide (f.ty.toNat ≤ 14)
  | .mmode f => f.mmodeOk
  | .mchain f => f.zero true false false false false && f.zeroTail true true true false && decide (f.hn.toNat < 4) &&
      tyArray f.ty.toNat && decide (f.chn.toNat ≤ 1)
  | .kbind f => f.zero false true false false false && f.zeroTail true false true true && !f.sq &&
      decide (f.fn.toNat < 16) && decide (f.ty.toNat ≤ 1)
  | .krel f => f.zero true true false true true && f.zeroTail true true true true
  | .kgen f => f.zero false true false false false && f.zeroTail true true true true && !f.sq &&
      decide (f.fn.toNat < 8) && decide (f.ty.toNat ≤ 1)
  | .msolve f => f.zero false false false false false && f.zeroTail true false true true && !f.sq &&
      decide (f.fn.toNat < 16) && decide (f.ty.toNat ≤ 1)
  | .mstat f => f.zero false true true true true && f.zeroTail true false true true && !f.sq
  | .msamp f => f.msampOk
  | .postTakesEffect b u => isBank b && decide (u < 4)
  | .waitaBoundExpiry b => isBank b
  | .waitaReturn b => isBank b
  | .engineCommandStart b q => isBank b && decide (q < 20)
  | .engineCommandComplete b q => isBank b && decide (q < 4)
  | .enginePageFault b q => isBank b && decide (q < 20)
  | .trailRowArrival b t _ => isBank b && decide (t < 16)
  | .drainRowWritten b t _ => isBank b && decide (t < 16)
  | .ecallAnswer b => isBank b
  | .matrixEntryStart b => isBank b
  | .matrixEntryComplete b e => isBank b && decide (e < 2)
  | .loadPerformed b u _ => isBank b && decide (u < 8)
  | .eccuDataDelivery b u _ _ => isBank b && decide (u < 5)
  | .storePerformed b u _ => isBank b && decide (u < 8)
  | .leadEntryWriteArrival d s => isDie d && decide (s < 80)
  | .triggerClose b => isBank b
  | .rateWindowReset d s => isDie d && decide (s < 80)
  | .lqTailWrite p _ _ => isPart p
  | .launchEntryRead p _ => isPart p
  | .gangSubmission d => isDie d
  | .versionCopyComplete p _ _ => isPart p
  | .gangReady _ => true
  | .basketUp q u => if q then decide (u < 64) else decide (u < 256)
  | .basketDown q u => if q then decide (u < 64) else decide (u < 256)
  | .dispatch b => isBank b
  | .overlayLoad b => isBank b
  | .taskStart _ => true
  | .taskRetire b => isBank b
  | .gangCompletion _ => true
  | .gateRead _ => true
  | .versionPublication p _ => isPart p
  | .graphAccept d => isDie d
  | .graphTaskNode _ n => decide (n < 4096)
  | .graphJoinNode _ n => decide (n < 4096)
  | .graphIfNode _ n => decide (n < 4096)
  | .graphSwitchNode _ n => decide (n < 4096)
  | .graphWhileNode _ n => decide (n < 4096)
  | .graphNodeSkip _ n => decide (n < 4096)
  | .graphComplete _ => true
  | .bind b r => isBank b && fld r.toNat 0 4 == 1
  | .preempt b r => isBank b && fld r.toNat 0 4 == 2
  | .reserve b r => isBank b && fld r.toNat 0 4 == 3
  | .drain b r => isBank b && fld r.toNat 0 4 == 4
  | .save b r => isBank b && fld r.toNat 0 4 == 5
  | .restore b => isBank b
  | .bankSwitchIn b => isBank b
  | .rangerQuantumEnd p => isPart p
  | .faultRecordWrite p => isPart p
  | .fansCont p _ => isPart p
  | .fansRetire p _ => isPart p
  | .fansAerrClear p _ => isPart p
  | .rangerPagePlace p _ => isPart p
  | .tinv p _ _ _ => isPart p
  | .hotPageEpochEnd d => isDie d
  | .migration d => isDie d
  | .migrationComplete d => isDie d
  | .freqGive p v => isPart p && !bitOf v.toNat 0
  | .freqTake p v => isPart p && bitOf v.toNat 0
  | .resizeGo p => isPart p
  | .hostMemRead _ n => decide (1 ≤ n) && decide (n ≤ 64)
  | .hostMemWrite _ d => decide (1 ≤ d.length) && decide (d.length ≤ 64)
  | .hostSnoop _ _ => true
  | .backInvalidateAnswer _ => true
  | .lineWriteback p _ => decide (p < 17)
  | .msixUnmask p v => isPart p && decide (v < 64)
  | .peerRead f => decide (f.port < 16) && f.opc == 1
  | .peerWrite f => decide (f.port < 16) && f.opc == 2
  | .peerAtom f => decide (f.port < 16) && f.opc == 3
  | .peerRed f => decide (f.port < 16) && f.opc == 4
  | .peerReadData f => decide (f.port < 16) && f.opc == 5
  | .peerWriteDone f => decide (f.port < 16) && f.opc == 6
  | .peerError f => decide (f.port < 16) && f.opc == 7
  | .peerAckFlit f => decide (f.port < 16)
  | .flitRetry p => decide (p < 16)
  | .dieStop d u _ => isDie d && decide (1 ≤ u) && decide (u ≤ 3)
  | .bistBankTest s p b _ => decide (s < 12) && decide (p < 64) && decide (b < 32)
  | .attestRequest _ => true
  | .attestDone => true
  | .reset => true
  | .providerWordWrite _ _ => true
  | .recNone b r => isBank b && (fld r.toNat 0 4 == 0 || decide (6 ≤ fld r.toNat 0 4))
  | .capWindowEnd l => decide (l < 29)

end Sys2Proof
end

