-- ==== Sys2Proof/Decode.lean ====
section
/-! DEFINITION. Decode: from the 64 bits of a word to an instruction, or a refusal by name (R184 to R207), and after it
the encoder written from the same tables. -/

namespace Sys2Proof

/-- Why the decoder refuses. `reservedOp`: OP is not listed in R201 (step 1 of R207). `badField`: a check of step 3 of
R207 fails. `truncated`: fewer than eight bytes are left. -/
inductive DecodeError where
  | reservedOp (op : Nat)
  | badField (op : Nat)
  | truncated
  deriving DecidableEq, Repr

/-- The `n` bits of `w` from bit `lo` up (R27). -/
def bits (w lo n : Nat) : BitVec n := BitVec.ofNat n (w / 2 ^ lo)

/-- One bit as a Bool. -/
def flag (w lo : Nat) : Bool := decide (w / 2 ^ lo % 2 = 1)

/-- The header (R184). -/
def unpackHdr (w : Nat) : Hdr := { idle := bits w 54 10, pred := bits w 43 3, pneg := flag w 42 }

/-- R format (R187). -/
def unpackR (w : Nat) : RF :=
  { h := unpackHdr w, dst := bits w 36 6, sa := bits w 30 6, sb := bits w 24 6, fn := bits w 16 8, imm := bits w 0 16 }

/-- I format (R188). -/
def unpackI (w : Nat) : IF := { h := unpackHdr w, dst := bits w 36 6, sa := bits w 30 6, imm := bits w 0 30 }

/-- J format (R189). -/
def unpackJ (w : Nat) : JF := { h := unpackHdr w, lnk := bits w 36 6, off := bits w 0 36 }

/-- M format (R190). -/
def unpackM (w : Nat) : MF :=
  { h := unpackHdr w, ds := bits w 36 6, base := bits w 30 6, idx := bits w 24 6, sz := bits w 21 3, sc := bits w 18 3,
    hint := bits w 16 2, fn := bits w 12 4, off := bits w 0 12 }

/-- V format (R191). -/
def unpackV (w : Nat) : VF :=
  { h := unpackHdr w, td := bits w 37 5, ta := bits w 32 5, tb := bits w 27 5, tc := bits w 22 5, sm := bits w 20 2,
    sx := bits w 15 5, si := bits w 9 6, msk := bits w 6 3, ty := bits w 2 4, md := bits w 0 2 }

/-- X format (R192); bit 0 is reserved and checked by `decodeWord`. -/
def unpackX (w : Nat) : XF :=
  { h := unpackHdr w, ew := bits w 36 6, ep := bits w 30 6, ts := bits w 25 5, sq := flag w 24, ct := bits w 20 4,
    hn := bits w 16 4, fn := bits w 10 6, ty := bits w 6 4, t := flag w 5, acc := flag w 4, sat := flag w 3,
    chn := bits w 1 2 }

/-- Q format (R193). -/
def unpackQ (w : Nat) : QF :=
  { h := unpackHdr w, qn := bits w 38 4, da := bits w 32 6, sa := bits w 26 6, ln := bits w 20 6, crc := bits w 18 2,
    fn := bits w 12 6, imm := bits w 0 12 }

/-- S format (R194). -/
def unpackS (w : Nat) : SF := { h := unpackHdr w, dst := bits w 28 6, sa := bits w 22 6, imm := bits w 0 22 }

/-- ALU operations by FN (R202). -/
def aluOf (f : RF) : Option Instr :=
  match f.fn.toNat with
  | 0x00 => some (.add f)
  | 0x01 => some (.sub f)
  | 0x02 => some (.and f)
  | 0x03 => some (.or f)
  | 0x04 => some (.xor f)
  | 0x05 => some (.shl f)
  | 0x06 => some (.shr f)
  | 0x07 => some (.sra f)
  | 0x08 => some (.rotl f)
  | 0x09 => some (.min f)
  | 0x0a => some (.max f)
  | 0x0b => some (.minn f)
  | 0x0c => some (.maxn f)
  | 0x0d => some (.mul f)
  | 0x0e => some (.mulh f)
  | 0x0f => some (.mulhn f)
  | 0x10 => some (.div f)
  | 0x11 => some (.divn f)
  | 0x12 => some (.rem f)
  | 0x13 => some (.remn f)
  | 0x14 => some (.clz f)
  | 0x15 => some (.popc f)
  | 0x16 => some (.brev f)
  | 0x17 => some (.sext f)
  | 0x18 => some (.zext f)
  | _ => none

/-- System functions by FN (R205). -/
def sysOf (fn : Nat) (f : SF) : Option Instr :=
  match fn with
  | 0x00 => some (.csrr f)
  | 0x01 => some (.csrw f)
  | 0x02 => some (.csrs f)
  | 0x03 => some (.csrc f)
  | 0x08 => some (.trap f)
  | 0x09 => some (.bkpt f)
  | 0x0a => some (.rmark f)
  | 0x0b => some (.ecall f)
  | _ => none

/-- CPY: FN bit 0 is SNK, bit 1 is SRC (R257). -/
def cpyOf (f : QF) : Option Instr :=
  match f.fn.toNat with
  | 0 => some (.cpy f)
  | 1 => some (.cpySnk f)
  | 2 => some (.cpySrc f)
  | 3 => some (.cpySnk f)
  | _ => none

/-- CRCQ: FN 0 sums, 1 puts, 2 seeds (R261). -/
def crcqOf (f : QF) : Option Instr :=
  match f.fn.toNat with
  | 0 => some (.crcqSum f)
  | 1 => some (.crcqPut f)
  | 2 => some (.crcqSeed f)
  | _ => none

/-- VMOV with TC 1 is VMOV.INS (R284). -/
def vmovOf (f : VF) : Option Instr :=
  match f.tc.toNat with
  | 0 => some (.vmov f)
  | 1 => some (.vmovIns f)
  | _ => none

/-- Whether R201 lists OP. -/
def opAssigned (op : Nat) : Bool :=
  decide (op ≤ 0x04) || (decide (0x08 ≤ op) && decide (op ≤ 0x11)) || (decide (0x18 ≤ op) && decide (op ≤ 0x1D)) ||
    (decide (0x20 ≤ op) && decide (op ≤ 0x25)) || (decide (0x28 ≤ op) && decide (op ≤ 0x2A)) || op == 0x30 ||
    (decide (0x40 ≤ op) && decide (op ≤ 0x46)) || op == 0x48 || op == 0x4A || op == 0x4B ||
    (decide (0x50 ≤ op) && decide (op ≤ 0x54)) || (decide (0x58 ≤ op) && decide (op ≤ 0x5B)) ||
    (decide (0x60 ≤ op) && decide (op ≤ 0x68)) || op == 0x6A || op == 0x78 ||
    (decide (0x80 ≤ op) && decide (op ≤ 0x87)) || (decide (0x89 ≤ op) && decide (op ≤ 0x9A)) ||
    (decide (0xA0 ≤ op) && decide (op ≤ 0xA7)) || (decide (0xB0 ≤ op) && decide (op ≤ 0xB8)) ||
    (decide (0xC0 ≤ op) && decide (op ≤ 0xC7)) || (decide (0xD0 ≤ op) && decide (op ≤ 0xD5)) ||
    (decide (0xE0 ≤ op) && decide (op ≤ 0xED))

/-- Which sequencers may issue OP, and for SYS its FN (R201, R205); a reserved OP or FN is no matter of this check. -/
def opStreams (op fn : Nat) (q : Seq) : Bool :=
  match q with
  | .K => decide (op ≤ 0x25) || op == 0x30 || (decide (0x40 ≤ op) && decide (op ≤ 0x60) && op != 0x42 && op != 0x43) ||
      op == 0x68 || op == 0x78
  | .L => (decide (op ≤ 0x24) && op != 0x23) || (decide (0x28 ≤ op) && decide (op ≤ 0x2A)) ||
      (decide (0x40 ≤ op) && decide (op ≤ 0x53) && op != 0x43 && op != 0x46) || (decide (0x60 ≤ op) && decide (op ≤ 0x6A)) ||
      (op == 0x78 && fn != 0x0A && fn != 0x0B)
  | .X => (decide (op ≤ 0x24) && op != 0x23) || (op == 0x78 && fn != 0x0A && fn != 0x0B) || decide (0x80 ≤ op)
  | .D => (decide (op ≤ 0x24) && op != 0x23) || (decide (0x28 ≤ op) && decide (op ≤ 0x2A)) ||
      (decide (0x40 ≤ op) && decide (op ≤ 0x53) && op != 0x42 && op != 0x46) || (decide (0x60 ≤ op) && decide (op ≤ 0x6A)) ||
      (op == 0x78 && fn != 0x0A && fn != 0x0B)

/-- The constructor that OP selects, with the fields of its format (R201). -/
def decodeOp (w : Nat) : Option Instr :=
  match w / 2 ^ 46 % 256 with
  | 0x00 => some (.nop (unpackR w))
  | 0x01 => aluOf (unpackR w)
  | 0x02 => some (.cmp (unpackR w))
  | 0x03 => some (.plog (unpackR w))
  | 0x04 => some (.sel (unpackR w))
  | 0x08 => some (.addi (unpackI w))
  | 0x09 => some (.andi (unpackI w))
  | 0x0a => some (.ori (unpackI w))
  | 0x0b => some (.xori (unpackI w))
  | 0x0c => some (.shli (unpackI w))
  | 0x0d => some (.shri (unpackI w))
  | 0x0e => some (.srai (unpackI w))
  | 0x0f => some (.muli (unpackI w))
  | 0x10 => some (.ldi (unpackI w))
  | 0x11 => some (.ldhi (unpackI w))
  | 0x18 => some (.br (unpackJ w))
  | 0x19 => some (.call (unpackJ w))
  | 0x1a => some (.jr (unpackR w))
  | 0x1b => some (.loop (unpackR w))
  | 0x1c => some (.brq (unpackJ w))
  | 0x1d => some (.bopush (unpackR w))
  | 0x20 => some (.post (unpackI w))
  | 0x21 => some (.await (unpackI w))
  | 0x22 => some (.waitc (unpackI w))
  | 0x23 => some (.go (unpackR w))
  | 0x24 => some (.halt (unpackR w))
  | 0x25 => some (.yield (unpackR w))
  | 0x28 => some (.amode (unpackR w))
  | 0x29 => some (.aadd (unpackR w))
  | 0x2a => some (.astep (unpackR w))
  | 0x30 => some (.bar (unpackR w))
  | 0x40 => some (.ld (unpackM w))
  | 0x41 => some (.st (unpackM w))
  | 0x42 => some (.ldq (unpackM w))
  | 0x43 => some (.stq (unpackM w))
  | 0x44 => some (.mark (unpackM w))
  | 0x45 => some (.fence (unpackM w))
  | 0x46 => some (.rinv (unpackM w))
  | 0x48 => some (.pref (unpackM w))
  | 0x4a => some (.rpin (unpackM w))
  | 0x4b => some (.runpin (unpackM w))
  | 0x50 => some (.atom (unpackM w))
  | 0x51 => some (.red (unpackM w))
  | 0x52 => some (.redx (unpackM w))
  | 0x53 => some (.rdx (unpackM w))
  | 0x54 => some (.waita (unpackM w))
  | 0x58 => some (.wset (unpackM w))
  | 0x59 => some (.wclr (unpackR w))
  | 0x5a => some (.warm (unpackR w))
  | 0x5b => some (.winfo (unpackR w))
  | 0x60 => cpyOf (unpackQ w)
  | 0x61 => some (.cpy2 (unpackQ w))
  | 0x62 => some (.gath (unpackQ w))
  | 0x63 => some (.scat (unpackQ w))
  | 0x64 => crcqOf (unpackQ w)
  | 0x65 => some (.trset (unpackQ w))
  | 0x66 => some (.tradv (unpackQ w))
  | 0x67 => some (.trel (unpackQ w))
  | 0x68 => some (.qfence (unpackQ w))
  | 0x6a => some (.qbind (unpackQ w))
  | 0x78 => sysOf (w / 2 ^ 34 % 256) (unpackS w)
  | 0x80 => some (.vadd (unpackV w))
  | 0x81 => some (.vsub (unpackV w))
  | 0x82 => some (.vmul (unpackV w))
  | 0x83 => some (.vfma (unpackV w))
  | 0x84 => some (.vmin (unpackV w))
  | 0x85 => some (.vmax (unpackV w))
  | 0x86 => some (.vabs (unpackV w))
  | 0x87 => some (.vneg (unpackV w))
  | 0x89 => some (.vand (unpackV w))
  | 0x8a => some (.vor (unpackV w))
  | 0x8b => some (.vxor (unpackV w))
  | 0x8c => some (.vshl (unpackV w))
  | 0x8d => some (.vshr (unpackV w))
  | 0x8e => some (.vsra (unpackV w))
  | 0x8f => some (.vsadd (unpackV w))
  | 0x90 => some (.vssub (unpackV w))
  | 0x91 => some (.vcmp (unpackV w))
  | 0x92 => some (.vsel (unpackV w))
  | 0x93 => vmovOf (unpackV w)
  | 0x94 => some (.vsplat (unpackV w))
  | 0x95 => some (.viota (unpackV w))
  | 0x96 => some (.vcvt (unpackV w))
  | 0x97 => some (.vquant (unpackV w))
  | 0x98 => some (.vdeq (unpackV w))
  | 0x99 => some (.vchk (unpackV w))
  | 0x9a => some (.vclamp (unpackV w))
  | 0xa0 => some (.vrcp (unpackV w))
  | 0xa1 => some (.vrsq (unpackV w))
  | 0xa2 => some (.vsqrt (unpackV w))
  | 0xa3 => some (.vexp2 (unpackV w))
  | 0xa4 => some (.vlog2 (unpackV w))
  | 0xa5 => some (.vsin (unpackV w))
  | 0xa6 => some (.vcos (unpackV w))
  | 0xa7 => some (.vtanh (unpackV w))
  | 0xb0 => some (.vrrot (unpackV w))
  | 0xb1 => some (.vrbc (unpackV w))
  | 0xb2 => some (.vrred (unpackV w))
  | 0xb3 => some (.vrscan (unpackV w))
  | 0xb4 => some (.vcrot (unpackV w))
  | 0xb5 => some (.vcbc (unpackV w))
  | 0xb6 => some (.vcred (unpackV w))
  | 0xb7 => some (.vcscan (unpackV w))
  | 0xb8 => some (.vtrn (unpackV w))
  | 0xc0 => some (.vwmax (unpackV w))
  | 0xc1 => some (.vwmin (unpackV w))
  | 0xc2 => some (.vwmed (unpackV w))
  | 0xc3 => some (.vwssum (unpackV w))
  | 0xc4 => some (.vwclamp (unpackV w))
  | 0xc5 => some (.vadj (unpackV w))
  | 0xc6 => some (.vwout (unpackV w))
  | 0xc7 => some (.vwin (unpackV w))
  | 0xd0 => some (.vldw (unpackV w))
  | 0xd1 => some (.vstw (unpackV w))
  | 0xd2 => some (.vpopq (unpackV w))
  | 0xd3 => some (.vpushq (unpackV w))
  | 0xd4 => some (.vcpush (unpackV w))
  | 0xd5 => some (.vcpop (unpackV w))
  | 0xe0 => if flag w 0 then none else some (.mldw (unpackX w))
  | 0xe1 => if flag w 0 then none else some (.mswap (unpackX w))
  | 0xe2 => if flag w 0 then none else some (.mmul (unpackX w))
  | 0xe3 => if flag w 0 then none else some (.mzero (unpackX w))
  | 0xe4 => if flag w 0 then none else some (.mrd (unpackX w))
  | 0xe5 => if flag w 0 then none else some (.mrdq (unpackX w))
  | 0xe6 => if flag w 0 then none else some (.mmode (unpackX w))
  | 0xe7 => if flag w 0 then none else some (.mchain (unpackX w))
  | 0xe8 => if flag w 0 then none else some (.kbind (unpackX w))
  | 0xe9 => if flag w 0 then none else some (.krel (unpackX w))
  | 0xea => if flag w 0 then none else some (.kgen (unpackX w))
  | 0xeb => if flag w 0 then none else some (.msolve (unpackX w))
  | 0xec => if flag w 0 then none else some (.mstat (unpackX w))
  | 0xed => if flag w 0 then none else some (.msamp (unpackX w))
  | _ => none

/-- Decoding a word given as a number (R184, R201, R207 steps 1 and 3). -/
def decodeNat (w : Nat) : Except DecodeError Instr :=
  if opAssigned (w / 2 ^ 46 % 256) then
    match decodeOp w with
    | some i => if i.wf then .ok i else .error (.badField (w / 2 ^ 46 % 256))
    | none => .error (.badField (w / 2 ^ 46 % 256))
  else .error (.reservedOp (w / 2 ^ 46 % 256))

/-- Decoding a word. -/
def decodeWord (w : Word) : Except DecodeError Instr := decodeNat w.toNat

/-- The number whose little-endian bytes these are (R14). -/
def leNat : List Byte → Nat
  | [] => 0
  | b :: bs => b.toNat + 256 * leNat bs

/-- The `n` little-endian bytes of a number (R14). -/
def leBytes : Nat → Nat → List Byte
  | 0, _ => []
  | n + 1, v => BitVec.ofNat 8 v :: leBytes n (v / 256)

/-- Decoding from bytes: eight bytes, little-endian (R184); the rest of the list is answered too. -/
def decode (bs : List Byte) : Except DecodeError (Instr × List Byte) :=
  if 8 ≤ bs.length then
    match decodeNat (leNat (bs.take 8)) with
    | .ok i => .ok (i, bs.drop 8)
    | .error e => .error e
  else .error .truncated

/-- The instruction the decoder reads from the bits the opcode table numbers (the model's answer to the host). -/
def decodeTableWord (_nbits w : Nat) : Option Instr :=
  match decode (leBytes 8 w) with
  | .ok (i, _) => some i
  | .error _ => none

/-! ## The encoder -/

/-- Bits [63:42] (R184). -/
def packHdr (op : Nat) (h : Hdr) : Nat :=
  h.idle.toNat * 2 ^ 54 + op * 2 ^ 46 + h.pred.toNat * 2 ^ 43 + b2n h.pneg * 2 ^ 42

/-- R format (R187). -/
def packR (op : Nat) (f : RF) : Nat :=
  packHdr op f.h + f.dst.toNat * 2 ^ 36 + f.sa.toNat * 2 ^ 30 + f.sb.toNat * 2 ^ 24 + f.fn.toNat * 2 ^ 16 + f.imm.toNat

/-- I format (R188). -/
def packI (op : Nat) (f : IF) : Nat :=
  packHdr op f.h + f.dst.toNat * 2 ^ 36 + f.sa.toNat * 2 ^ 30 + f.imm.toNat

/-- J format (R189). -/
def packJ (op : Nat) (f : JF) : Nat := packHdr op f.h + f.lnk.toNat * 2 ^ 36 + f.off.toNat

/-- M format (R190). -/
def packM (op : Nat) (f : MF) : Nat :=
  packHdr op f.h + f.ds.toNat * 2 ^ 36 + f.base.toNat * 2 ^ 30 + f.idx.toNat * 2 ^ 24 + f.sz.toNat * 2 ^ 21 +
    f.sc.toNat * 2 ^ 18 + f.hint.toNat * 2 ^ 16 + f.fn.toNat * 2 ^ 12 + f.off.toNat

/-- V format (R191). -/
def packV (op : Nat) (f : VF) : Nat :=
  packHdr op f.h + f.td.toNat * 2 ^ 37 + f.ta.toNat * 2 ^ 32 + f.tb.toNat * 2 ^ 27 + f.tc.toNat * 2 ^ 22 +
    f.sm.toNat * 2 ^ 20 + f.sx.toNat * 2 ^ 15 + f.si.toNat * 2 ^ 9 + f.msk.toNat * 2 ^ 6 + f.ty.toNat * 2 ^ 2 + f.md.toNat

/-- X format (R192). -/
def packX (op : Nat) (f : XF) : Nat :=
  packHdr op f.h + f.ew.toNat * 2 ^ 36 + f.ep.toNat * 2 ^ 30 + f.ts.toNat * 2 ^ 25 + b2n f.sq * 2 ^ 24 +
    f.ct.toNat * 2 ^ 20 + f.hn.toNat * 2 ^ 16 + f.fn.toNat * 2 ^ 10 + f.ty.toNat * 2 ^ 6 + b2n f.t * 2 ^ 5 +
    b2n f.acc * 2 ^ 4 + b2n f.sat * 2 ^ 3 + f.chn.toNat * 2

/-- Q format (R193). -/
def packQ (op : Nat) (f : QF) : Nat :=
  packHdr op f.h + f.qn.toNat * 2 ^ 38 + f.da.toNat * 2 ^ 32 + f.sa.toNat * 2 ^ 26 + f.ln.toNat * 2 ^ 20 +
    f.crc.toNat * 2 ^ 18 + f.fn.toNat * 2 ^ 12 + f.imm.toNat

/-- S format (R194), with the system function code. -/
def packS (fn : Nat) (f : SF) : Nat :=
  packHdr 0x78 f.h + fn * 2 ^ 34 + f.dst.toNat * 2 ^ 28 + f.sa.toNat * 2 ^ 22 + f.imm.toNat

/-- The word of an instruction as a number; `none` for the device's own steps, which no word stands for. -/
def encodeNat : Instr → Option Nat
  | .add f => some (packR 0x01 f)
  | .sub f => some (packR 0x01 f)
  | .and f => some (packR 0x01 f)
  | .or f => some (packR 0x01 f)
  | .xor f => some (packR 0x01 f)
  | .shl f => some (packR 0x01 f)
  | .shr f => some (packR 0x01 f)
  | .sra f => some (packR 0x01 f)
  | .rotl f => some (packR 0x01 f)
  | .min f => some (packR 0x01 f)
  | .max f => some (packR 0x01 f)
  | .minn f => some (packR 0x01 f)
  | .maxn f => some (packR 0x01 f)
  | .mul f => some (packR 0x01 f)
  | .mulh f => some (packR 0x01 f)
  | .mulhn f => some (packR 0x01 f)
  | .div f => some (packR 0x01 f)
  | .divn f => some (packR 0x01 f)
  | .rem f => some (packR 0x01 f)
  | .remn f => some (packR 0x01 f)
  | .clz f => some (packR 0x01 f)
  | .popc f => some (packR 0x01 f)
  | .brev f => some (packR 0x01 f)
  | .sext f => some (packR 0x01 f)
  | .zext f => some (packR 0x01 f)
  | .nop f => some (packR 0x00 f)
  | .cmp f => some (packR 0x02 f)
  | .plog f => some (packR 0x03 f)
  | .sel f => some (packR 0x04 f)
  | .addi f => some (packI 0x08 f)
  | .andi f => some (packI 0x09 f)
  | .ori f => some (packI 0x0a f)
  | .xori f => some (packI 0x0b f)
  | .shli f => some (packI 0x0c f)
  | .shri f => some (packI 0x0d f)
  | .srai f => some (packI 0x0e f)
  | .muli f => some (packI 0x0f f)
  | .ldi f => some (packI 0x10 f)
  | .ldhi f => some (packI 0x11 f)
  | .br f => some (packJ 0x18 f)
  | .call f => some (packJ 0x19 f)
  | .jr f => some (packR 0x1a f)
  | .loop f => some (packR 0x1b f)
  | .brq f => some (packJ 0x1c f)
  | .bopush f => some (packR 0x1d f)
  | .post f => some (packI 0x20 f)
  | .await f => some (packI 0x21 f)
  | .waitc f => some (packI 0x22 f)
  | .go f => some (packR 0x23 f)
  | .halt f => some (packR 0x24 f)
  | .yield f => some (packR 0x25 f)
  | .amode f => some (packR 0x28 f)
  | .aadd f => some (packR 0x29 f)
  | .astep f => some (packR 0x2a f)
  | .bar f => some (packR 0x30 f)
  | .ld f => some (packM 0x40 f)
  | .st f => some (packM 0x41 f)
  | .ldq f => some (packM 0x42 f)
  | .stq f => some (packM 0x43 f)
  | .mark f => some (packM 0x44 f)
  | .fence f => some (packM 0x45 f)
  | .rinv f => some (packM 0x46 f)
  | .pref f => some (packM 0x48 f)
  | .rpin f => some (packM 0x4a f)
  | .runpin f => some (packM 0x4b f)
  | .atom f => some (packM 0x50 f)
  | .red f => some (packM 0x51 f)
  | .redx f => some (packM 0x52 f)
  | .rdx f => some (packM 0x53 f)
  | .waita f => some (packM 0x54 f)
  | .wset f => some (packM 0x58 f)
  | .wclr f => some (packR 0x59 f)
  | .warm f => some (packR 0x5a f)
  | .winfo f => some (packR 0x5b f)
  | .cpy f => some (packQ 0x60 f)
  | .cpySnk f => some (packQ 0x60 f)
  | .cpySrc f => some (packQ 0x60 f)
  | .cpy2 f => some (packQ 0x61 f)
  | .gath f => some (packQ 0x62 f)
  | .scat f => some (packQ 0x63 f)
  | .crcqSum f => some (packQ 0x64 f)
  | .crcqPut f => some (packQ 0x64 f)
  | .crcqSeed f => some (packQ 0x64 f)
  | .trset f => some (packQ 0x65 f)
  | .tradv f => some (packQ 0x66 f)
  | .trel f => some (packQ 0x67 f)
  | .qfence f => some (packQ 0x68 f)
  | .qbind f => some (packQ 0x6a f)
  | .vadd f => some (packV 0x80 f)
  | .vsub f => some (packV 0x81 f)
  | .vmul f => some (packV 0x82 f)
  | .vfma f => some (packV 0x83 f)
  | .vmin f => some (packV 0x84 f)
  | .vmax f => some (packV 0x85 f)
  | .vabs f => some (packV 0x86 f)
  | .vneg f => some (packV 0x87 f)
  | .vand f => some (packV 0x89 f)
  | .vor f => some (packV 0x8a f)
  | .vxor f => some (packV 0x8b f)
  | .vshl f => some (packV 0x8c f)
  | .vshr f => some (packV 0x8d f)
  | .vsra f => some (packV 0x8e f)
  | .vsadd f => some (packV 0x8f f)
  | .vssub f => some (packV 0x90 f)
  | .vcmp f => some (packV 0x91 f)
  | .vsel f => some (packV 0x92 f)
  | .vmov f => some (packV 0x93 f)
  | .vmovIns f => some (packV 0x93 f)
  | .vsplat f => some (packV 0x94 f)
  | .viota f => some (packV 0x95 f)
  | .vcvt f => some (packV 0x96 f)
  | .vquant f => some (packV 0x97 f)
  | .vdeq f => some (packV 0x98 f)
  | .vchk f => some (packV 0x99 f)
  | .vclamp f => some (packV 0x9a f)
  | .vrcp f => some (packV 0xa0 f)
  | .vrsq f => some (packV 0xa1 f)
  | .vsqrt f => some (packV 0xa2 f)
  | .vexp2 f => some (packV 0xa3 f)
  | .vlog2 f => some (packV 0xa4 f)
  | .vsin f => some (packV 0xa5 f)
  | .vcos f => some (packV 0xa6 f)
  | .vtanh f => some (packV 0xa7 f)
  | .vrrot f => some (packV 0xb0 f)
  | .vrbc f => some (packV 0xb1 f)
  | .vrred f => some (packV 0xb2 f)
  | .vrscan f => some (packV 0xb3 f)
  | .vcrot f => some (packV 0xb4 f)
  | .vcbc f => some (packV 0xb5 f)
  | .vcred f => some (packV 0xb6 f)
  | .vcscan f => some (packV 0xb7 f)
  | .vtrn f => some (packV 0xb8 f)
  | .vwmax f => some (packV 0xc0 f)
  | .vwmin f => some (packV 0xc1 f)
  | .vwmed f => some (packV 0xc2 f)
  | .vwssum f => some (packV 0xc3 f)
  | .vwclamp f => some (packV 0xc4 f)
  | .vadj f => some (packV 0xc5 f)
  | .vwout f => some (packV 0xc6 f)
  | .vwin f => some (packV 0xc7 f)
  | .vldw f => some (packV 0xd0 f)
  | .vstw f => some (packV 0xd1 f)
  | .vpopq f => some (packV 0xd2 f)
  | .vpushq f => some (packV 0xd3 f)
  | .vcpush f => some (packV 0xd4 f)
  | .vcpop f => some (packV 0xd5 f)
  | .mldw f => some (packX 0xe0 f)
  | .mswap f => some (packX 0xe1 f)
  | .mmul f => some (packX 0xe2 f)
  | .mzero f => some (packX 0xe3 f)
  | .mrd f => some (packX 0xe4 f)
  | .mrdq f => some (packX 0xe5 f)
  | .mmode f => some (packX 0xe6 f)
  | .mchain f => some (packX 0xe7 f)
  | .kbind f => some (packX 0xe8 f)
  | .krel f => some (packX 0xe9 f)
  | .kgen f => some (packX 0xea f)
  | .msolve f => some (packX 0xeb f)
  | .mstat f => some (packX 0xec f)
  | .msamp f => some (packX 0xed f)
  | .csrr f => some (packS 0x00 f)
  | .csrw f => some (packS 0x01 f)
  | .csrs f => some (packS 0x02 f)
  | .csrc f => some (packS 0x03 f)
  | .trap f => some (packS 0x08 f)
  | .bkpt f => some (packS 0x09 f)
  | .rmark f => some (packS 0x0a f)
  | .ecall f => some (packS 0x0b f)
  | _ => none

/-- OP and, for SYS, FN of a program word (R201, R205); the device's own steps have none. -/
def opOf : Instr → Option (Nat × Nat)
  | .add _ => some (0x01, 0)
  | .sub _ => some (0x01, 0)
  | .and _ => some (0x01, 0)
  | .or _ => some (0x01, 0)
  | .xor _ => some (0x01, 0)
  | .shl _ => some (0x01, 0)
  | .shr _ => some (0x01, 0)
  | .sra _ => some (0x01, 0)
  | .rotl _ => some (0x01, 0)
  | .min _ => some (0x01, 0)
  | .max _ => some (0x01, 0)
  | .minn _ => some (0x01, 0)
  | .maxn _ => some (0x01, 0)
  | .mul _ => some (0x01, 0)
  | .mulh _ => some (0x01, 0)
  | .mulhn _ => some (0x01, 0)
  | .div _ => some (0x01, 0)
  | .divn _ => some (0x01, 0)
  | .rem _ => some (0x01, 0)
  | .remn _ => some (0x01, 0)
  | .clz _ => some (0x01, 0)
  | .popc _ => some (0x01, 0)
  | .brev _ => some (0x01, 0)
  | .sext _ => some (0x01, 0)
  | .zext _ => some (0x01, 0)
  | .nop _ => some (0x00, 0)
  | .cmp _ => some (0x02, 0)
  | .plog _ => some (0x03, 0)
  | .sel _ => some (0x04, 0)
  | .addi _ => some (0x08, 0)
  | .andi _ => some (0x09, 0)
  | .ori _ => some (0x0a, 0)
  | .xori _ => some (0x0b, 0)
  | .shli _ => some (0x0c, 0)
  | .shri _ => some (0x0d, 0)
  | .srai _ => some (0x0e, 0)
  | .muli _ => some (0x0f, 0)
  | .ldi _ => some (0x10, 0)
  | .ldhi _ => some (0x11, 0)
  | .br _ => some (0x18, 0)
  | .call _ => some (0x19, 0)
  | .jr _ => some (0x1a, 0)
  | .loop _ => some (0x1b, 0)
  | .brq _ => some (0x1c, 0)
  | .bopush _ => some (0x1d, 0)
  | .post _ => some (0x20, 0)
  | .await _ => some (0x21, 0)
  | .waitc _ => some (0x22, 0)
  | .go _ => some (0x23, 0)
  | .halt _ => some (0x24, 0)
  | .yield _ => some (0x25, 0)
  | .amode _ => some (0x28, 0)
  | .aadd _ => some (0x29, 0)
  | .astep _ => some (0x2a, 0)
  | .bar _ => some (0x30, 0)
  | .ld _ => some (0x40, 0)
  | .st _ => some (0x41, 0)
  | .ldq _ => some (0x42, 0)
  | .stq _ => some (0x43, 0)
  | .mark _ => some (0x44, 0)
  | .fence _ => some (0x45, 0)
  | .rinv _ => some (0x46, 0)
  | .pref _ => some (0x48, 0)
  | .rpin _ => some (0x4a, 0)
  | .runpin _ => some (0x4b, 0)
  | .atom _ => some (0x50, 0)
  | .red _ => some (0x51, 0)
  | .redx _ => some (0x52, 0)
  | .rdx _ => some (0x53, 0)
  | .waita _ => some (0x54, 0)
  | .wset _ => some (0x58, 0)
  | .wclr _ => some (0x59, 0)
  | .warm _ => some (0x5a, 0)
  | .winfo _ => some (0x5b, 0)
  | .cpy _ => some (0x60, 0)
  | .cpySnk _ => some (0x60, 0)
  | .cpySrc _ => some (0x60, 0)
  | .cpy2 _ => some (0x61, 0)
  | .gath _ => some (0x62, 0)
  | .scat _ => some (0x63, 0)
  | .crcqSum _ => some (0x64, 0)
  | .crcqPut _ => some (0x64, 0)
  | .crcqSeed _ => some (0x64, 0)
  | .trset _ => some (0x65, 0)
  | .tradv _ => some (0x66, 0)
  | .trel _ => some (0x67, 0)
  | .qfence _ => some (0x68, 0)
  | .qbind _ => some (0x6a, 0)
  | .vadd _ => some (0x80, 0)
  | .vsub _ => some (0x81, 0)
  | .vmul _ => some (0x82, 0)
  | .vfma _ => some (0x83, 0)
  | .vmin _ => some (0x84, 0)
  | .vmax _ => some (0x85, 0)
  | .vabs _ => some (0x86, 0)
  | .vneg _ => some (0x87, 0)
  | .vand _ => some (0x89, 0)
  | .vor _ => some (0x8a, 0)
  | .vxor _ => some (0x8b, 0)
  | .vshl _ => some (0x8c, 0)
  | .vshr _ => some (0x8d, 0)
  | .vsra _ => some (0x8e, 0)
  | .vsadd _ => some (0x8f, 0)
  | .vssub _ => some (0x90, 0)
  | .vcmp _ => some (0x91, 0)
  | .vsel _ => some (0x92, 0)
  | .vmov _ => some (0x93, 0)
  | .vmovIns _ => some (0x93, 0)
  | .vsplat _ => some (0x94, 0)
  | .viota _ => some (0x95, 0)
  | .vcvt _ => some (0x96, 0)
  | .vquant _ => some (0x97, 0)
  | .vdeq _ => some (0x98, 0)
  | .vchk _ => some (0x99, 0)
  | .vclamp _ => some (0x9a, 0)
  | .vrcp _ => some (0xa0, 0)
  | .vrsq _ => some (0xa1, 0)
  | .vsqrt _ => some (0xa2, 0)
  | .vexp2 _ => some (0xa3, 0)
  | .vlog2 _ => some (0xa4, 0)
  | .vsin _ => some (0xa5, 0)
  | .vcos _ => some (0xa6, 0)
  | .vtanh _ => some (0xa7, 0)
  | .vrrot _ => some (0xb0, 0)
  | .vrbc _ => some (0xb1, 0)
  | .vrred _ => some (0xb2, 0)
  | .vrscan _ => some (0xb3, 0)
  | .vcrot _ => some (0xb4, 0)
  | .vcbc _ => some (0xb5, 0)
  | .vcred _ => some (0xb6, 0)
  | .vcscan _ => some (0xb7, 0)
  | .vtrn _ => some (0xb8, 0)
  | .vwmax _ => some (0xc0, 0)
  | .vwmin _ => some (0xc1, 0)
  | .vwmed _ => some (0xc2, 0)
  | .vwssum _ => some (0xc3, 0)
  | .vwclamp _ => some (0xc4, 0)
  | .vadj _ => some (0xc5, 0)
  | .vwout _ => some (0xc6, 0)
  | .vwin _ => some (0xc7, 0)
  | .vldw _ => some (0xd0, 0)
  | .vstw _ => some (0xd1, 0)
  | .vpopq _ => some (0xd2, 0)
  | .vpushq _ => some (0xd3, 0)
  | .vcpush _ => some (0xd4, 0)
  | .vcpop _ => some (0xd5, 0)
  | .mldw _ => some (0xe0, 0)
  | .mswap _ => some (0xe1, 0)
  | .mmul _ => some (0xe2, 0)
  | .mzero _ => some (0xe3, 0)
  | .mrd _ => some (0xe4, 0)
  | .mrdq _ => some (0xe5, 0)
  | .mmode _ => some (0xe6, 0)
  | .mchain _ => some (0xe7, 0)
  | .kbind _ => some (0xe8, 0)
  | .krel _ => some (0xe9, 0)
  | .kgen _ => some (0xea, 0)
  | .msolve _ => some (0xeb, 0)
  | .mstat _ => some (0xec, 0)
  | .msamp _ => some (0xed, 0)
  | .csrr _ => some (0x78, 0x00)
  | .csrw _ => some (0x78, 0x01)
  | .csrs _ => some (0x78, 0x02)
  | .csrc _ => some (0x78, 0x03)
  | .trap _ => some (0x78, 0x08)
  | .bkpt _ => some (0x78, 0x09)
  | .rmark _ => some (0x78, 0x0a)
  | .ecall _ => some (0x78, 0x0b)
  | _ => none

/-- The word of an instruction. -/
def encodeWord (i : Instr) : Option Word := (encodeNat i).map word

/-- The bytes of an instruction as instruction memory holds them, lowest address first (R184). -/
def encode (i : Instr) : Option (List Byte) := (encodeNat i).map (leBytes 8)

end Sys2Proof
end

