-- ==== Sys2Proof/Machine/Num.lean ====
section
/-! DEFINITION. Num: the values of the formats (R58 to R68), rounding (R69 to R74), block quantisation (R83 to R86) and
the dither hash (R70), computed exactly on integers. -/

namespace Sys2Proof.Machine

/-- An exact value: `fin n k` is n · 2^(-k); infinities and NaN are as in R60 and R75. -/
inductive Val where
  | fin (n : Int) (k : Nat)
  | inf (neg : Bool)
  | nan
  deriving DecidableEq, Repr, Inhabited

/-- Zero. -/
def Val.zero : Val := .fin 0 0

/-- An integer as a value. -/
def Val.ofInt (n : Int) : Val := .fin n 0

/-- n · 2^e for an integer exponent. -/
def Val.scaled (n : Int) (e : Int) : Val :=
  if 0 ≤ e then .fin (n * 2 ^ e.toNat) 0 else .fin n (-e).toNat

/-- The exact product with 2^e (R81). -/
def Val.scale (v : Val) (e : Int) : Val :=
  match v with
  | .fin n k => .scaled n (e - k)
  | w => w

/-- Whether the value is finite. -/
def Val.isFin : Val → Bool
  | .fin _ _ => true
  | _ => false

/-- Whether the value is zero. -/
def Val.isZero : Val → Bool
  | .fin n _ => n == 0
  | _ => false

/-- Whether the value is NaN. -/
def Val.isNan : Val → Bool
  | .nan => true
  | _ => false

/-- The negative of a value. -/
def Val.neg : Val → Val
  | .fin n k => .fin (-n) k
  | .inf s => .inf (!s)
  | .nan => .nan

/-- The magnitude of a value. -/
def Val.abs : Val → Val
  | .fin n k => .fin n.natAbs k
  | .inf _ => .inf false
  | .nan => .nan

/-- The exact sum; +Inf with -Inf is NaN (R76). -/
def Val.add : Val → Val → Val
  | .nan, _ => .nan
  | _, .nan => .nan
  | .inf a, .inf b => if a == b then .inf a else .nan
  | .inf a, .fin _ _ => .inf a
  | .fin _ _, .inf b => .inf b
  | .fin a i, .fin b j => .fin (a * 2 ^ (Nat.max i j - i) + b * 2 ^ (Nat.max i j - j)) (Nat.max i j)

/-- The exact product; infinity times zero is NaN (R76). -/
def Val.mul : Val → Val → Val
  | .nan, _ => .nan
  | _, .nan => .nan
  | .inf a, .inf b => .inf (a != b)
  | .inf a, .fin n _ => if n == 0 then .nan else .inf (a != decide (n < 0))
  | .fin n _, .inf b => if n == 0 then .nan else .inf (b != decide (n < 0))
  | .fin a i, .fin b j => .fin (a * b) (i + j)

/-- The exact sum of a list, one rounding away from any order (R77). -/
def Val.sum (vs : List Val) : Val := vs.foldl Val.add .zero

/-- a < b on the extended reals; false where either is NaN. -/
def Val.lt : Val → Val → Bool
  | .fin a i, .fin b j => decide (a * 2 ^ j < b * 2 ^ i)
  | .inf true, .fin _ _ => true
  | .inf true, .inf false => true
  | .fin _ _, .inf false => true
  | _, _ => false

/-- a = b as numbers; false where either is NaN. -/
def Val.numEq : Val → Val → Bool
  | .fin a i, .fin b j => decide (a * 2 ^ j = b * 2 ^ i)
  | .inf a, .inf b => a == b
  | _, _ => false

/-- a ≤ b on the extended reals. -/
def Val.le (a b : Val) : Bool := a.lt b || a.numEq b

/-- The larger of two values by `lt`. -/
def Val.larger (a b : Val) : Val := if a.lt b then b else a

/-- The integer at 2^-s of a finite value (exact when the value is a multiple of 2^-s). -/
def Val.atScale (v : Val) (s : Nat) : Int :=
  match v with
  | .fin n k => if k ≤ s then n * 2 ^ (s - k) else n / 2 ^ (k - s)
  | _ => 0

/-- The floor of log2 of a positive rational. -/
def floorLog2 (num den : Nat) : Int :=
  let l : Int := (Nat.log2 num : Int) - (Nat.log2 den : Int)
  if 0 ≤ l then (if num < den * 2 ^ l.toNat then l - 1 else l)
  else (if num * 2 ^ (-l).toNat < den then l - 1 else l)

/-- The floor of log2 of the magnitude of a finite non-zero value. -/
def Val.ilog (v : Val) : Int :=
  match v with
  | .fin n k => (Nat.log2 n.natAbs : Int) - k
  | _ => 0

/-! ## Formats -/

/-- A floating format of R58: exponent width, mantissa width, bias, whether it has infinities, the code of the largest
finite magnitude and the canonical NaN (R60). -/
structure Fmt where
  eb : Nat
  mb : Nat
  bias : Nat
  hasInf : Bool
  maxCode : Nat
  nanCode : Nat
  deriving DecidableEq, Repr

/-- F32 (R58, R60). -/
def fmtF32 : Fmt := { eb := 8, mb := 23, bias := 127, hasInf := true, maxCode := 0x7F7FFFFF, nanCode := 0x7FC00000 }
/-- F64. -/
def fmtF64 : Fmt :=
  { eb := 11, mb := 52, bias := 1023, hasInf := true, maxCode := 0x7FEFFFFFFFFFFFFF, nanCode := 0x7FF8000000000000 }
/-- BF16. -/
def fmtBF16 : Fmt := { eb := 8, mb := 7, bias := 127, hasInf := true, maxCode := 0x7F7F, nanCode := 0x7FC0 }
/-- F16. -/
def fmtF16 : Fmt := { eb := 5, mb := 10, bias := 15, hasInf := true, maxCode := 0x7BFF, nanCode := 0x7E00 }
/-- E4M3: no infinity; the all-ones code is NaN. -/
def fmtE4M3 : Fmt := { eb := 4, mb := 3, bias := 7, hasInf := false, maxCode := 0x7E, nanCode := 0x7F }
/-- E5M2. -/
def fmtE5M2 : Fmt := { eb := 5, mb := 2, bias := 15, hasInf := true, maxCode := 0x7B, nanCode := 0x7E }
/-- E2M1: no infinity and no NaN; NaN rounds to 0 (R74). -/
def fmtE2M1 : Fmt := { eb := 2, mb := 1, bias := 1, hasInf := false, maxCode := 0x7, nanCode := 0 }

/-- The format of a floating type. -/
def tyFmt : Ty → Option Fmt
  | .f32 => some fmtF32
  | .f64 => some fmtF64
  | .bf16 => some fmtBF16
  | .f16 => some fmtF16
  | .e4m3 => some fmtE4M3
  | .e5m2 => some fmtE5M2
  | .e2m1 => some fmtE2M1
  | _ => none

/-- Width in bits and whether signed, of an integer type (R62). -/
def tyInt : Ty → Option (Nat × Bool)
  | .i32 => some (32, true)
  | .i16 => some (16, true)
  | .i8 => some (8, true)
  | .n8 => some (8, false)
  | .i4 => some (4, true)
  | .n32 => some (32, false)
  | _ => none

/-- Bits per element (R199). -/
def tyBits : Ty → Nat
  | .f64 => 64
  | .f32 | .i32 | .n32 => 32
  | .bf16 | .f16 | .i16 => 16
  | .e4m3 | .e5m2 | .i8 | .n8 | .kb8 => 8
  | .e2m1 | .i4 | .kb4 => 4

/-- The two's complement reading of the low `w` bits. -/
def sext (w c : Nat) : Int := if c % 2 ^ w < 2 ^ (w - 1) then (c % 2 ^ w : Nat) else (c % 2 ^ w : Nat) - (2 : Int) ^ w

/-- An integer modulo 2^w as a code. -/
def wrapInt (w : Nat) (n : Int) : Nat := (n % (2 : Int) ^ w).toNat

/-- The magnitude that a code without its sign encodes, finite codes only. -/
def Fmt.mag (f : Fmt) (c : Nat) (neg : Bool) : Val :=
  let e := c / 2 ^ f.mb
  let m := c % 2 ^ f.mb
  let n : Int := if e = 0 then (m : Nat) else (2 ^ f.mb + m : Nat)
  .scaled (if neg then -n else n) ((Nat.max e 1 : Int) - f.bias - f.mb)

/-- The value of a code (R58, R60). -/
def Fmt.value (f : Fmt) (code : Nat) : Val :=
  let neg := bitOf code (f.eb + f.mb)
  let c := code % 2 ^ (f.eb + f.mb)
  if c ≤ f.maxCode then f.mag c neg
  else if f.hasInf && c % 2 ^ f.mb == 0 then .inf neg
  else .nan

/-- The value of an element code of a floating or integer type (R58, R62). -/
def tyValue (t : Ty) (code : Nat) : Val :=
  match tyFmt t with
  | some f => f.value code
  | none =>
    match tyInt t with
    | some (w, true) => .ofInt (sext w code)
    | some (w, false) => .ofInt (code % 2 ^ w : Nat)
    | none => .zero

/-! ## Rounding -/

/-- Whether rounding goes to the neighbour of larger magnitude (R69, R70). The value lies a fraction r/b (0 < r < b) of the
way from the smaller to the larger magnitude; `odd` says whether the smaller one's least significant bit is 1. -/
def roundUpMag (m : Rnd) (neg odd : Bool) (r b h : Nat) : Bool :=
  match m with
  | .rne => decide (b < 2 * r) || (decide (2 * r = b) && odd)
  | .rna => decide (b ≤ 2 * r)
  | .rtz => false
  | .rdn => neg
  | .rup => !neg
  | .rto => !odd
  | .rdh => decide (h * b < r * 2 ^ 64)

/-- The magnitude code of num/den rounded with an unbounded exponent range: codes run on past the largest finite one
(R72). `num` and `den` are positive. -/
def Fmt.roundMag (f : Fmt) (m : Rnd) (neg : Bool) (num den h : Nat) : Nat :=
  let umin : Int := 1 - (f.bias : Int) - f.mb
  let u : Int := max (floorLog2 num den - f.mb) umin
  let a := if 0 ≤ u then num else num * 2 ^ (-u).toNat
  let b := if 0 ≤ u then den * 2 ^ u.toNat else den
  let q := a / b
  let r := a % b
  let c := (u - umin).toNat * 2 ^ f.mb + q
  if r = 0 then c else if roundUpMag m neg (c % 2 == 1) r b h then c + 1 else c

/-- The sign bit of a code. -/
def Fmt.signBit (f : Fmt) (neg : Bool) : Nat := if neg then 2 ^ (f.eb + f.mb) else 0

/-- OVF of R72 and the infinities of R73: the infinity or, with SAT, the largest finite value; E4M3 gives NaN. -/
def Fmt.ovf (f : Fmt) (sat neg : Bool) : Nat :=
  if sat then f.maxCode + f.signBit neg
  else if f.hasInf then f.maxCode + 1 + f.signBit neg
  else f.nanCode

/-- Whether an overflow goes to OVF rather than to the largest finite value (R72). -/
def ovfMode (m : Rnd) (neg : Bool) : Bool :=
  match m with
  | .rne | .rna | .rdh => true
  | .rtz | .rto => false
  | .rdn => neg
  | .rup => !neg

/-- A positive rational and a sign rounded into a floating format (R69 to R72). -/
def Fmt.roundQ (f : Fmt) (m : Rnd) (sat neg : Bool) (num den h : Nat) : Nat :=
  if num = 0 then 0
  else
    let c := f.roundMag m neg num den h
    if c ≤ f.maxCode then c + f.signBit neg
    else if ovfMode m neg then f.ovf sat neg
    else f.maxCode + f.signBit neg

/-- The same into plain E2M1, which always clips (R74). -/
def roundE2M1 (m : Rnd) (neg : Bool) (num den h : Nat) : Nat :=
  if num = 0 then 0
  else if 6 * den ≤ num then 7 + fmtE2M1.signBit neg
  else fmtE2M1.roundMag m neg num den h + fmtE2M1.signBit neg

/-- The same into an integer range [lo, hi], which always clips (R74). -/
def roundIntQ (lo hi : Int) (m : Rnd) (neg : Bool) (num den h : Nat) : Int :=
  let q : Int := (num / den : Nat)
  let r := num % den
  let s : Int := if neg then -1 else 1
  if s * num < lo * den then lo
  else if hi * den < s * num then hi
  else if r = 0 then s * q
  else if roundUpMag m neg ((num / den) % 2 == 1) r den h then s * (q + 1)
  else s * q

/-- The range of an integer type (R62). -/
def intRange (w : Nat) (signed : Bool) : Int × Int :=
  if signed then (-((2 : Int) ^ (w - 1)), (2 : Int) ^ (w - 1) - 1) else (0, (2 : Int) ^ w - 1)

/-- A rational with a sign rounded into a type (R69 to R74); the code of the element. -/
def roundQ (t : Ty) (m : Rnd) (sat neg : Bool) (num den h : Nat) : Nat :=
  match t with
  | .e2m1 => roundE2M1 m neg num den h
  | t =>
    match tyFmt t with
    | some f => f.roundQ m sat neg num den h
    | none =>
      match tyInt t with
      | some (w, s) => wrapInt w (roundIntQ (intRange w s).1 (intRange w s).2 m neg num den h)
      | none => 0

/-- The code of an infinity in a type (R73, R74). -/
def roundInf (t : Ty) (sat neg : Bool) : Nat :=
  match t with
  | .e2m1 => 7 + fmtE2M1.signBit neg
  | t =>
    match tyFmt t with
    | some f => f.ovf sat neg
    | none =>
      match tyInt t with
      | some (w, s) => wrapInt w (if neg then (intRange w s).1 else (intRange w s).2)
      | none => 0

/-- The code of NaN in a type (R60, R74). -/
def nanCode (t : Ty) : Nat :=
  match tyFmt t with
  | some f => f.nanCode
  | none => 0

/-- Round of R4 and R69 to R74: the code in type `t` of an exact value. -/
def round (t : Ty) (m : Rnd) (sat : Bool) (h : Nat) (v : Val) : Nat :=
  match v with
  | .nan => nanCode t
  | .inf neg => roundInf t sat neg
  | .fin n k => roundQ t m sat (decide (n < 0)) n.natAbs (2 ^ k) h

/-- The three steps of R81 for a type that is no block: scale, clip, round. -/
def readOut (t : Ty) (m : Rnd) (sat : Bool) (h : Nat) (k : Int) (v : Val) : Nat :=
  let w := v.scale k
  match tyFmt t with
  | some f =>
    if sat then
      let big := f.mag f.maxCode false
      match w with
      | .nan => nanCode t
      | w => if big.lt w.abs then round t m sat h (if w.lt .zero then big.neg else big) else round t m sat h w
    else round t m sat h w
  | none => round t m sat h w

/-- The read-out of an integer entry into an integer type (R82). -/
def readOutInt (t : Ty) (sat : Bool) (n : Int) : Nat :=
  match tyInt t with
  | some (w, s) => wrapInt w (if sat then max (intRange w s).1 (min (intRange w s).2 n) else n)
  | none => 0

/-- The dither hash of R70, modulo 2^64. -/
def ditherHash (seed tileseq row col : Nat) : Nat :=
  let m := 2 ^ 64
  let x := Nat.xor (Nat.xor (Nat.xor (seed % m) (tileseq * 2 ^ 32 % m)) (row * 2 ^ 16 % m)) (col % m)
  let x := Nat.xor x (x / 2 ^ 33)
  let x := x * 0xFF51AFD7ED558CCD % m
  let x := Nat.xor x (x / 2 ^ 33)
  let x := x * 0xC4CEB9FE1A85EC53 % m
  Nat.xor x (x / 2 ^ 33)

/-! ## Square roots and quotients -/

/-- One bit of a restoring integer square root. -/
def isqrtStep (n acc bit : Nat) : Nat := if (acc + 2 ^ bit) * (acc + 2 ^ bit) ≤ n then acc + 2 ^ bit else acc

/-- The integer square root, bit by bit from bit `fuel - 1` down. -/
def isqrtGo (n : Nat) : Nat → Nat → Nat
  | 0, acc => acc
  | fuel + 1, acc => isqrtGo n fuel (isqrtStep n acc fuel)

/-- The floor of the square root. -/
def isqrt (n : Nat) : Nat := isqrtGo n (Nat.log2 n / 2 + 1) 0

/-- The square root of num · 2^(-2e) to 256 bits and more with a sticky half bit: a rational that rounds as the root
does, in every mode (R69, R70). Answers numerator and binary exponent of the denominator. -/
def sqrtQ (n : Nat) (k : Nat) : Nat × Nat :=
  let k' := if k % 2 = 0 then k else k + 1
  let n' := if k % 2 = 0 then n else 2 * n
  let s := isqrt (n' * 2 ^ 512)
  (2 * s + (if s * s = n' * 2 ^ 512 then 0 else 1), k' / 2 + 257)

/-- The square root of a value rounded into a type: NaN below zero (R285). -/
def roundSqrt (t : Ty) (m : Rnd) (sat : Bool) (h : Nat) (v : Val) : Nat :=
  match v with
  | .nan => nanCode t
  | .inf true => nanCode t
  | .inf false => roundInf t sat false
  | .fin n k =>
    if n < 0 then nanCode t
    else if n = 0 then 0
    else roundQ t m sat false (sqrtQ n.natAbs k).1 (2 ^ (sqrtQ n.natAbs k).2) h

/-- The quotient of two values rounded into a type; 0/0 and Inf/Inf are NaN, a non-zero value over 0 is an infinity of
the operands' signs. -/
def roundDiv (t : Ty) (m : Rnd) (sat : Bool) (h : Nat) (a b : Val) : Nat :=
  match a, b with
  | .nan, _ => nanCode t
  | _, .nan => nanCode t
  | .inf _, .inf _ => nanCode t
  | .inf s, .fin n _ => roundInf t sat (s != decide (n < 0))
  | .fin _ _, .inf _ => 0
  | .fin n k, .fin d j =>
    if d = 0 then (if n = 0 then nanCode t else roundInf t sat (decide (n < 0)))
    else roundQ t m sat (decide (n < 0) != decide (d < 0)) (n.natAbs * 2 ^ j) (d.natAbs * 2 ^ k) h

/-! ## Blocks -/

/-- The scale of an E8M0 byte that is not 0xFF (R64). -/
def e8m0 (b : Nat) : Int := (b : Int) - 127

/-- One element of a KB4 block with header `scale`, `spec` (R66, R67). -/
def kb4Value (scale spec k code : Nat) : Val :=
  if scale = 0xFF then
    if bitOf spec k then .nan
    else if code % 8 = 0 then .inf (bitOf code 3)
    else .zero
  else if code = 8 then
    if spec % 128 = 0x7F then .nan else (fmtE4M3.mag (spec % 128) (bitOf spec 7)).scale (e8m0 scale)
  else (fmtE2M1.value code).scale (e8m0 scale)

/-- One element of a KB8 block (R68). -/
def kb8Value (scale code : Nat) : Val :=
  if scale = 0xFF then
    if code % 128 = 0x7F then .nan else if code % 128 = 0x78 then .inf (bitOf code 7) else .zero
  else (fmtE4M3.value code).scale (e8m0 scale)

/-- One element of a block type from its code and its header (SPEC above SCALE, R65; the scale byte for KB8). -/
def blockValue (t : Ty) (hdr k code : Nat) : Val :=
  match t with
  | .kb4 => kb4Value (hdr % 256) (hdr / 256 % 256) k code
  | .kb8 => kb8Value (hdr % 256) code
  | t => tyValue t code

/-- The scale exponent of a finite block (R84, R85): `top` is 2 for KB4 and 8 for KB8. -/
def blockExp (top : Int) (vs : List Val) : Int :=
  let amax := vs.foldl (fun a v => a.larger v.abs) Val.zero
  if amax.isZero then -127 else min (max (amax.ilog - top) (-127)) 127

/-- The grid values of E2M1 codes 0 to 7, in 1/512. -/
def gridMag (c : Nat) : Nat := [0, 256, 512, 768, 1024, 1536, 2048, 3072].getD c 0

/-- The candidates of RoundSet (R84): value in 1/512 and code; the code 1000 stands only where no grid code has its
value. -/
def kb4Cands (spec : Nat) : List (Int × Nat) :=
  let grid : List (Int × Nat) :=
    (List.range 8).map (fun c => ((gridMag c : Int), c)) ++ (List.range 7).map (fun c => (-(gridMag (c + 1) : Int), c + 9))
  let sv : Int := (fmtE4M3.mag (spec % 128) (bitOf spec 7)).atScale 9
  if grid.any (fun p => p.1 == sv) then grid else (sv, 8) :: grid

/-- RoundSet of R84 on a value n · 2^(-k). -/
def roundSet (cands : List (Int × Nat)) (m : Rnd) (h : Nat) (n : Int) (k : Nat) : Nat :=
  let x := n * 512
  let d : Int := 2 ^ k
  let lo := cands.foldl (fun (b : Option (Int × Nat)) p =>
    if p.1 * d ≤ x then (match b with | some q => if q.1 < p.1 then some p else b | none => some p) else b) none
  let hi := cands.foldl (fun (b : Option (Int × Nat)) p =>
    if x ≤ p.1 * d then (match b with | some q => if p.1 < q.1 then some p else b | none => some p) else b) none
  match lo, hi with
  | none, none => 0
  | none, some q => q.2
  | some p, none => p.2
  | some p, some q =>
    if p.1 = q.1 then p.2
    else
      let small := if p.1.natAbs ≤ q.1.natAbs then p else q
      let large := if p.1.natAbs ≤ q.1.natAbs then q else p
      let r := (x - small.1 * d).natAbs
      let b := ((large.1 - small.1) * d).natAbs
      let same := small.2 % 2 == large.2 % 2
      match m with
      | .rne =>
        if 2 * r < b then small.2 else if b < 2 * r then large.2
        else if same then small.2 else if small.2 % 2 = 0 then small.2 else large.2
      | .rna => if 2 * r < b then small.2 else large.2
      | .rtz => small.2
      | .rdn => p.2
      | .rup => q.2
      | .rto => if same then small.2 else if small.2 % 2 = 1 then small.2 else large.2
      | .rdh => if h * b < r * 2 ^ 64 then large.2 else small.2

/-- The error of plain-grid rounding (R84), in 1/512 over 2^k: |x - RoundGrid(x, G, RNE)|. -/
def gridErr (n : Int) (k : Nat) : Nat :=
  let c := roundE2M1 .rne (decide (n < 0)) n.natAbs (2 ^ k) 0
  let g : Int := if c < 8 then gridMag c else -(gridMag (c - 8) : Int)
  (n * 512 - g * 2 ^ k).natAbs

/-- The integers of a list of finite values on one common scale 2^(-k). -/
def commonScale (vs : List Val) : Nat :=
  vs.foldl (fun m v => match v with | .fin _ k => Nat.max m k | _ => m) 0

/-- A quantised block: element codes, header (R65), and whether it is non-finite (R86). -/
structure Block where
  codes : List Nat
  hdr : Nat
  bad : Bool
  deriving DecidableEq, Repr, Inhabited

/-- The special byte of a finite KB4 block of scaled integers at 2^(-k) (R84). SPEC[6:0] is clipped to 0x7E where e is
clamped: DEDUCED, log 10. -/
def kb4Spec (xs : List Int) (k : Nat) : Nat :=
  let errs := xs.map (fun n => gridErr n k)
  let worst := errs.foldl Nat.max 0
  if worst = 0 then 0
  else
    let i := errs.findIdx (fun e => e == worst)
    let x := xs.getD i 0
    (if x < 0 then 128 else 0) + fmtE4M3.roundQ .rne true false x.natAbs (2 ^ k) 0

/-- Quantising eight values to a KB4 block (R84, R86); `hs` gives the dither hash of each element. -/
def quantKb4 (m : Rnd) (hs : Nat → Nat) (vs : List Val) : Block :=
  if vs.all Val.isFin then
    let e := blockExp 2 vs
    let ws := vs.map (fun v => v.scale (-e))
    let k := commonScale ws
    let xs := ws.map (fun v => v.atScale k)
    let spec := kb4Spec xs k
    { codes := (List.range 8).map (fun i => roundSet (kb4Cands spec) m (hs i) (xs.getD i 0) k),
      hdr := (e + 127).toNat + 256 * spec, bad := false }
  else
    { codes := vs.map (fun v => match v with | .nan => 0 | .inf s => if s then 8 else 0 | .fin _ _ => 7),
      hdr := 0xFF + 256 * ((List.range 8).foldl (fun a i => a + (if (vs.getD i .zero).isNan then 2 ^ i else 0)) 0),
      bad := true }

/-- Quantising eight values to a KB8 block (R85, R86). -/
def quantKb8 (m : Rnd) (hs : Nat → Nat) (vs : List Val) : Block :=
  if vs.all Val.isFin then
    let e := blockExp 8 vs
    { codes := (List.range 8).map (fun i => round .e4m3 m true (hs i) ((vs.getD i .zero).scale (-e))),
      hdr := (e + 127).toNat, bad := false }
  else
    { codes := vs.map (fun v => match v with | .nan => 0x7F | .inf s => if s then 0xF8 else 0x78 | .fin _ _ => 0),
      hdr := 0xFF, bad := true }

/-- Quantising into a block type (R83). -/
def quantBlock (t : Ty) (m : Rnd) (hs : Nat → Nat) (vs : List Val) : Block :=
  if t = .kb4 then quantKb4 m hs vs else quantKb8 m hs vs

end Sys2Proof.Machine
end

