-- ==== Sys2Proof/Machine/State.lean ====
section
/-! DEFINITION. State: everything the spec gives the machine, as plain data, and its values at reset. A table is a list
of (key, value) pairs with rising keys; a key that is not listed has the start value of its kind (Machine/Ops). -/

namespace Sys2Proof.Machine

/-- Why the machine stops: the spec gives every step an effect, so nothing does. A device that bring-up has stopped answers the
host's requests (R376). -/
inductive Fault where
  deriving DecidableEq, Repr

/-- Why an instruction has no meaning. -/
inductive Refusal where
  /-- Raised by an arm of `exec` that has no meaning yet. Safe: nothing is claimed of it. -/
  | notModelled (mnemonic : String)
  deriving DecidableEq, Repr

/-- A sparse table. -/
abbrev Table (α : Type) := List (Nat × α)

/-! ## Sequencers -/

/-- An address register (R233). -/
structure AReg where
  val : Word
  step : Word
  modulus : Word
  origin : Word
  mode : BitVec 2
  deriving DecidableEq, Repr, Inhabited

/-- A loop stack entry (R222). -/
structure LoopEnt where
  start : Nat
  stop : Nat
  rem : Nat
  deriving DecidableEq, Repr, Inhabited

/-- Why a translation refuses (R105, R363). `held`: it waits, since the host holds the line of a table entry (R342). -/
inductive TransErr where
  | page (migrating malformed : Bool)
  | prot
  | eccu (pa : Nat)
  | held
  deriving DecidableEq, Repr, Inhabited

/-- What a pending access of a sequencer is (R116, R123). -/
inductive AccKind where
  | load | store | atom | red | redx | rdx | mark | fence | rinv | pin | rmark
  deriving DecidableEq, Repr, Inhabited

/-- A pending access in the load or store queue of a sequencer (R119, R240, R247, R249). -/
structure Acc where
  id : Nat
  kind : AccKind
  va : Nat
  pa : Nat
  n : Nat
  sc : Nat
  ca : Nat
  hint : Nat
  dst : Nat
  fn : Nat
  signed : Bool
  data : List Byte
  x : Word
  w : Word
  pos : Nat
  /-- The access has been performed at `.pkg` and awaits `.sys` (R118, R361). -/
  sent : Bool
  /-- The read half of an atomic has been performed; `data` holds what its write half will write (R116, R120). -/
  half : Bool
  /-- What a FENCE.sys waits for, noted once every older access has been performed (R123): dirty host lines and peer
  requests. -/
  armed : Bool
  lines : List Nat
  tags : List Nat
  deriving DecidableEq, Repr, Inhabited

/-- A POST in flight (R226): it takes effect once no access with an id below `before` is pending, and for X once every
older VCHK has set NF, on clock `nfBy` at the latest (R300). -/
structure PostEnt where
  ev : Nat
  before : Nat
  nfBy : Nat
  deriving DecidableEq, Repr, Inhabited

/-- A WAITA in progress (R165, R251). -/
structure Waita where
  va : Nat
  pa : Nat
  n : Nat
  expected : Nat
  bound : Nat
  since : Nat
  slice : Nat
  slot : Nat
  outcome : Option Nat
  dst : Nat
  pdst : Nat
  pos : Nat
  /-- The source fields, popped on the clock of the return (R196, R251). -/
  srcs : List RegF
  /-- The final value that a replay gives (R371). -/
  forced : Option Word
  deriving DecidableEq, Repr, Inhabited

/-- A pending ECALL (R341). `answer` holds an answer that arrived while the bank was at rest. -/
structure Ecall where
  svc : Nat
  arg : Word
  dst : Nat
  slot : Nat
  answer : Option Word
  deriving DecidableEq, Repr, Inhabited

/-- What a QFENCE still waits for (R124, R266): accesses of its own with an id below `before`, and engine commands. -/
structure Qfence where
  before : Nat
  loads : Bool
  stores : Bool
  copies : List Nat
  trails : Bool
  deriving DecidableEq, Repr, Inhabited

/-- A walk for a word whose translation is not in the TLB (R44, R106): its address and kind, and how a walk that ended was
refused. -/
structure Walk where
  va : Nat
  kind : Kind
  refused : Option TransErr
  deriving DecidableEq, Repr, Inhabited

/-- One sequencer of a bank (R33). -/
structure SeqState where
  /-- The stream's words and the positions that the overlay loader marked poison, with the
  physical address read (R40, R115). -/
  code : List Word
  poison : Table Nat
  pos : Nat
  g : Table Word
  p : Table Bool
  a : Table AReg
  cyc : Word
  /-- Clock and occupancy of the previous issue (R43), on the bank's clock count. -/
  prevClk : Nat
  prevOcc : Nat
  /-- The clock from which a register may be named (R211, R235): keys 0 to 63 are field values, 64 + n predicate n. -/
  avail : Table Nat
  /-- Registers that await a load or an answer (R44): key and the id awaited. -/
  awaits : List (Nat × Nat)
  loops : List LoopEnt
  outq : List Bool
  halted : Bool
  released : Bool
  accs : List Acc
  posts : List PostEnt
  wout : BitVec 2
  waita : Option Waita
  /-- ECALLs whose answers have not been written, oldest first. -/
  ecalls : List Ecall
  qfence : Option Qfence
  /-- The walk that the word at `pos` waits for (R44). -/
  walk : Option Walk
  /-- Elements moved and popped of a VWOUT or VWIN in progress (R295). -/
  moved : Nat
  popped : List Word
  bars : Nat
  deriving DecidableEq, Repr, Inhabited

/-! ## Coupling, tiles, engines -/

/-- An element of a stream register (R103). `wait` holds the id of the read that will fill it (R196); `at` is the clock
from which its value is in place (R211). -/
structure QElem where
  val : Word
  wait : Option Nat
  ready : Nat
  deriving DecidableEq, Repr, Inhabited

/-- What a stream register is bound to (R267). -/
inductive QBinding where
  | none | copyIn (k : Nat) | copyOut (k : Nat) | trail (t : Nat)
  deriving DecidableEq, Repr, Inhabited

/-- A witness register (R290). -/
structure Witness where
  bytes : List Byte
  valid : Bool
  oper : Nat
  axis : Nat
  win : Nat
  site : Nat
  ty : Nat
  deriving DecidableEq, Repr, Inhabited

/-- The kinds of copy-queue command (R259, R261). -/
inductive CmdKind where
  | cpy | snk | src | cpy2 | gath | scat | crcSum | crcPut | crcSeed
  deriving DecidableEq, Repr, Inhabited

/-- One event of a command: `n` bytes at virtual address `va`, at byte `off` of the command's order (R116). -/
structure Chunk where
  off : Nat
  va : Nat
  n : Nat
  /-- A read of the peer window has been sent (R361). -/
  sent : Bool
  deriving DecidableEq, Repr, Inhabited

/-- A copy-queue command (R256 to R261). -/
structure Cmd where
  kind : CmdKind
  crc : Nat
  da : Nat
  sa : Nat
  len : Nat
  rows : Nat
  ds : Nat
  ss : Nat
  esz : Nat
  ix : Bool
  seed : Word
  ord : Nat
  pos : Nat
  started : Bool
  reads : List Chunk
  writes : List Chunk
  /-- Bytes read or popped so far, by their offset; indices popped so far. -/
  buf : Table Byte
  idxs : List Word
  /-- Bytes covered by the running CRC, and bytes pushed by SNK (R257). -/
  hashed : Nat
  pushed : Nat
  deriving DecidableEq, Repr, Inhabited

/-- A copy queue (R256, R257). `fault` holds the record's number while a page fault stops the queue (R178). -/
structure CopyQueue where
  cmds : List Cmd
  crc : BitVec 32
  cmpf : Bool
  ncmp : Nat
  fault : Option Nat
  deriving DecidableEq, Repr, Inhabited

/-- An idle copy queue (R41). -/
def CopyQueue.start : CopyQueue := { cmds := [], crc := 0, cmpf := false, ncmp := 0, fault := none }

/-- A trail descriptor (R24). -/
structure TrailDesc where
  dir : Nat
  rowlen : Nat
  stride : Int
  ring : Nat
  ringrows : Nat
  depth : Nat
  deriving DecidableEq, Repr, Inhabited

/-- State of a row slot (R102): input rows are pending, begun or arrived; drain slots are free, full or writing. -/
inductive RowState where
  | pending | begun | arrived | free | full | writing
  deriving DecidableEq, Repr, Inhabited

/-- A queued trail command (R264, R265). -/
structure TrailCmd where
  adv : Option Nat
  ord : Nat
  deriving DecidableEq, Repr, Inhabited

/-- One setting of a trail number, from its TRSET until its TREL is performed (R263, R265). Rows are keyed by tensor row
index. `oldest` is the oldest live row, or the next row to write. `retired` holds rows advanced past whose fetch had begun;
`uid` is the order number of the TRSET. `opened` says that the TRSET has been performed. `batch` gives for each performed
command the first row it added or named and its order number. `sectors` lists the rows whose transfer has begun and is not
performed, with the sector events that are still to come (R116). -/
structure TrailGen where
  uid : Nat
  desc : TrailDesc
  base : Nat
  oldest : Nat
  opened : Bool
  batch : List (Nat × Nat)
  rows : Table RowState
  sectors : Table (List Chunk)
  retired : List Nat
  cmds : List TrailCmd
  /-- TREL has issued, and TREL has been performed but begun rows are outstanding. -/
  released : Bool
  closing : Bool
  /-- Row indices waiting to be pushed into a bound q in ascending order (R268), and whether they may be skipped. -/
  donePush : Table Bool
  deriving DecidableEq, Repr, Inhabited

/-- A trail number: its settings, oldest first; the last one is current while `isSet` (R263). -/
structure Trail where
  gens : List TrailGen
  isSet : Bool
  fault : Option Nat
  deriving DecidableEq, Repr, Inhabited

/-- A trail that is not set. -/
def Trail.start : Trail := { gens := [], isSet := false, fault := none }

/-- A loaded kernel segment (R24): header bytes and words. -/
structure Kernel where
  hdr : List Byte
  words : List Word
  deriving DecidableEq, Repr, Inhabited

/-! ## Matrix -/

/-- A collector entry is an exact value (R75); floating entries stand at 2^-2200. -/
abbrev CEntry := Val

/-- The class of a collector row (R301). -/
inductive RowClass where
  | unset | floating | integer
  deriving DecidableEq, Repr, Inhabited

/-- A structure tag (R326). -/
structure STag where
  ty : Ty
  n : Nat
  m : Nat
  lam : Word
  sig : Nat
  deriving DecidableEq, Repr, Inhabited

/-- A collector (R301). -/
structure Collector where
  rows : Table (List CEntry)
  cls : Table RowClass
  tag : Option STag
  deriving DecidableEq, Repr, Inhabited

/-- A plane (R301, R302). -/
structure Plane where
  rows : Table (List Byte)
  hdrs : Table (List Byte)
  ty : Ty
  deriving DecidableEq, Repr, Inhabited

/-- The binding of a handle (R321). -/
structure Binding where
  ty : Ty
  kernel : Nat
  words : List Word
  d : Nat
  rowTrail : Nat
  colTrail : Nat
  consts : List Word
  lam : Word
  override : Bool
  overrideVal : Word
  nr : Nat
  nc : Nat
  same : Bool
  deriving DecidableEq, Repr, Inhabited

/-- A run of trail rows that an entry recorded (R306): the setting, its descriptor, first tensor row, count. -/
structure RowRef where
  trail : Nat
  uid : Nat
  first : Nat
  count : Nat
  desc : TrailDesc
  deriving DecidableEq, Repr, Inhabited

/-- An A row or plane row: 256 bytes and its header bytes (R302). -/
structure ARow where
  bytes : List Byte
  hdr : List Byte
  deriving DecidableEq, Repr, Inhabited

/-- A matrix queue entry (R301, R304): the word, what it recorded at issue, and its progress. -/
structure MEnt where
  word : Instr
  pos : Nat
  ord : Nat
  mode : Rnd
  seed : Nat
  period : Nat
  refs : List RowRef
  binding : Option Binding
  params : List Word
  started : Bool
  /-- Tile rows read at the start, elements popped, elements still to push, rows done. -/
  src : List ARow
  buf : List Word
  out : List Word
  rowsDone : Nat
  startClk : Nat
  /-- Clocks on which a stream register or a chain buffer held the entry up (R307). -/
  held : Nat
  tseq : Nat
  deriving DecidableEq, Repr, Inhabited

/-- The status record of R320 that the bank keeps. -/
structure MStat where
  knf : Nat
  knft : Nat
  sstat : Nat
  ssig : Nat
  rstall : Nat
  deriving DecidableEq, Repr, Inhabited

/-- The matrix state of a bank (R301). -/
structure MatState where
  stationary : Plane
  shadow : Plane
  coll : Table Collector
  queue : List MEnt
  mode : Rnd
  seed : Nat
  mseq : Nat
  period : Nat
  handles : Table Binding
  stat : MStat
  west : List ARow
  /-- The bank's queue or west buffer has held a chained entry or row in this run (R314). -/
  chained : Bool
  deriving DecidableEq, Repr, Inhabited

/-! ## Tasks -/

/-- The identity of a task as dispatch set it (R39, R334). -/
structure Task where
  part : Nat
  taskId : Nat
  gangId : Nat
  rank : Nat
  glast : Nat
  prio : Nat
  image : Nat
  repro : Bool
  trig : Bool
  prov : Bool
  depth : Nat
  /-- RPLY as it stood for the task's launch (R368). -/
  rply : Bool
  deriving DecidableEq, Repr, Inhabited

/-- The states of a bank (R34, R173). `loading`: bound, its overlay load not complete; `loaded`: waiting for its gang;
`retiring`: the task is being retired by a fault (R174). -/
inductive BankStatus where
  | empty | loading | loaded | running | ready | waiting | retiring
  deriving DecidableEq, Repr, Inhabited

/-- Why a bank is waiting (R173). -/
inductive WaitWhy where
  | none | answer | parked | restore
  deriving DecidableEq, Repr, Inhabited

/-- A trap detected on the current clock (R169, R170). -/
structure TrapEnt where
  seq : Seq
  cause : Cause
  va : Nat
  access : Kind
  pos : Nat
  migrating : Bool
  malformed : Bool
  poison : Bool
  pa : Nat
  detail : Nat
  deriving DecidableEq, Repr, Inhabited

/-- The vector, mask, witness and local-memory state of a bank (R33). -/
structure VecState where
  tiles : Table (List Cell32)
  masks : Table (List Byte)
  wit : Table Witness
  /-- The clock from which a tile (n), mask (32 + n) or witness (40 + n) may be named (R44, R271). -/
  avail : Table Nat
  /-- Local memory by rows of 256 bytes (R101). -/
  lmem : Table (List Byte)
  rmode : BitVec 3
  nf : Bool
  /-- The clocks on which masks of VCHK words that found a non-finite element are written (R283). -/
  nfAt : List Nat
  dseed : BitVec 32
  vseq : BitVec 32
  deriving DecidableEq, Repr, Inhabited

/-- A write of a control word by a program word: it is applied when its clock ends (R332). `how` is 1 for CSRW, 2 for
CSRS and 3 for CSRC. -/
structure CsrWrite where
  seq : Seq
  cw : Nat
  how : Nat
  v : Word
  deriving DecidableEq, Repr, Inhabited

/-- The control words that the device updates, as they stood before the current clock (R332): VSEQ, MSEQ, CNT, QSTAT0 to
QSTAT3, and the logbook's LOGCTL and LOGSTAT, which a word of the clock may move. -/
structure Before where
  vseq : Word
  mseq : Word
  cnt : Word
  qstat : List Word
  logctl : Word
  logstat : Word
  deriving DecidableEq, Repr, Inhabited

/-- The parts of a clock of a running bank: every word but AWAIT has its opportunity, then every AWAIT, once the postings of
the clock are counted (R226), then the matrix queue, which awaits an event after the sequencers (R305), and then the other
engines, whose pushes come last (R103). -/
inductive Phase where
  | main
  | await
  | close
  | engines
  deriving DecidableEq, Repr, Inhabited

/-- A context bank (R33). -/
structure Bank where
  status : BankStatus
  why : WaitWhy
  task : Option Task
  mbox : BitVec 256
  clk : Nat
  /-- The part of the clock, and the sequencer whose opportunity is next in it (the model's own, log 3). -/
  phase : Phase
  slot : Seq
  goDone : Bool
  k : SeqState
  l : SeqState
  x : SeqState
  d : SeqState
  events : Table Nat
  q : Table (List QElem)
  qbind : Table QBinding
  ldc : Nat
  stc : Nat
  cpc : Nat
  toc : Nat
  trec0 : Word
  trec1 : Word
  copyq : Table CopyQueue
  trails : Table Trail
  descs : List TrailDesc
  kernels : Table Kernel
  lookout : List Byte
  vec : VecState
  mat : MatState
  /-- Traps of this clock; the deciding trap's record while an answer is awaited, with the sequencers that continue after
  their word and those that issue it again (R170). -/
  traps : List TrapEnt
  answerSeq : Option Nat
  onCont : List Seq
  /-- The cause of a retirement by fault in progress (R174). -/
  failed : Option Cause
  /-- The run ends at the end of this clock by YIELD (R229). -/
  yielding : Bool
  /-- The bank became ready at this tick (R173). -/
  readyAt : Nat
  /-- Held for a gang head (R145). -/
  held : Option Nat
  /-- The next number of an access or command (the model's own). -/
  nextId : Nat
  /-- Restoring from this save (R182): the key of its context. -/
  savePa : Option Nat
  /-- The order in which tasks were bound to banks (R150). -/
  dispatched : Nat
  /-- Trails whose TREL has issued on this clock: the window stands until the clock ends (R300). -/
  trels : List Nat
  /-- Writes of control words of this clock, and the words as they stood before it (R332). -/
  csrs : List CsrWrite
  before : Before
  deriving DecidableEq, Repr, Inhabited

/-! ## Core, slices -/

/-- A translation held in a TLB, micro-TLB (R106, R137). `task` is set for an entry of a plot's view. -/
structure TlbEnt where
  part : Nat
  task : Option Nat
  vbase : Nat
  size : Nat
  pbase : Nat
  r : Bool
  w : Bool
  x : Bool
  ca : Nat
  pin : Bool
  deriving DecidableEq, Repr, Inhabited

/-- A core's L1, TLB, micro-TLB and table-entry cache (R99, R106). -/
structure CoreState where
  /-- Lines of 64 bytes; a byte is absent where a peer window's line was read in part. -/
  l1 : Table (List (Option Byte))
  tlb : List TlbEnt
  utlb : List TlbEnt
  tcache : List (Nat × Nat × Nat)
  /-- The partition whose task last ran on the core (R35). -/
  lastPart : Option Nat
  deriving DecidableEq, Repr, Inhabited

/-- A watch entry (R153). -/
structure Watch where
  arm : Bool
  queued : Bool
  pend : Bool
  lead : Bool
  repro : Bool
  dlim : Nat
  pdepth : Nat
  rwin : Nat
  rbud : Nat
  prio : Nat
  qmask : Nat
  part : Nat
  size : Nat
  pbase : Nat
  leadh : Nat
  vbase : Nat
  image : Nat
  uword : Word
  count : Nat
  first : Nat
  last : Nat
  rused : Nat
  /-- WCLR has acted and a trigger is pending (R162). -/
  cleared : Bool
  /-- The gang of the pending trigger (R158). -/
  gang : Nat
  deriving DecidableEq, Repr, Inhabited

/-- A park slot (R165). -/
structure ParkSlot where
  pa : Nat
  n : Nat
  bank : Nat
  since : Nat
  deriving DecidableEq, Repr, Inhabited

/-- A counted write on its way to the lead entry (R157). -/
structure CountedWrite where
  handle : Nat
  addr : Nat
  depth : Nat
  deriving DecidableEq, Repr, Inhabited

/-- A slice (R94, R151, R165, R98). -/
structure Slice where
  watches : Table Watch
  parks : Table ParkSlot
  arrivals : List CountedWrite
  count : Nat
  pinOvf : Nat
  /-- Ways of each set that the provider reserves for retention, 0 to 8 (R98). -/
  retWays : Nat
  deriving DecidableEq, Repr, Inhabited

/-- Who wrote a line of host memory: the task's key, the unit of its bank (0 to 3 sequencers, 4 to 7 copy queues, 8 and up
trails) and the number of the access or command (R49, R124). -/
structure Writer where
  task : Nat
  unit : Nat
  id : Nat
  deriving DecidableEq, Repr, Inhabited

/-- A line of host memory held in a home slice (R94, R96, R109, R118): the bytes it holds, those written and not yet
written back, and who wrote them. -/
structure HostLine where
  data : List Byte
  valid : List Bool
  dirty : List Bool
  ca : Nat
  writers : List Writer
  deriving DecidableEq, Repr, Inhabited

/-! ## Dependence unit, hampers, graphs -/

/-- A set entry of a gang (R131). -/
structure SetEnt where
  base : Nat
  nplot : Nat
  whole : Bool
  write : Bool
  deriving DecidableEq, Repr, Inhabited

/-- A version of a plot (R135). -/
inductive VState where
  | provisional | final | discarded
  deriving DecidableEq, Repr, Inhabited

/-- A version (R135, R136). The frame of the published version is the leaf's; `copied` says that the copy the version
began with is complete. -/
structure Version where
  frame : Nat
  writer : Option Nat
  state : VState
  copied : Bool
  freed : Bool
  deriving DecidableEq, Repr, Inhabited

/-- The versions of one plot in creation order, and the index of the published one (R135, R138). -/
structure Plot where
  versions : List Version
  published : Nat
  deriving DecidableEq, Repr, Inhabited

/-- Where a member of a gang is. -/
inductive MemberAt where
  | hamper | bound (bank : Nat) | saved (pa : Nat) (quad : Nat) | retired
  deriving DecidableEq, Repr, Inhabited

/-- A gang member (R36, R51). `failed` is the cause of a retirement by fault. -/
structure Member where
  taskId : Nat
  loc : MemberAt
  failed : Option Cause
  bars : Nat
  deriving DecidableEq, Repr, Inhabited

/-- One arrival at a barrier (R231): op, scope and contribution. -/
structure Arrival where
  op : Nat
  scope : Nat
  v : Word
  deriving DecidableEq, Repr, Inhabited

/-- Stages of a gang in the dependence unit (R136, R143, R139, R140). -/
inductive GangStage where
  | ordering | ready | hamper | bound | running | retired | decided | done
  deriving DecidableEq, Repr, Inhabited

/-- A plot that a gang's sets name (R131): its address, whether it is written, and whether every write entry that names it
is WHOLE. -/
structure PlotReq where
  va : Nat
  write : Bool
  whole : Bool
  deriving DecidableEq, Repr, Inhabited

/-- A gang (R36, R130, R136). `view` maps a plot to a version index; `pending` holds the plots not handled yet, `inPlace`
those written in place whose version is not fixed yet; `watch` is the handle of a handler task's watch. -/
structure Gang where
  part : Nat
  gid : Nat
  die : Nat
  image : Nat
  prio : Nat
  glast : Nat
  repro : Bool
  rename : Bool
  gated : Bool
  irq : Bool
  prov : Bool
  trig : Bool
  argbase : Nat
  sets : List SetEnt
  gate : Nat
  doneVa : Nat
  tag : Nat
  vec : Nat
  stage : GangStage
  members : Table Member
  view : Table Nat
  viewWrite : List Nat
  pending : List PlotReq
  inPlace : List PlotReq
  order : Nat
  barriers : Table (Table Arrival)
  gateStatus : Nat
  gateCause : Nat
  /-- The first non-zero value that the gate word held after the last member retired, where a later store has replaced it
  (R140). -/
  gateLatch : Option Nat
  watch : Option Nat
  depth : Nat
  qmask : Nat
  node : Option (Nat × Nat)
  /-- PCAPT as it stood when the gang was accepted (R368). -/
  pcapt : Word
  deriving DecidableEq, Repr, Inhabited

/-- A hamper entry (R143): a gang, or one saved task of it; `ord` gives FIFO order within a priority. -/
structure HampEnt where
  gang : Nat
  saved : Option Nat
  prio : Nat
  ord : Int
  n : Nat
  part : Nat
  deriving DecidableEq, Repr, Inhabited

/-- A launch or a graph node's descriptor, or a graph's header, on its way to a die's dependence unit or graph walker (R132,
R141, R142, R350). `queue` says that it stands at the head of a launch queue; `graph` holds TAG and VEC of a graph launch
(R348). -/
structure Submission where
  die : Nat
  part : Nat
  prov : Bool
  addr : Nat
  node : Option (Nat × Nat)
  queue : Bool
  graph : Option (Nat × Nat)
  /-- A page fault of the submission awaits its answer, and that answer was RETIRE (R132). -/
  waits : Bool
  given : Bool
  deriving DecidableEq, Repr, Inhabited

/-- A graph node (R141). -/
structure GNode where
  kind : Nat
  npred : Nat
  s0 : Nat
  n0 : Nat
  s1 : Nat
  n1 : Nat
  addr : Nat
  bfirst : Nat
  blast : Nat
  deriving DecidableEq, Repr, Inhabited

/-- Where a node of a running graph is (R142). -/
inductive NodeAt where
  | waiting | ready | running | finished
  deriving DecidableEq, Repr, Inhabited

/-- The progress of a node; `ord` gives the order in which nodes of all graphs became ready (R133). -/
structure NodeSt where
  dones : Nat
  skips : Nat
  loc : NodeAt
  ord : Nat
  deriving DecidableEq, Repr, Inhabited

/-- A graph held by a walker (R141, R142). -/
structure Graph where
  die : Nat
  part : Nat
  prov : Bool
  nodes : List GNode
  succs : List Nat
  doneVa : Nat
  tag : Nat
  vec : Nat
  st : Table NodeSt
  nextReady : Nat
  faulted : Bool
  deriving DecidableEq, Repr, Inhabited

/-- A bind record (R146). `live` says whether the record's effect is pending. -/
structure BindRec where
  op : Nat
  stat : Nat
  part : Nat
  task : Nat
  /-- The high word as written: SAVEPA, and the reserved bits above it, with which the record is refused. -/
  savePa : Nat
  deriving DecidableEq, Repr, Inhabited

/-- A migration in progress (R111), with every virtual address of the page. `flushed`: TINV has covered them (step 2). -/
structure Migration where
  part : Nat
  vas : List Nat
  size : Nat
  src : Nat
  dst : Nat
  leaves : List Nat
  flushed : Bool
  copied : Bool
  forResize : Bool
  deriving DecidableEq, Repr, Inhabited

/-- A die (R29). -/
structure Die where
  slots : Table BindRec
  hen : Bool
  hepoch : Nat
  hthresh : Nat
  pinhot : Nat
  nmhot : Nat
  verhot : Nat
  nofrm : Nat
  migs : Nat
  wsel : Word
  /-- The entry as WDAT0 last read it (R338). -/
  wdat : Option (List Word)
  /-- Accesses of this epoch: page base and die of the issuer to a count (R110). -/
  counts : Table Nat
  migrations : List Migration
  submits : List Submission
  graphReqs : List Submission
  stopped : Bool
  deriving DecidableEq, Repr, Inhabited

/-! ## Partitions and the package -/

/-- A fault queue record before it has its SEQ (R179). -/
structure FaultRec where
  cause : Nat
  src : Nat
  access : Nat
  flags : Nat
  core : Nat
  taskId : Nat
  pos : Nat
  va : Nat
  pa : Nat
  detail : Nat
  gangId : Nat
  /-- Who awaits the answer: a bank (R176) or an engine queue of a bank (R178). -/
  bank : Option Nat
  queue : Option Nat
  submission : Option Submission
  /-- A vector that is sent once the record has been performed (R51). -/
  vec : Option Nat
  deriving DecidableEq, Repr, Inhabited

/-- A ring of records or launches (R337, R349). HEAD is the low half of `head`: a fault record's SEQ has 64 bits (R179). -/
structure Ring where
  base : Nat
  en : Bool
  lsize : Nat
  head : Word
  tail : BitVec 32
  ovf : Nat
  terr : Bool
  deriving DecidableEq, Repr, Inhabited

/-- An image the host driver has registered (R25): the virtual address of its bytes, and of its mapped data segment. -/
structure Image where
  va : Nat
  dataVa : Nat
  deriving DecidableEq, Repr, Inhabited

/-- A retention register (R98, R245): the virtual range and the physical pages it covered. -/
structure Pin where
  va : Nat
  lsize : Nat
  pages : List (Nat × Nat)
  deriving DecidableEq, Repr, Inhabited

/-- A configuration of a partition (R353): masks of quads, of slice units and of pseudo-channel groups. -/
structure PConf where
  quads : Nat
  slices : Nat
  groups : Nat
  deriving DecidableEq, Repr, Inhabited

/-- A partition. -/
structure Part where
  troot : Nat
  lend : Bool
  borrow : Bool
  quant : Nat
  preempts : Nat
  aseq : BitVec 32
  acode : BitVec 2
  aerr : Bool
  log : Ring
  lq : Ring
  fq : Ring
  plq : Ring
  fmapb : Nat
  vmapb : Nat
  freq : Word
  fbusy : Bool
  /-- The base of the request's map as it stood when the request began (R113). -/
  fbase : Nat
  fres : Nat
  ferr : Bool
  staged : PConf
  current : PConf
  hcap : Nat
  dcap : Nat
  xcap : Nat
  rbusy : Bool
  rres : Nat
  /-- The configuration that the resize in progress applies, and the step it has come to (R355). -/
  target : PConf
  rstep : Nat
  pexp : Nat
  pcapt : Word
  /-- PCAPT as it stood when the partition's last launch was accepted: what triggers and the writes of no task go by (R368). -/
  pcaptRun : Word
  pins : Table Pin
  nextTask : Nat
  nextGang : Nat
  images : Table Image
  /-- Pages the provider registered with Ranger as held in host memory or in a version pool (R176): page base to a leaf
  entry that describes the page, its FRAME naming where the bytes are held. -/
  registered : Table Nat
  /-- The VF's MSI-X table (R347, R352): the address and the data of each vector, then the mask and the pending bits. -/
  msixAddr : Table Word
  msixData : Table Nat
  msixMask : Nat
  msixPend : Nat
  msixSent : List Nat
  /-- Records formed and not yet written (R351), and records written that await an answer, by SEQ (R180). -/
  records : List FaultRec
  /-- By SEQ; what Ranger alone answers and the ring never holds stands from 2^64 on (R111, R378). -/
  awaiting : Table FaultRec
  /-- Answers that arrived during a save, with whether they were RETIRE (R183). -/
  deferred : List (FaultRec × Bool)
  /-- Logbook records that wait for their slot's line (R342), with whether they are captured ones (R370). -/
  logWait : List (Bool × List Byte)
  /-- Host memory lines held in home slices for this partition (R94). -/
  hostLines : Table HostLine
  /-- Slots of the replay source ring that are consumed (R371). -/
  replayed : Table Nat
  /-- RELINQ has been asked by these banks (R341). -/
  relinq : List Nat
  deriving DecidableEq, Repr, Inhabited

/-- An outbound peer request that awaits its response (R359, R361), and the task, unit and access that made it; `skip` and
`len` say which bytes of its sector the reader wants. -/
structure PeerReq where
  tag : Nat
  port : Nat
  part : Nat
  task : Nat
  unit : Nat
  id : Nat
  opc : Nat
  pa : Nat
  skip : Nat
  len : Nat
  pos : Nat
  va : Nat
  deriving DecidableEq, Repr, Inhabited

/-- A peer port (R357). `out` holds flits sent and not yet acknowledged, oldest first. -/
structure Port where
  up : Bool
  nextSeq : Nat
  lastIn : Nat
  out : List Flit
  resent : Nat
  deriving DecidableEq, Repr, Inhabited

/-- A saved context (R181); the table's key is SAVEPA and, above it, a number of its own. The bytes stand in memory; the
restore takes from them what R181 lays down a place for, and the rest from here (log 22). -/
structure Saved where
  task : Task
  mbox : BitVec 256
  bank : Bank
  deriving DecidableEq, Repr, Inhabited

/-- One bank test of a stack in progress or a repaired row (R365 to R367): stack, pseudo-channel, bank, spare, row. -/
structure Repair where
  stack : Nat
  pch : Nat
  bank : Nat
  spare : Nat
  row : Nat
  deriving DecidableEq, Repr, Inhabited

/-- What the outside gives a reset to find (R372, R373, R376): flash images, which links and stacks train, the rows that the test
of step 5 finds failing (their `spare` says nothing), and whether the PUF's response can be corrected. The root key digest and the
helper data stand in the base die. -/
structure Board where
  config : List Byte
  firmware : Table (List Byte)
  rootDigest : List Byte
  pufOk : Bool
  stacksOk : Nat
  failing : List Repair
  modulesOk : Nat
  portsOk : Nat
  deriving DecidableEq, Repr, Inhabited

/-- A link's cap window (R354): slots each partition has used in the window. -/
abbrev LinkUse := Table Nat

/-- Package state. -/
structure Pkg where
  mup : Nat
  stage : Nat
  err : Nat
  unit : Nat
  skips : Nat
  devid : List Byte
  agoBusy : Bool
  adone : Bool
  abuf : Nat
  hdmBase : Nat
  /-- Node table (R358), by node. -/
  nodes : Table Word
  ports : Table Port
  reqs : List PeerReq
  nextTag : Nat
  /-- HBM lines of 64 bytes the host holds under CXL.cache (R342). -/
  hostHeld : List Nat
  /-- What the host was answered last, and whether CXL poison was set (R363). -/
  hostReply : List Byte
  hostPoison : Bool
  /-- The host's last request was completed with unsupported-request status (R376). -/
  unsupported : Bool
  /-- NONCE of the report that is being formed (R374). -/
  nonce : List Byte
  /-- Poisoned sectors by sector address (R363). -/
  poison : List Nat
  repairs : List Repair
  retiredRows : List Repair
  /-- Frames of retired rows whose pages are still to be migrated (R366). -/
  leaving : List Nat
  excluded : Nat
  saved : Table Saved
  links : Table LinkUse
  board : Board
  deriving DecidableEq, Repr, Inhabited

/-- Everything but the bytes of memory. -/
structure Dev where
  banks : Table Bank
  cores : Table CoreState
  hampers : Table (List HampEnt)
  slices : Table Slice
  dies : Table Die
  parts : Table Part
  gangs : Table Gang
  plots : Table Plot
  graphs : Table Graph
  pkg : Pkg
  /-- The acting sequencer: bank and sequencer that a program word is issued by (the model's own). -/
  actBank : Nat
  actSeq : Seq
  /-- Steps to come, in order, and the number of steps whose choice was free (the model's own). -/
  agenda : List Turn
  ticks : Nat
  /-- Order numbers for hampers and submissions (the model's own). -/
  nextOrd : Nat
  deriving DecidableEq, Repr, Inhabited

/-- The machine: bytes of memory by physical address in canonical form, and the rest. -/
structure State where
  mem : List Host.Cell
  dev : Dev
  deriving DecidableEq, Repr, Inhabited

/-! ## Reset values -/

/-- Sequencer registers after reset and at a task's start (R41, R334). -/
def SeqState.start (released : Bool) : SeqState :=
  { code := [], poison := [], pos := 0, g := [], p := [], a := [], cyc := 0, prevClk := 0, prevOcc := 1, avail := [],
    awaits := [], loops := [], outq := [], halted := false, released := released, accs := [], posts := [], wout := 0,
    waita := none, ecalls := [], qfence := none, walk := none, moved := 0, popped := [], bars := 0 }

/-- A plane of zero bytes, type F32 (R301). -/
def Plane.zero : Plane := { rows := [], hdrs := [], ty := .f32 }

/-- Matrix state at the start (R301). -/
def MatState.start : MatState :=
  { stationary := .zero, shadow := .zero, coll := [], queue := [], mode := .rne, seed := 0, mseq := 0, period := 0,
    handles := [], stat := { knf := 0, knft := 0, sstat := 0, ssig := 0, rstall := 0 }, west := [], chained := false }

/-- Vector state at the start (R41). -/
def VecState.start : VecState :=
  { tiles := [], masks := [], wit := [], avail := [], lmem := [], rmode := 0, nf := false, nfAt := [], dseed := 0,
    vseq := 0 }

/-- The words before the first clock. -/
def Before.start : Before := { vseq := 0, mseq := 0, cnt := 0, qstat := [], logctl := 0, logstat := 0 }

/-- An empty bank (R41, R334). -/
def Bank.empty : Bank :=
  { status := .empty, why := .none, task := none, mbox := 0, clk := 0, phase := .main, slot := .K, goDone := false,
    k := .start true, l := .start false, x := .start false, d := .start false, events := [], q := [], qbind := [],
    ldc := 0, stc := 0, cpc := 0, toc := 0, trec0 := 0, trec1 := 0, copyq := [], trails := [], descs := [],
    kernels := [], lookout := [], vec := .start, mat := .start, traps := [], answerSeq := none, onCont := [],
    failed := none, yielding := false, readyAt := 0, held := none, nextId := 0, savePa := none, dispatched := 0,
    trels := [], csrs := [], before := .start }

/-- A core with nothing cached. -/
def CoreState.start : CoreState := { l1 := [], tlb := [], utlb := [], tcache := [], lastPart := none }

/-- A slice with free watch entries and park slots. -/
def Slice.start : Slice := { watches := [], parks := [], arrivals := [], count := 0, pinOvf := 0, retWays := 0 }

/-- A die after reset (R112, R146, R338). -/
def Die.start : Die :=
  { slots := [], hen := false, hepoch := 20, hthresh := 0x0400, pinhot := 0, nmhot := 0, verhot := 0, nofrm := 0,
    migs := 0, wsel := 0, wdat := none, counts := [], migrations := [], submits := [], graphReqs := [],
    stopped := false }

/-- A ring after reset (R337, R349). -/
def Ring.start : Ring := { base := 0, en := false, lsize := 0, head := 0, tail := 0, ovf := 0, terr := false }

/-- No resource. -/
def PConf.none : PConf := { quads := 0, slices := 0, groups := 0 }

/-- A partition after reset (R113, R133, R149, R180, R335, R337, R349, R353, R368). -/
def Part.start : Part :=
  { troot := 0, lend := false, borrow := false, quant := 0x0100, preempts := 0, aseq := 0, acode := 0, aerr := false,
    log := .start, lq := .start, fq := .start, plq := .start, fmapb := 0, vmapb := 0, freq := 0, fbusy := false, fbase := 0,
    fres := 0, ferr := false, staged := .none, current := .none, hcap := 0xFF, dcap := 0xFF, xcap := 0xFF,
    rbusy := false, rres := 0, target := .none, rstep := 0, pexp := 0, pcapt := 0, pcaptRun := 0, pins := [], nextTask := 1, nextGang := 1, images := [],
    registered := [], msixAddr := [], msixData := [], msixMask := 2 ^ 64 - 1, msixPend := 0, msixSent := [], records := [], awaiting := [], deferred := [], logWait := [], hostLines := [],
    replayed := [], relinq := [] }

/-- A peer port that is down. -/
def Port.start : Port := { up := false, nextSeq := 0, lastIn := 4095, out := [], resent := 0 }

/-- A board whose flash is empty. -/
def Board.empty : Board :=
  { config := [], firmware := [], rootDigest := [], pufOk := false, stacksOk := 0, failing := [], modulesOk := 0, portsOk := 0 }

/-- The package after reset (R343, R364, R375). -/
def Pkg.start (board : Board) : Pkg :=
  { mup := 0, stage := 0, err := 0, unit := 0, skips := 0, devid := [], agoBusy := false, adone := false, abuf := 0,
    hdmBase := 0, nodes := [], ports := [], reqs := [], nextTag := 0, hostHeld := [],
    hostReply := [], hostPoison := false, unsupported := false, nonce := [], poison := [], repairs := [],
    retiredRows := [], leaving := [], excluded := 0, saved := [], links := [], board := board }

/-- The device after reset, with what the board holds. -/
def Dev.start (board : Board) : Dev :=
  { banks := [], cores := [], hampers := [], slices := [], dies := [], parts := [], gangs := [], plots := [],
    graphs := [], pkg := .start board, actBank := 0, actSeq := .K, agenda := [], ticks := 0, nextOrd := 0 }

/-- The machine right after reset: every word at its reset value, memory with nothing listed. -/
def State.reset : State := { mem := [], dev := .start .empty }

end Sys2Proof.Machine
end

