-- ==== Sys2Proof/Machine/Ops.lean ====
section
/-! DEFINITION. Ops: the named operations over tables, memory, banks and records, the issue of a word (R43, R44, R185,
R207), and taking a trap (R169 to R174), each once. -/

namespace Sys2Proof.Machine

/-! ## Tables -/

/-- The value at a key, or the start value `d`. -/
def tget {α : Type} (d : α) : Table α → Nat → α
  | [], _ => d
  | (k', v) :: t, k => if k = k' then v else tget d t k

/-- Setting a key; keys stay in rising order. -/
def tput {α : Type} : Table α → Nat → α → Table α
  | [], k, v => [(k, v)]
  | (k', v') :: t, k, v =>
    if k < k' then (k, v) :: (k', v') :: t else if k = k' then (k, v) :: t else (k', v') :: tput t k v

/-- Forgetting a key. -/
def tdel {α : Type} (t : Table α) (k : Nat) : Table α := t.filter (fun p => p.1 != k)

/-- The value at a key, if listed. -/
def tfind {α : Type} : Table α → Nat → Option α
  | [], _ => none
  | (k', v) :: t, k => if k = k' then some v else tfind t k

/-- Updating every value. -/
def tmap {α : Type} (f : Nat → α → α) (t : Table α) : Table α := t.map (fun p => (p.1, f p.1 p.2))

/-- Replacing the element at a position of a list. -/
def lset {α : Type} (l : List α) (i : Nat) (v : α) : List α := l.set i v

/-! ## Memory -/

/-- What an unlisted byte of memory reads as: HBM is cleared to zero at bring-up (R376, step 5); for host memory it is the
model's choice (DESIGN CHOICE, log 4). -/
def unlistedByte : Byte := 0

/-- One byte of memory. -/
def memGet : List Host.Cell → Nat → Byte
  | [], _ => unlistedByte
  | (k, v) :: t, a => if a = k then v else memGet t a

/-- Inserting a byte, in address order. -/
def memIns : List Host.Cell → Nat → Byte → List Host.Cell
  | [], a, v => [(a, v)]
  | (k, w) :: t, a, v =>
    if a < k then (a, v) :: (k, w) :: t else if a = k then (a, v) :: t else (k, w) :: memIns t a v

/-- Writing one byte; the canonical form is kept: the value of an unlisted byte removes the entry. -/
def memPut (m : List Host.Cell) (a : Nat) (v : Byte) : List Host.Cell :=
  if v = unlistedByte then m.filter (fun c => c.1 != a) else memIns m a v

/-- Writing bytes one after another. -/
def memPutAll : List Host.Cell → Nat → List Byte → List Host.Cell
  | m, _, [] => m
  | m, a, b :: bs => memPutAll (memPut m a b) (a + 1) bs

/-- The canonical form: addresses strictly rising, no entry equal to what an unlisted address reads as. -/
def Memory.wf : List Host.Cell → Bool
  | [] => true
  | [c] => c.2 != unlistedByte
  | c :: d :: t => c.2 != unlistedByte && decide (c.1 < d.1) && Memory.wf (d :: t)

/-! ## The machine in the course of a step -/

/-- A step in progress: the memory it found, the device as it stands, and the writes it has made, latest first. -/
structure Mach where
  mem0 : List Host.Cell
  dev : Dev
  writes : List (Nat × List Byte)
  deriving Repr

/-- The start of a step. -/
def Mach.of (s : State) : Mach := { mem0 := s.mem, dev := s.dev, writes := [] }

/-- Memory after a list of writes, latest first. -/
def applyWrites (m : List Host.Cell) : List (Nat × List Byte) → List Host.Cell
  | [] => m
  | w :: ws => memPutAll (applyWrites m ws) w.1 w.2

/-- The state a step leaves: memory changes only by the writes it made. -/
def Mach.close (s : State) (m : Mach) : State := { mem := applyWrites s.mem m.writes, dev := m.dev }

/-- A meaning's answer: the next state. -/
def commit (s : State) (m : Mach) : Host.Outcome State Fault Refusal := .next (m.close s)

/-- The byte that the writes made so far leave at an address, if they cover it. -/
def pendingByte : List (Nat × List Byte) → Nat → Option Byte
  | [], _ => none
  | (a, bs) :: ws, x => if a ≤ x ∧ x < a + bs.length then bs[x - a]? else pendingByte ws x

/-- One byte as it stands in the step. -/
def Mach.byte (m : Mach) (a : Nat) : Byte :=
  match pendingByte m.writes a with
  | some b => b
  | none => memGet m.mem0 a

/-- The bytes at an address. -/
def Mach.bytes (m : Mach) (a n : Nat) : List Byte := (List.range n).map (fun i => m.byte (a + i))

/-- The little-endian value of the bytes at an address. -/
def Mach.le (m : Mach) (a n : Nat) : Nat := leNat (m.bytes a n)

/-- Writing bytes. -/
def Mach.put (m : Mach) (a : Nat) (bs : List Byte) : Mach := { m with writes := (a, bs) :: m.writes }

/-! ## Accessors -/

/-- A bank of the device. -/
def Mach.bank (m : Mach) (b : Nat) : Bank := tget .empty m.dev.banks b
/-- Setting a bank. -/
def Mach.setBank (m : Mach) (b : Nat) (v : Bank) : Mach := { m with dev := { m.dev with banks := tput m.dev.banks b v } }
/-- Changing a bank. -/
def Mach.modBank (m : Mach) (b : Nat) (f : Bank → Bank) : Mach := m.setBank b (f (m.bank b))
/-- A sequencer of a bank. -/
def Bank.seq (k : Bank) : Seq → SeqState
  | .K => k.k
  | .L => k.l
  | .X => k.x
  | .D => k.d
/-- Setting a sequencer. -/
def Bank.setSeq (k : Bank) (q : Seq) (v : SeqState) : Bank :=
  match q with
  | .K => { k with k := v }
  | .L => { k with l := v }
  | .X => { k with x := v }
  | .D => { k with d := v }
/-- Changing a sequencer. -/
def Mach.modSeq (m : Mach) (b : Nat) (q : Seq) (f : SeqState → SeqState) : Mach :=
  m.modBank b (fun k => k.setSeq q (f (k.seq q)))
/-- Changing all four sequencers. -/
def Bank.mapSeqs (k : Bank) (f : Seq → SeqState → SeqState) : Bank :=
  { k with k := f .K k.k, l := f .L k.l, x := f .X k.x, d := f .D k.d }
/-- A core. -/
def Mach.core (m : Mach) (c : Nat) : CoreState := tget .start m.dev.cores c
/-- Changing a core. -/
def Mach.modCore (m : Mach) (c : Nat) (f : CoreState → CoreState) : Mach :=
  { m with dev := { m.dev with cores := tput m.dev.cores c (f (m.core c)) } }
/-- A slice, by die·80 + slice. -/
def Mach.slice (m : Mach) (s : Nat) : Slice := tget .start m.dev.slices s
/-- Changing a slice. -/
def Mach.modSlice (m : Mach) (s : Nat) (f : Slice → Slice) : Mach :=
  { m with dev := { m.dev with slices := tput m.dev.slices s (f (m.slice s)) } }
/-- A die. -/
def Dev.die (d : Dev) (i : Nat) : Die := tget .start d.dies i
/-- Changing a die. -/
def Mach.modDie (m : Mach) (i : Nat) (f : Die → Die) : Mach :=
  { m with dev := { m.dev with dies := tput m.dev.dies i (f (m.dev.die i)) } }
/-- A partition; index 16 keeps the lines of accesses made for no partition (R94). -/
def Dev.part (d : Dev) (p : Nat) : Part := tget .start d.parts p
/-- Changing a partition. -/
def Mach.modPart (m : Mach) (p : Nat) (f : Part → Part) : Mach :=
  { m with dev := { m.dev with parts := tput m.dev.parts p (f (m.dev.part p)) } }
/-- Changing the package. -/
def Mach.modPkg (m : Mach) (f : Pkg → Pkg) : Mach := { m with dev := { m.dev with pkg := f m.dev.pkg } }
/-- A gang's key: the partition above the gang number. -/
def gangKey (part gid : Nat) : Nat := part * 2 ^ 32 + gid
/-- Changing a gang. -/
def Mach.modGang (m : Mach) (g : Nat) (f : Gang → Gang) : Mach :=
  match tfind m.dev.gangs g with
  | some v => { m with dev := { m.dev with gangs := tput m.dev.gangs g (f v) } }
  | none => m
/-- A hamper: keys 0 to 3 dies, 1000 + quad, 2000 + core (R143). -/
def Dev.hamper (d : Dev) (h : Nat) : List HampEnt := tget [] d.hampers h
/-- Setting a hamper. -/
def Mach.setHamper (m : Mach) (h : Nat) (v : List HampEnt) : Mach :=
  { m with dev := { m.dev with hampers := tput m.dev.hampers h v } }
/-- The next order number. -/
def Mach.nextOrd (m : Mach) : Nat × Mach := (m.dev.nextOrd, { m with dev := { m.dev with nextOrd := m.dev.nextOrd + 1 } })

/-- The core of a bank. -/
def coreOf (b : Nat) : Nat := b / 2
/-- The quad of a bank, numbered over the package. -/
def quadOf (b : Nat) : Nat := b / 8
/-- The die of a bank. -/
def dieOf (b : Nat) : Nat := b / 128
/-- The partner bank of the core. -/
def partner (b : Nat) : Nat := if b % 2 = 0 then b + 1 else b - 1
/-- COREID of R88: die, quad, core, bank. -/
def coreId (b : Nat) : Nat := dieOf b * 2 ^ 14 + (b / 8 % 16) * 2 ^ 10 + (b / 2 % 4) * 2 ^ 8 + b % 2

/-! ## Partition resources -/

/-- Whether PA[49:0] lies in populated HBM (R91). -/
def isHbm (pa : Nat) : Bool := pa / 2 ^ 50 == 0 && decide (pa ≤ 0xBFFFFFFFFF)
/-- Host memory (R91). -/
def isHostMem (pa : Nat) : Bool := pa / 2 ^ 50 == 3
/-- Peer window (R91). -/
def isPeer (pa : Nat) : Bool := pa / 2 ^ 50 == 1
/-- The pseudo-channel group of an HBM address, 16·stack + group (R93). -/
def groupOf (pa : Nat) : Nat := pa / 2 ^ 32 % 192
/-- The die of an HBM address (R93). -/
def hbmDie (pa : Nat) : Nat := pa / 2 ^ 36 / 3
/-- The partition whose current configuration holds an HBM group (R353), none on a stack that did not train (R376). -/
def Dev.groupOwner (d : Dev) (g : Nat) : Option Nat :=
  if bitOf d.pkg.excluded (g / 16) then none else (List.range 16).find? (fun p => bitOf (d.part p).current.groups g)
/-- The partition that owns a quad, numbered over the package (R353): none on a die that has stopped (R364) or whose firmware
was refused (R376). -/
def Dev.quadOwner (d : Dev) (q : Nat) : Option Nat :=
  if (d.die (q / 16)).stopped || bitOf d.pkg.excluded (12 + q / 16) then none else (List.range 16).find? (fun p => bitOf (d.part p).current.quads q)
/-- Whether a partition owns a quad of a die that has not stopped (R364). -/
def Dev.ownsQuadOn (d : Dev) (p die : Nat) : Bool :=
  (List.range 16).any (fun q => d.quadOwner (16 * die + q) == some p)
/-- The slices a partition owns on a die, ascending, as die·80 + slice. -/
def Dev.slicesOn (d : Dev) (p die : Nat) : List Nat :=
  (List.range 80).filterMap (fun s => if bitOf (d.part p).current.slices (10 * die + s / 8) then some (80 * die + s) else none)
/-- All slices of a partition, by die and then slice. -/
def Dev.slicesOf (d : Dev) (p : Nat) : List Nat := (List.range 4).flatMap (d.slicesOn p)

/-- The list of slices among which an address is spread (R94). HBM in a group that joined at step 1 of a resize, on a die where the
partition owns no slice until step 3, is spread over all slices of the die (DESIGN CHOICE, log 109). -/
def Dev.homeList (d : Dev) (pa : Nat) (part : Option Nat) : List Nat :=
  if isHbm pa then
    match d.groupOwner (groupOf pa) with
    | some p => if (d.slicesOn p (hbmDie pa)).isEmpty then (List.range 80).map (fun s => 80 * hbmDie pa + s) else d.slicesOn p (hbmDie pa)
    | none => (List.range 80).map (fun s => 80 * hbmDie pa + s)
  else
    match part with
    | some p => if (d.slicesOf p).isEmpty then List.range 320 else d.slicesOf p
    | none => List.range 320

/-- The home slice (R94). -/
def Dev.home (d : Dev) (pa : Nat) (part : Option Nat) : Nat :=
  let u := pa / 2 ^ 12 % 2 ^ 40
  let h := Nat.xor (Nat.xor (u % 2 ^ 16) (u / 2 ^ 16 % 2 ^ 16)) (u / 2 ^ 32 % 2 ^ 8)
  let l := d.homeList pa part
  l.getD (h % l.length) 0

/-- Provider memory (R92). -/
def Dev.providerMem (d : Dev) (pa : Nat) : Bool :=
  isHostMem pa || (isHbm pa && (d.groupOwner (groupOf pa)).isNone)

/-! ## Records -/

/-- A fault record waits at its partition until FAULT_RECORD_WRITE (R351). -/
def Mach.addRecord (m : Mach) (p : Nat) (r : FaultRec) : Mach :=
  m.modPart p (fun t => { t with records := t.records ++ [r] })

/-- A record that concerns no bank: SRC 6 or 7 (R179). -/
def FaultRec.plain (cause : Nat) (src va gangId : Nat) : FaultRec :=
  { cause := cause, src := src, access := 0, flags := 0, core := 0, taskId := 0, pos := 0, va := va, pa := 0, detail := 0,
    gangId := gangId, bank := none, queue := none, submission := none, vec := none }

/-- Dispositions of R168. -/
inductive Disp where
  | retire | wait | hold | record
  deriving DecidableEq, Repr

/-- The disposition of a cause that a sequencer raises (R168). -/
def dispOf : Cause → Disp
  | .page => .wait
  | .bkpt => .hold
  | .runaway => .record
  | .gate => .record
  | _ => .retire

/-! ## Priorities -/

/-- The priority of a bank's task (R173). -/
def Bank.prio (k : Bank) : Nat :=
  match k.task with
  | some t => t.prio
  | none => 0

/-! ## Issue -/

/-- What a word's own description does on its clock. -/
inductive Act where
  /-- A stall condition of R44 holds. The word does nothing on this clock: its pops belong to its issue clock (R196). -/
  | stall
  /-- The word stalls while something that it has set going is under way: a barrier, a park, an image that moves. -/
  | wait (m : Mach)
  /-- The word stalls because its translation is not in the TLB: a walk for it begins (R44). -/
  | walk (va : Nat) (kind : Kind)
  /-- A check fails (R169). -/
  | trap (t : TrapEnt)
  /-- A check fails after something that stays done: an arrival at a barrier (R50), popped elements (R295). -/
  | trapAfter (m : Mach) (t : TrapEnt)
  /-- The word issues with this occupancy; `next` replaces the next position (R220, R222). -/
  | done (m : Mach) (occ : Nat) (next : Option Nat)

/-- The acting sequencer. -/
structure Ctx where
  b : Nat
  q : Seq
  k : Bank
  s : SeqState

/-- The context of the acting sequencer. -/
def Mach.ctx (m : Mach) : Ctx :=
  { b := m.dev.actBank, q := m.dev.actSeq, k := m.bank m.dev.actBank, s := (m.bank m.dev.actBank).seq m.dev.actSeq }

/-- A trap of the acting sequencer at its word (R179: POS and SRC). -/
def Ctx.trap (c : Ctx) (cause : Cause) : TrapEnt :=
  { seq := c.q, cause := cause, va := 0, access := .read, pos := c.s.pos, migrating := false, malformed := false,
    poison := false, pa := 0, detail := 0 }

/-- Recording a trap on its clock; the clock's end resolves it (R170). -/
def Mach.addTrap (m : Mach) (b : Nat) (t : TrapEnt) : Mach := m.modBank b (fun k => { k with traps := k.traps ++ [t] })

/-- After a word at position `p`: the loops that end there (R222). -/
def loopAdvance (p : Nat) : List LoopEnt → List LoopEnt × Nat
  | [] => ([], p + 1)
  | e :: es =>
    if e.stop = p then
      if 1 < e.rem then ({ e with rem := e.rem - 1 } :: es, e.start) else loopAdvance p es
    else (e :: es, p + 1)

/-- The word has issued: its clock and occupancy are the previous issue, and the position moves on (R43, R222). -/
def SeqState.retire (s : SeqState) (clk occ : Nat) (next : Option Nat) : SeqState :=
  match next with
  | some n => { s with prevClk := clk, prevOcc := occ, pos := n, walk := none }
  | none =>
    { s with prevClk := clk, prevOcc := occ, loops := (loopAdvance s.pos s.loops).1, pos := (loopAdvance s.pos s.loops).2,
             walk := none }

/-- Applying what a word did. -/
def Mach.finish (m : Mach) (c : Ctx) (a : Act) : Mach :=
  match a with
  | .stall => m
  | .wait m' => m'
  | .walk va kind => m.modSeq c.b c.q (fun s => { s with walk := some { va := va, kind := kind, refused := none } })
  | .trap t => m.addTrap c.b t
  | .trapAfter m' t => m'.addTrap c.b t
  | .done m' occ next => m'.modSeq c.b c.q (fun s => s.retire c.k.clk occ next)

/-- The predicate value g of R185. -/
def SeqState.pred (s : SeqState) (h : Hdr) : Bool :=
  (if h.pred = 0 then true else tget false s.p h.pred.toNat) != h.pneg

/-- A register key may be named on this clock: its result is in place and no load or answer is awaited (R44, R211). -/
def SeqState.keyReady (s : SeqState) (clk key : Nat) : Bool :=
  decide (tget 0 s.avail key ≤ clk) && !(s.awaits.any (fun p => p.1 == key))

/-- The first clock on which a word may issue (R43). -/
def SeqState.earliest (s : SeqState) (h : Hdr) : Nat := s.prevClk + Nat.max h.idle.toNat s.prevOcc

/-- Whether a bank's sequencer can issue at all on this clock: running, released, not halted, no trap of its own on this
clock, no yield on this clock. -/
def Bank.open (k : Bank) (q : Seq) : Bool :=
  k.status == .running && (k.seq q).released && !(k.seq q).halted && !(k.traps.any (fun t => t.seq == q))

/-- A word's header. -/
def hdrOf : Instr → Hdr
  | .nop f | .add f | .sub f | .and f | .or f | .xor f | .shl f | .shr f | .sra f | .rotl f | .min f | .max f | .minn f
  | .maxn f | .mul f | .mulh f | .mulhn f | .div f | .divn f | .rem f | .remn f | .clz f | .popc f | .brev f | .sext f
  | .zext f | .cmp f | .plog f | .sel f | .jr f | .loop f | .bopush f | .go f | .halt f | .yield f | .bar f | .amode f
  | .aadd f | .astep f | .wclr f | .warm f | .winfo f => f.h
  | .addi f | .andi f | .ori f | .xori f | .shli f | .shri f | .srai f | .muli f | .ldi f | .ldhi f | .post f | .await f
  | .waitc f => f.h
  | .br f | .call f | .brq f => f.h
  | .ld f | .st f | .ldq f | .stq f | .mark f | .fence f | .rinv f | .pref f | .rpin f | .runpin f | .atom f | .red f
  | .redx f | .rdx f | .waita f | .wset f => f.h
  | .cpy f | .cpySnk f | .cpySrc f | .cpy2 f | .gath f | .scat f | .crcqSum f | .crcqPut f | .crcqSeed f | .trset f
  | .tradv f | .trel f | .qfence f | .qbind f => f.h
  | .csrr f | .csrw f | .csrs f | .csrc f | .trap f | .bkpt f | .rmark f | .ecall f => f.h
  | .vadd f | .vsub f | .vmul f | .vfma f | .vmin f | .vmax f | .vabs f | .vneg f | .vand f | .vor f | .vxor f | .vshl f
  | .vshr f | .vsra f | .vsadd f | .vssub f | .vcmp f | .vsel f | .vmov f | .vmovIns f | .vsplat f | .viota f | .vcvt f
  | .vquant f | .vdeq f | .vchk f | .vclamp f | .vrcp f | .vrsq f | .vsqrt f | .vexp2 f | .vlog2 f | .vsin f | .vcos f
  | .vtanh f | .vrrot f | .vrbc f | .vcrot f | .vcbc f | .vrred f | .vrscan f | .vcred f | .vcscan f | .vtrn f
  | .vwmax f | .vwmin f | .vwmed f | .vwssum f | .vwclamp f | .vadj f | .vwout f | .vwin f | .vldw f | .vstw f
  | .vpopq f | .vpushq f | .vcpush f | .vcpop f => f.h
  | .mldw f | .mswap f | .mmul f | .mzero f | .mrd f | .mrdq f | .mmode f | .mchain f | .kbind f | .krel f | .kgen f
  | .msolve f | .mstat f | .msamp f => f.h
  | _ => { idle := 0, pred := 0, pneg := false }

/-- The scalar register fields of a word (R195): their values 32 to 47 are refused on K and X. -/
def scalarsOf : Instr → List RegF
  | .add f | .sub f | .and f | .or f | .xor f | .shl f | .shr f | .sra f | .rotl f | .min f | .max f | .minn f | .maxn f
  | .mul f | .mulh f | .mulhn f | .div f | .divn f | .rem f | .remn f | .clz f | .popc f | .brev f | .sext f | .zext f
  | .sel f | .jr f | .bar f | .winfo f => [f.dst, f.sa, f.sb]
  | .cmp f | .loop f | .aadd f | .amode f | .astep f | .wclr f | .warm f => [f.sa, f.sb]
  | .addi f | .andi f | .ori f | .xori f | .shli f | .shri f | .srai f | .muli f | .ldi f | .ldhi f => [f.dst, f.sa]
  | .ld f | .st f | .ldq f | .stq f | .rinv f | .pref f | .rpin f | .runpin f | .atom f | .red f | .redx f | .rdx f
  | .waita f | .wset f => [f.ds, f.base, f.idx]
  | .cpy f | .cpySnk f | .cpySrc f | .cpy2 f | .gath f | .scat f | .crcqSum f | .crcqPut f | .crcqSeed f | .trset f
  | .tradv f => [f.da, f.sa, f.ln]
  | .csrr f | .csrw f | .csrs f | .csrc f | .rmark f | .ecall f => [f.dst, f.sa]
  | _ => []

/-- Step 2 of R207 on a decoded word. -/
def streamsOk (i : Instr) (q : Seq) : Bool :=
  match opOf i with
  | some (op, fn) => opStreams op fn q
  | none => false

/-- Step 3 of R207: the checks of the word's bits, and an address register field on K or X (R195). -/
def legalOn (i : Instr) (q : Seq) : Bool := i.wf && ((q == .L || q == .D) || !((scalarsOf i).any isA))

/-- Control words of the provider alone: "—" in the tenant view (R333). -/
def cwProvOnly (cw : Nat) : Bool := decide (0x100 ≤ cw)

/-- Whether any field of a control word takes writes in a view, for the issuing sequencer (R333, R334, R257). -/
def cwWritable (prov : Bool) (q : Seq) (cw : Nat) : Bool :=
  if cw == 0x000 then q == .K
  else if cw == 0x008 || cw == 0x009 || cw == 0x00A || cw == 0x00B then true
  else if 0x020 ≤ cw ∧ cw ≤ 0x023 then true
  else if cw == 0x00C || cw == 0x00D || cw == 0x014 || cw == 0x015 then false
  else if cw == 0x113 || (decide (0x188 ≤ cw) && decide (cw ≤ 0x18D)) then prov && cw == 0x113
  else prov

/-- Step 4 of R207. -/
def privOk (prov : Bool) (q : Seq) : Instr → Bool
  | .csrr f => prov || !cwProvOnly f.imm.toNat
  | .csrw f | .csrs f | .csrc f => (prov || !cwProvOnly f.imm.toNat) && cwWritable prov q f.imm.toNat
  | _ => true

/-- The stated occupancy of a word (R43, R271): a false-predicate word keeps it (R185). -/
def occOf : Instr → Nat
  | .vadd f | .vsub f | .vmul f | .vfma f | .vmin f | .vmax f | .vabs f | .vneg f | .vand f | .vor f | .vxor f | .vshl f
  | .vshr f | .vsra f | .vsadd f | .vssub f | .vcmp f | .vsel f | .vmov f | .vmovIns f | .vsplat f | .viota f | .vchk f
  | .vclamp f => if f.ty == 1 then 8 else 4
  | .vcvt f | .vdeq f => if f.ty == 1 || fld f.tc.toNat 0 4 == 1 then 8 else 4
  | .vrcp f | .vrsq f | .vsqrt f | .vexp2 f | .vlog2 f | .vsin f | .vcos f | .vtanh f => if f.ty == 1 then 32 else 8
  | .vquant _ | .vrrot _ | .vrbc _ | .vcrot _ | .vcbc _ | .vrred _ | .vrscan _ | .vcred _ | .vcscan _ | .vtrn _
  | .vwmax _ | .vwmin _ | .vwmed _ | .vwssum _ | .vwclamp _ | .vadj _ | .vldw _ | .vstw _ => 4
  | _ => 1

/-- Whether a word reaches memory or an engine queue, so that an older QFENCE holds it back (R124, R266). -/
def fencedOf : Instr → Bool
  | .ld _ | .st _ | .ldq _ | .stq _ | .mark _ | .fence _ | .rinv _ | .pref _ | .rpin _ | .runpin _ | .atom _ | .red _
  | .redx _ | .rdx _ | .waita _ | .wset _ | .wclr _ | .warm _ | .winfo _ | .cpy _ | .cpySnk _ | .cpySrc _ | .cpy2 _
  | .gath _ | .scat _ | .crcqSum _ | .crcqPut _ | .crcqSeed _ | .trset _ | .tradv _ | .trel _ | .qfence _ | .qbind _ =>
    true
  | _ => false

/-- The number of the command that added or named a row of a trail (R124). -/
def TrailGen.batchOf (g : TrailGen) (j : Nat) : Nat :=
  (g.batch.foldl (fun (r : Nat) (b : Nat × Nat) => if b.1 ≤ j then b.2 else r) g.uid)

/-- A row's transfer is still to be performed (R102). -/
def RowState.isOpen : RowState → Bool
  | .pending | .begun | .writing => true
  | _ => false

/-- A setting has commands or rows of commands older than `before` that are not performed (R124). -/
def TrailGen.openBefore (g : TrailGen) (before : Nat) : Bool :=
  (!g.opened && decide (g.uid < before)) || g.cmds.any (fun d => decide (d.ord < before)) ||
    g.rows.any (fun r => r.2.isOpen && decide (g.batchOf r.1 < before)) ||
    g.retired.any (fun j => decide (g.batchOf j < before))

/-- Whether what a QFENCE names is still to be performed (R124). -/
def Qfence.open (f : Qfence) (k : Bank) (q : Seq) : Bool :=
  (f.loads && (k.seq q).accs.any (fun a => decide (a.id < f.before) &&
    (a.kind == .load || a.kind == .atom || a.kind == .red || a.kind == .redx || a.kind == .rdx || a.kind == .rinv))) ||
  (f.stores && (k.seq q).accs.any (fun a => decide (a.id < f.before) &&
    (a.kind == .store || a.kind == .atom || a.kind == .red || a.kind == .redx || a.kind == .pin))) ||
  f.copies.any (fun c => ((tget .start k.copyq c).cmds).any
    (fun d => decide (d.ord < f.before))) ||
  (f.trails && k.trails.any (fun t => t.2.gens.any (fun g => g.openBefore f.before)))

/-- A QFENCE names the queue that a write of host memory came through, and the write is older than it (R124). -/
def Qfence.names (f : Qfence) (task : Nat) (q : Seq) (w : Writer) : Bool :=
  w.task == task && decide (w.id < f.before) &&
    (if w.unit < 4 then f.stores && w.unit == q.idx
     else if w.unit < 8 then f.copies.contains (w.unit - 4) else f.trails)

/-- The acting bank's task runs in the provider view (R207). -/
def Bank.prov (k : Bank) : Bool :=
  match k.task with
  | some t => t.prov
  | none => false

/-- A task's key: its partition above its TASKID (R133). -/
def Task.key (t : Task) : Nat := t.part * 2 ^ 32 + t.taskId

/-- The partition under whose List a line of host memory is held; 16 is the List of all slices, which accesses for no
partition share with those of a partition that owns no slice (R94). -/
def Dev.lineOwner (d : Dev) (part : Option Nat) : Nat :=
  match part with
  | some p => if (d.slicesOf p).isEmpty then 16 else p
  | none => 16

/-- The dirty lines of host memory that a partition's accesses find at their home slices (R94, R118). -/
def Dev.dirtyLines (d : Dev) (part : Option Nat) : Table HostLine :=
  (d.part (d.lineOwner part)).hostLines.filter (fun l => l.2.dirty.any id)

/-- MARK and FENCE entries. -/
def AccKind.isFence : AccKind → Bool
  | .mark => true
  | .fence => true
  | _ => false

/-- What a FENCE.sys waits for, once every older access has been performed at `.pkg`: the dirty lines of host memory and the
peer requests that write, of its partition (R118, R123; DEDUCED, log 92). -/
def Mach.arm (m : Mach) (part : Nat) (a : Acc) : Acc :=
  if a.armed || a.kind != .fence || a.sc != 5 then a
  else { a with armed := true, lines := (m.dev.dirtyLines (some part)).map (fun l => l.1),
                tags := (m.dev.pkg.reqs.filter (fun r => r.part == part && r.opc != 1)).map (fun r => r.tag) }

/-- An armed FENCE has nothing left to wait for. -/
def Mach.fenceDone (m : Mach) (a : Acc) : Bool :=
  a.lines.isEmpty && !(m.dev.pkg.reqs.any (fun r => a.tags.contains r.tag))

/-- MARK and FENCE entries leave the queue once they are the oldest and hold back nothing more (R123). -/
def Mach.trimAccs (m : Mach) (part : Nat) : List Acc → List Acc
  | [] => []
  | a :: as =>
    if a.kind.isFence && m.fenceDone (m.arm part a) then m.trimAccs part as else m.arm part a :: as

/-- The queue of a sequencer without the MARK and FENCE entries that hold back nothing more (R123). -/
def Mach.trim (m : Mach) (b : Nat) (q : Seq) : Mach :=
  m.modSeq b q (fun s => { s with accs := m.trimAccs (match (m.bank b).task with | some t => t.part | none => 0) s.accs })

/-- An older QFENCE of the sequencer still waits: what it names, and what that wrote to host memory and is not yet at `.sys`
(R124, R266). -/
def Mach.fenced (m : Mach) (c : Ctx) : Bool :=
  match c.s.qfence with
  | some f => f.open c.k c.q || (match c.k.task with
    | some t => (m.dev.dirtyLines (some t.part)).any (fun l => l.2.writers.any (f.names t.key c.q))
    | none => false)
  | none => false

/-- Steps 1 to 4 of R207 on a decoded word: the cause of the first check that fails. -/
def Ctx.refuses (c : Ctx) (i : Instr) : Option Cause :=
  if !(streamsOk i c.q) then some .streamx
  else if !(legalOn i c.q) then some .illegal
  else if !(privOk c.k.prov c.q i) then some .priv
  else none

/-- Whether an answer is a stall of R44. -/
def Act.stalls : Act → Bool
  | .stall => true
  | .walk _ _ => true
  | _ => false

/-- One issue opportunity of a word: it waits for its predicate (R185); on the clock on which it would otherwise issue the
checks of R207 are made in their order (R169); a word whose predicate is false issues without effect; an older QFENCE may
hold it (R266); and then comes what the word's own description does. -/
def Mach.issue (m : Mach) (i : Instr) (body : Ctx → Mach → Act) : Mach :=
  let c := m.ctx
  let go := c.s.pred (hdrOf i)
  if !(c.k.open c.q) || decide (c.k.clk < c.s.earliest (hdrOf i)) then m
  else if (hdrOf i).pred != 0 && !(c.s.keyReady c.k.clk (64 + (hdrOf i).pred.toNat)) then m
  else
    let act := body c (if fencedOf i then m.modSeq c.b c.q (fun s => { s with qfence := none }) else m)
    match c.refuses i with
    | some cause => if go && ((fencedOf i && m.fenced c) || act.stalls) then m else m.addTrap c.b (c.trap cause)
    | none =>
      if !go then m.finish c (.done m (occOf i) none)
      else if fencedOf i && m.fenced c then m
      else m.finish c act

/-! ## Taking a trap (R169, R170, R171, R174) and coming back -/

/-- SRC of a record: the sequencer, and the mask of the others that trapped (R179). -/
def trapSrc (d : TrapEnt) (all : List TrapEnt) : Nat :=
  d.seq.idx + (all.foldl (fun a t => if t.seq = d.seq then a else a + 2 ^ (4 + t.seq.idx)) 0)

/-- The deciding trap of a clock (R170): the first Retire trap, else the first Hold trap, else the first Wait trap; the
traps stand in the order K, L, X, D. -/
def decidingTrap (ts : List TrapEnt) : Option TrapEnt :=
  match ts.find? (fun t => dispOf t.cause == .retire) with
  | some t => some t
  | none =>
    match ts.find? (fun t => dispOf t.cause == .hold) with
    | some t => some t
    | none => ts.head?

/-- The record of a trap (R179): ANS for an awaited answer, RET for a retirement. -/
def trapRecord (b : Nat) (k : Bank) (d : TrapEnt) (all : List TrapEnt) : FaultRec :=
  let ret := dispOf d.cause == .retire
  { cause := d.cause.code, src := trapSrc d all, access := d.access.code,
    flags := (if ret then 2 else 1) + (if d.migrating then 4 else 0) + (if d.malformed then 8 else 0) +
      (if d.poison then 16 else 0),
    core := coreId b, taskId := (match k.task with | some t => t.taskId | none => 0), pos := d.pos, va := d.va, pa := d.pa,
    detail := d.detail, gangId := (match k.task with | some t => t.gangId | none => 0),
    bank := if ret then none else some b, queue := none, submission := none, vec := none }

/-- The trap record words (R334). -/
def Bank.setTrec (k : Bank) (d : TrapEnt) (src : Nat) : Bank :=
  { k with trec0 := word (d.cause.code + src * 2 ^ 8 + d.pos * 2 ^ 16), trec1 := word d.va }

/-- The key under which a barrier instance's outcome stands beside its arrivals. -/
def barDecided : Nat := 64

/-- A bank at rest has not arrived at its next barrier: it arrives after the resume (R172). An instance that is decided
stays so. -/
def Mach.withdraw (m : Mach) (b : Nat) : Mach :=
  match (m.bank b).task with
  | none => m
  | some t =>
    m.modGang (gangKey t.part t.gangId) (fun g =>
      let k := (m.bank b).k.bars
      let inst := tget [] g.barriers k
      if (tfind inst barDecided).isSome then g else { g with barriers := tput g.barriers k (tdel inst t.rank) })

/-- The bind record of a bank (R146). -/
def Dev.slotOf (d : Dev) (bank : Nat) : Option BindRec := tfind (d.die (dieOf bank)).slots (bank % 128)

/-- Setting a bank's bind record. -/
def Mach.setSlot (m : Mach) (bank : Nat) (r : BindRec) : Mach :=
  m.modDie (dieOf bank) (fun d => { d with slots := tput d.slots (bank % 128) r })

/-- A SAVE record of the bank is pending: it comes to rest and is not switched in again (R147). -/
def Dev.saving (d : Dev) (bank : Nat) : Bool :=
  match d.slotOf bank with
  | some r => r.op == 5 && r.stat == 0
  | none => false

/-- A bank has become empty: its pending PREEMPT, DRAIN or SAVE is done (R147). -/
def Mach.bankEmptied (m : Mach) (bank : Nat) : Mach :=
  match m.dev.slotOf bank with
  | some r => if r.stat = 0 ∧ (r.op = 2 ∨ r.op = 4 ∨ r.op = 5) then m.setSlot bank { r with stat := 1 } else m
  | none => m

/-- The bank stands between two clocks: no sequencer has had its opportunity on the clock. -/
def Bank.between (k : Bank) : Bool := k.phase == .main && k.slot == .K

/-- A bank that switched out under the park rule becomes ready (R173). -/
def Mach.unpark (m : Mach) (b : Nat) : Mach :=
  if (m.bank b).status = .waiting ∧ (m.bank b).why = .parked then
    let r := m.nextOrd
    r.2.modBank b (fun k => { k with status := .ready, why := .none, readyAt := r.1 })
  else m

/-- Step 2 of R171: the issued words complete. Every result is in place, and a VCHK has set NF if it sets it (R300). A walk
under way is forgotten: the word translates afresh. -/
def Bank.completeWords (k : Bank) : Bank :=
  { k.mapSeqs (fun _ s => { s with avail := [], walk := none }) with
    q := tmap (fun _ es => es.map (fun e => { e with ready := 0 })) k.q,
    vec := { k.vec with avail := [], nf := k.vec.nf || !k.vec.nfAt.isEmpty, nfAt := [] } }

/-- The run of a bank ends (R171): no word issues from here on, the issued words complete, and a partner that switched out
under the park rule becomes ready (R173). A YIELD of the clock stays in effect (R229). -/
def Mach.rest (m : Mach) (b : Nat) (st : BankStatus) (why : WaitWhy) : Mach :=
  let r := (if st = .retiring then m else m.withdraw b).nextOrd
  (r.2.modBank b (fun k => { k.completeWords with status := st, why := why, readyAt := r.1, traps := [] })).unpark (partner b)

/-- The rows of a setting that started matrix entries of the bank have recorded (R306). -/
def Bank.wantedRows (k : Bank) (uid : Nat) : List Nat :=
  (k.mat.queue.filter (fun e => e.started)).flatMap (fun e => e.refs.flatMap (fun r =>
    if r.uid = uid then (List.range r.count).map (fun i => r.first + i) else []))

/-- The retirement of a bank's task by a fault begins (R174): issue stops, entries, commands and rows that have not begun
are discarded, and so is what a queue stopped by a page fault holds (R178); rows that a started matrix entry still reads stay,
since it runs to completion (step 3 of R171). TASK_RETIRE ends it once what has begun and every store is performed. -/
def Mach.beginRetire (m : Mach) (b : Nat) (cause : Cause) : Mach :=
  (m.rest b .retiring .none).modBank b (fun k =>
    { k with
      failed := some cause, answerSeq := none, onCont := [], cpc := 0,
      mat := { k.mat with queue := k.mat.queue.filter (fun e => e.started) },
      copyq := tmap (fun _ q =>
        { q with cmds := if q.fault.isSome then [] else q.cmds.filter (fun d => d.started), fault := none }) k.copyq,
      trails := tmap (fun _ t =>
        { t with fault := none, gens := t.gens.map (fun g =>
          { g with cmds := [],
                   rows := if t.fault.isSome then [] else g.rows.filter (fun r =>
                     (tfind g.sectors r.1).isSome || (r.2 == .pending && (k.wantedRows g.uid).contains r.1)),
                   sectors := if t.fault.isSome then [] else g.sectors,
                   retired := if t.fault.isSome then [] else g.retired }) }) k.trails })

/-- Taking the traps of a clock: ONE operation for every cause. The trap record words take the deciding trap, a record is
formed, and the task is retired or the bank waits for the answer (R169, R170). -/
def Mach.takeTraps (m : Mach) (b : Nat) : Mach :=
  let k := m.bank b
  match decidingTrap k.traps with
  | none => m
  | some d =>
    let m1 := (m.modBank b (fun k => k.setTrec d (trapSrc d k.traps))).addRecord
      (match k.task with | some t => t.part | none => 0) (trapRecord b k d k.traps)
    if dispOf d.cause = .retire then m1.beginRetire b d.cause
    else
      (m1.rest b .waiting .answer).modBank b (fun k' =>
        { k' with onCont := (k.traps.filter (fun t => dispOf t.cause == .hold)).map (fun t => t.seq) })

/-- Coming back on CONT (R170, R176, R339): a sequencer with a Hold trap goes on after its word, the others issue their
word again; the bank becomes ready. -/
def Mach.comeBack (m : Mach) (b : Nat) : Mach :=
  let r := m.nextOrd
  r.2.modBank b (fun k =>
    let k' := k.mapSeqs (fun q s =>
      if k.onCont.contains q then
        { s with loops := (loopAdvance s.pos s.loops).1, pos := (loopAdvance s.pos s.loops).2 } else s)
    { k' with status := .ready, why := .none, answerSeq := none, onCont := [], readyAt := r.1 })

/-- Every sequencer that is released and not halted is parked (R173). -/
def Bank.allParked (k : Bank) : Bool :=
  (match k.k.waita with | some w => w.outcome.isNone | none => false) &&
    (!k.l.released || k.l.halted) && (!k.x.released || k.x.halted) && (!k.d.released || k.d.halted)

/-- The meaning of a program word: one issue opportunity. -/
def issueWord (i : Instr) (s : State) (body : Ctx → Mach → Act) : Host.Outcome State Fault Refusal :=
  commit s ((Mach.of s).issue i body)

end Sys2Proof.Machine
end

