-- ==== Sys2Proof/Machine/Operands.lean ====
section
/-! DEFINITION. Operands: every operand form of a word: scalar fields (R195, R196), address registers and their updates
(R190, R233, R234), immediates (R186), and the delivery of results (R211, R240). -/

namespace Sys2Proof.Machine

/-- An address register at a task's start (R41). -/
def AReg.zero : AReg := { val := 0, step := 0, modulus := 0, origin := 0, mode := 0 }

/-- Address register n. -/
def SeqState.areg (s : SeqState) (n : Nat) : AReg := tget .zero s.a n

/-- The value of a g or a register field (R195): g0 reads 0. -/
def SeqState.reg (s : SeqState) (f : RegF) : Word :=
  if f.toNat = 0 then 0
  else if f.toNat < 32 then tget 0 s.g f.toNat
  else (s.areg (f.toNat - 32)).val

/-- The elements of a stream register. -/
def Bank.qelems (k : Bank) (n : Nat) : List QElem := tget [] k.q n

/-- The binding of a stream register. -/
def Bank.qbound (k : Bank) (n : Nat) : QBinding := tget .none k.qbind n

/-- The stream register number of a field. -/
def qNum (f : RegF) : Nat := f.toNat - 48

/-- A sequencer's pop of a register bound OUT traps with QOVF (R268). -/
def Bank.popRefused (k : Bank) (n : Nat) : Bool :=
  match k.qbound n with
  | .copyOut _ => true
  | _ => false

/-- A sequencer's push into a register bound IN or to a trail traps with QOVF (R268). -/
def Bank.pushRefused (k : Bank) (n : Nat) : Bool :=
  match k.qbound n with
  | .copyIn _ => true
  | .trail _ => true
  | _ => false

/-- An element is in place on a clock (R196, R211). -/
def QElem.inPlace (e : QElem) (clk : Nat) : Bool := e.wait.isNone && decide (e.ready ≤ clk)

/-- Popping the oldest element, if it is in place. -/
def Bank.pop (k : Bank) (n : Nat) : Option (Word × Bank) :=
  match k.qelems n with
  | [] => none
  | e :: es => if e.inPlace k.clk then some (e.val, { k with q := tput k.q n es }) else none

/-- Popping several elements. -/
def Bank.popN : Nat → Bank → Nat → Option (List Word × Bank)
  | 0, k, _ => some ([], k)
  | i + 1, k, n =>
    match k.pop n with
    | none => none
    | some (v, k') =>
      match Bank.popN i k' n with
      | none => none
      | some (vs, k'') => some (v :: vs, k'')

/-- Appending an element (R103). -/
def Bank.push (k : Bank) (n : Nat) (e : QElem) : Bank := { k with q := tput k.q n (k.qelems n ++ [e]) }

/-- Appending values that are in place from a clock on. -/
def Bank.pushAll (k : Bank) (n ready : Nat) (vs : List Word) : Bank :=
  { k with q := tput k.q n (k.qelems n ++ vs.map (fun v => { val := v, wait := none, ready := ready })) }

/-- Taking `n` slots that the read `id` will fill (R196). -/
def Bank.reserve (k : Bank) (r n id : Nat) : Bank :=
  { k with q := tput k.q r (k.qelems r ++ (List.range n).map (fun _ => { val := 0, wait := some id, ready := 0 })) }

/-- The room left in a stream register of 64 elements (R103). -/
def Bank.room (k : Bank) (n : Nat) : Nat := 64 - (k.qelems n).length

/-- Reading source fields in order, popping stream registers (R196). -/
def fetchFields (q : Seq) : Bank → List RegF → Option (List Word × Bank)
  | k, [] => some ([], k)
  | k, f :: fs =>
    if isQ f then
      match k.pop (qNum f) with
      | none => none
      | some (v, k') =>
        match fetchFields q k' fs with
        | none => none
        | some (vs, k'') => some (v :: vs, k'')
    else
      match fetchFields q k fs with
      | none => none
      | some (vs, k'') => some ((k.seq q).reg f :: vs, k'')

/-- A source field whose stream register sequencers may not pop (R268). -/
def Bank.srcRefused (k : Bank) (f : RegF) : Bool := isQ f && k.popRefused (qNum f)

/-- A destination whose stream register sequencers may not push (R268). -/
def Bank.dstRefused (k : Bank) (f : RegF) : Bool := isQ f && k.pushRefused (qNum f)

/-- The operands of a word, with what it does where a binding refuses one of them (R268). The stall conditions of R44 come
first: registers in place, an element for each pop, room for `npush` pushes after the pops (R196), each where its binding
allows it. -/
def operandsElse (c : Ctx) (m : Mach) (srcs : List RegF) (dst : RegF) (npush : Nat) (refused : Mach → Act)
    (k : Mach → List Word → Act) : Act :=
  if !((dst :: srcs).all (fun f => isQ f || c.s.keyReady c.k.clk f.toNat)) then .stall
  else
    match fetchFields c.q (m.bank c.b) (srcs.filter (fun f => !(c.k.srcRefused f))) with
    | none => .stall
    | some (vs, k') =>
      if isQ dst && !(c.k.dstRefused dst) && decide (k'.room (qNum dst) < npush) then .stall
      else if srcs.any c.k.srcRefused || (c.k.dstRefused dst && decide (0 < npush)) then refused (m.setBank c.b k')
      else k (m.setBank c.b k') vs

/-- The operands of a word: on the clock on which nothing else holds it a binding that refuses one traps (R169, R268); else the
values go to the word's own description. -/
def operands (c : Ctx) (m : Mach) (srcs : List RegF) (dst : RegF) (npush : Nat) (k : Mach → List Word → Act) : Act :=
  operandsElse c m srcs dst npush (fun _ => .trap (c.trap .qovf)) k

/-- The value at a position of the operand list. -/
def opnd (vs : List Word) (i : Nat) : Word := vs.getD i 0

/-- Writing a g register; g0 discards (R195). -/
def SeqState.putG (s : SeqState) (n : Nat) (v : Word) : SeqState := if n = 0 then s else { s with g := tput s.g n v }

/-- Writing an address register whole (R234). -/
def SeqState.putAReg (s : SeqState) (n : Nat) (v : AReg) : SeqState := { s with a := tput s.a n v }

/-- Writing an address register's value only (R195, R233). -/
def SeqState.putA (s : SeqState) (n : Nat) (v : Word) : SeqState := { s with a := tput s.a n { s.areg n with val := v } }

/-- Noting the clock from which a register may be named (R211); a latency of 1 never stalls the next word. -/
def SeqState.later (s : SeqState) (clk key lat : Nat) : SeqState :=
  if lat ≤ 1 then s else { s with avail := tput s.avail key (clk + lat) }

/-- Writing a result of latency `lat` (R195, R211). -/
def Mach.putReg (m : Mach) (c : Ctx) (f : RegF) (lat : Nat) (v : Word) : Mach :=
  if f.toNat = 0 then m
  else if f.toNat < 32 then m.modSeq c.b c.q (fun s => (s.putG f.toNat v).later c.k.clk f.toNat lat)
  else if f.toNat < 48 then m.modSeq c.b c.q (fun s => (s.putA (f.toNat - 32) v).later c.k.clk f.toNat lat)
  else m.modBank c.b (fun k => k.push (qNum f) { val := v, wait := none, ready := c.k.clk + lat })

/-- Taking the destination of a result that comes later: a register awaits it, a stream register gives `n` slots (R196). -/
def Mach.putAwait (m : Mach) (c : Ctx) (f : RegF) (n id : Nat) : Mach :=
  if f.toNat = 0 then m
  else if f.toNat < 48 then m.modSeq c.b c.q (fun s => { s with awaits := (f.toNat, id) :: s.awaits })
  else m.modBank c.b (fun k => k.reserve (qNum f) n id)

/-- Filling the slots of a stream register that await a read, oldest first. -/
def fillSlots (id clk : Nat) : List QElem → List Word → List QElem
  | [], _ => []
  | es, [] => es
  | e :: es, v :: vs =>
    if e.wait = some id then { val := v, wait := none, ready := clk } :: fillSlots id clk es vs
    else e :: fillSlots id clk es (v :: vs)

/-- Delivering a value to the destination taken at issue (R240). -/
def Mach.deliver (m : Mach) (b : Nat) (q : Seq) (dst id : Nat) (vs : List Word) : Mach :=
  if dst = 0 then m
  else if dst < 32 then
    m.modSeq b q (fun s => { s.putG dst (vs.getD 0 0) with awaits := s.awaits.filter (fun p => p.2 != id) })
  else if dst < 48 then
    m.modSeq b q (fun s => { s.putA (dst - 32) (vs.getD 0 0) with awaits := s.awaits.filter (fun p => p.2 != id) })
  else m.modBank b (fun k => { k with q := tput k.q (dst - 48) (fillSlots id k.clk (k.qelems (dst - 48)) vs) })

/-- Writing a predicate (R197); p0 is never written. -/
def SeqState.putPred (s : SeqState) (n : Nat) (v : Bool) : SeqState := { s with p := tput s.p n v }

/-- Reading a predicate: p0 reads true (R185). -/
def SeqState.getPred (s : SeqState) (n : Nat) : Bool := if n = 0 then true else tget false s.p n

/-! ## Address registers -/

/-- Bit i of a k-bit reversal; `revBits k x` reverses the order of k bits (R233). -/
def revBits : Nat → Nat → Nat
  | 0, _ => 0
  | k + 1, x => (x % 2) * 2 ^ k + revBits k (x / 2)

/-- Whether a number is a power of two. -/
def isPow2 (n : Nat) : Bool := n != 0 && 2 ^ Nat.log2 n == n

/-- The step suits a bit-reverse update: a power of two below M (R233). -/
def AReg.brevOk (a : AReg) : Bool := isPow2 a.step.toNat && decide (a.step.toNat < a.modulus.toNat)

/-- Update(a, inc) of R233. -/
def AReg.update (a : AReg) (inc : Word) : Word :=
  let mm : Word := a.modulus - 1
  match a.mode.toNat with
  | 0 => a.val + inc
  | 1 => (a.val &&& ~~~mm) ||| ((a.val + inc) &&& mm)
  | 2 =>
    let s := Nat.log2 a.step.toNat
    let k := Nat.log2 a.modulus.toNat - s
    let x := (a.val &&& mm).toNat / 2 ^ s
    let y := revBits k ((revBits k x + 1) % 2 ^ k)
    (a.val &&& ~~~mm) ||| word (y * 2 ^ s) ||| (a.val &&& word (2 ^ s - 1))
  | _ =>
    let off : Int := (a.val.toNat : Int) - a.origin.toNat + inc.toInt
    a.origin + BitVec.ofInt 64 (off % (a.modulus.toNat : Int))

/-- A post-update of BASE is refused: bit-reverse mode with an unsuitable step (R233). -/
def SeqState.postRefused (s : SeqState) (base : RegF) : Bool :=
  isA base && (s.areg (base.toNat - 32)).mode == 2 && !(s.areg (base.toNat - 32)).brevOk

/-- The post-update of BASE when it names an address register (R190, R233). -/
def Mach.postUpdate (m : Mach) (c : Ctx) (base : RegF) : Mach :=
  if isA base && !(c.s.postRefused base) then
    m.modSeq c.b c.q (fun s => s.putA (base.toNat - 32)
      ((s.areg (base.toNat - 32)).update (s.areg (base.toNat - 32)).step))
  else m

/-- The signed offset OFF12 as a word (R186). -/
def offWord (f : BitVec 12) : Word := f.signExtend 64

/-- b of R210: value(SB) plus the signed IMM16. -/
def secondOperand (sb : Word) (imm : BitVec 16) : Word := sb + imm.signExtend 64

end Sys2Proof.Machine
end

