-- ==== Sys2Proof/Machine/Flags.lean ====
section
/-! DEFINITION. Flags: the conditions of CMP and the operations of PLOG (R203), and the fields that vector words and
control words set: RMODE, NF, VSEQ (R272, R283, R331). -/

namespace Sys2Proof.Machine

/-- The conditions of CMP by FN (R203). -/
def cmpCond (fn : Nat) (a b : Word) : Bool :=
  match fn with
  | 0 => a == b
  | 1 => a != b
  | 2 => BitVec.slt a b
  | 3 => BitVec.ult a b
  | 4 => !BitVec.slt a b
  | _ => !BitVec.ult a b

/-- The operations of PLOG by FN (R203). -/
def plogOp (fn : Nat) (a b : Bool) : Bool :=
  match fn with
  | 0 => a && b
  | 1 => a || b
  | 2 => a != b
  | 3 => a && !b
  | 4 => a || !b
  | _ => !a

/-- An RW field under CSRW, CSRS and CSRC (R331): `how` 1 writes, 2 sets, 3 clears. -/
def csrNew (how : Nat) (old v : Word) : Word :=
  match how with
  | 1 => v
  | 2 => old ||| v
  | _ => old &&& ~~~v

/-- A write of RMODE: code 7 leaves it unchanged (R69, R331). -/
def rmodeWrite (old new : BitVec 3) : BitVec 3 := if new = 7 then old else new

/-- NF under a write of v and a VCHK on the same clock (R332): the set is applied last. -/
def nfWrite (old v set : Bool) : Bool := (old && !v) || set

/-- The vector sequence count after a word that writes a tile (R272). -/
def vseqNext (v : BitVec 32) : BitVec 32 := v + 1

end Sys2Proof.Machine
end

