-- ==== Sys2Proof/Machine/Hash.lean ====
section
/-! DEFINITION. Hash: CRC-32C as R257 states it, and SHAKE256, which the spec names (R22, R181, R326, R369, R372) and does
not lay down: it is taken from FIPS 202 (PRESUMED, log 11). -/

namespace Sys2Proof.Machine

/-- One bit step of the reflected CRC-32C (R257). -/
def crcBit (c : BitVec 32) : BitVec 32 := if c.getLsbD 0 then (c >>> 1) ^^^ 0x82F63B78 else c >>> 1

/-- Update(crc, byte) of R257. -/
def crcByte (c : BitVec 32) (b : Byte) : BitVec 32 :=
  crcBit (crcBit (crcBit (crcBit (crcBit (crcBit (crcBit (crcBit (c ^^^ b.setWidth 32))))))))

/-- Update over bytes in order. -/
def crcBytes (c : BitVec 32) (bs : List Byte) : BitVec 32 := bs.foldl crcByte c

/-- The finished value of a chain begun with all ones. -/
def crcFinish (c : BitVec 32) : BitVec 32 := c ^^^ 0xFFFFFFFF

/-- The finished CRC-32C of bytes. -/
def crc32c (bs : List Byte) : BitVec 32 := crcFinish (crcBytes 0xFFFFFFFF bs)

/-- A list turned left by `n` places. -/
def turned {α : Type} (n : Nat) (l : List α) : List α := l.drop n ++ l.take n

/-- The 25 lanes as five planes of five. -/
def planes (s : List Word) : List (List Word) := (List.range 5).map (fun y => (s.drop (5 * y)).take 5)

/-- Every lane takes up the parities of the columns beside its own (theta). -/
def mixColumns (s : List Word) : List Word :=
  let sums := (planes s).foldl (List.zipWith (· ^^^ ·)) (List.replicate 5 0)
  let near := List.zipWith (fun a b => a ^^^ b.rotateLeft 1) (turned 4 sums) (turned 1 sums)
  (planes s).flatMap (List.zipWith (· ^^^ ·) near)

/-- The lanes move along one closed walk over the 24 places but the first, each one step, turned by the triangular number of its
step (rho and pi together). -/
def walkLanes : Nat → Nat → Nat → Nat → Word → List Word → List Word
  | 0, _, _, _, _, s => s
  | n + 1, x, y, k, moving, s =>
    let dest := y + 5 * ((2 * x + 3 * y) % 5)
    walkLanes n y ((2 * x + 3 * y) % 5) (k + 1) (s.getD dest 0) (s.set dest (moving.rotateLeft (k * (k + 1) / 2 % 64)))

/-- Each plane is combined with itself turned by one and by two (chi). -/
def mixRows (s : List Word) : List Word :=
  (planes s).flatMap (fun p => List.zipWith (· ^^^ ·) p (List.zipWith (fun a b => ~~~a &&& b) (turned 1 p) (turned 2 p)))

/-- One step of the feedback register that gives the round constants. -/
def stepRegister (r : Nat) : Nat := if 128 ≤ r then Nat.xor (2 * r) 0x171 else 2 * r

/-- A round constant (iota): the register's next bits at places 0, 1, 3, 7, 15, 31 and 63, and the register after them. -/
def roundMarks : Nat → Nat → Nat → Nat × Nat
  | 0, _, r => (0, r)
  | n + 1, place, r =>
    let rest := roundMarks n (2 * place + 1) (stepRegister r)
    (r % 2 * 2 ^ place + rest.1, rest.2)

/-- Rounds of the permutation from a state of the register. -/
def keccakRounds : Nat → Nat → List Word → List Word
  | 0, _, s => s
  | n + 1, r, s =>
    let t := mixColumns s
    let marks := roundMarks 7 0 r
    keccakRounds n marks.2 ((mixRows (walkLanes 24 1 0 1 (t.getD 1 0) t)).modifyHead (· ^^^ word marks.1))

/-- The permutation: 24 rounds. -/
def keccakF (s : List Word) : List Word := keccakRounds 24 1 s

/-- Absorbing one block of the rate, 136 bytes. -/
def absorb (a : List Word) (blk : List Byte) : List Word :=
  keccakF ((List.range 25).map (fun i =>
    if i < 17 then a.getD i 0 ^^^ word (leNat ((blk.drop (8 * i)).take 8)) else a.getD i 0))

/-- The padding of SHAKE: suffix 1111, then 10*1. -/
def shakePad (bs : List Byte) : List Byte :=
  let r := 136 - bs.length % 136
  if r = 1 then bs ++ [0x9F] else bs ++ [0x1F] ++ List.replicate (r - 2) 0 ++ [0x80]

/-- Absorbing `n` blocks. -/
def absorbAll : Nat → List Word → List Byte → List Word
  | 0, a, _ => a
  | n + 1, a, bs => absorbAll n (absorb a (bs.take 136)) (bs.drop 136)

/-- Squeezing `n` blocks of the rate. -/
def squeeze : Nat → List Word → List Byte
  | 0, _ => []
  | n + 1, a => (a.take 17).flatMap (fun w => leBytes 8 w.toNat) ++ squeeze n (keccakF a)

/-- The first `n` bytes of SHAKE256. -/
def shake256 (n : Nat) (bs : List Byte) : List Byte :=
  let p := shakePad bs
  (squeeze (n / 136 + 1) (absorbAll (p.length / 136) (List.replicate 25 0) p)).take n

end Sys2Proof.Machine
end

