-- ==== Sys2Proof/Machine/Access.lean ====
section
/-! DEFINITION. Access: translation (R104 to R107, R137), reads and writes at the home slice with the comparisons that
watches and park slots make there (R94, R154, R166), K's L1 (R99), host lines (R109, R118), poison (R363), the record
rings (R336, R351, R352) and capture (R369). -/

namespace Sys2Proof.Machine

/-! ## Translation -/

/-- A leaf entry, decoded (R104). -/
structure Leaf where
  ea : Nat
  word : Nat
  size : Nat
  pbase : Nat
  deriving DecidableEq, Repr

/-- Page sizes by code (R105). -/
def pageBytes (code : Nat) : Nat :=
  2 ^ ([12, 14, 16, 18, 20, 21, 22, 24, 26, 28, 30, 32].getD code 12)

/-- SIZE codes that may stand at a level (R105). -/
def sizeAtLevel (level code : Nat) : Bool :=
  if level = 0 then decide (code ≤ 6) else if level = 1 then decide (7 ≤ code) && decide (code ≤ 11) else false

/-- A leaf entry is malformed (R104, R105). -/
def leafMalformed (e level : Nat) : Bool :=
  fld e 58 6 != 0 || !sizeAtLevel level (fld e 8 4) || fld e 56 2 == 3

/-- A table entry is malformed (R104, R105). -/
def tableMalformed (e level : Nat) : Bool := level == 0 || fld e 2 12 != 0 || fld e 52 12 != 0

/-- Whether a sector of memory is poisoned (R363). -/
def Mach.poisoned (m : Mach) (pa n : Nat) : Option Nat :=
  m.dev.pkg.poison.find? (fun s => decide (s * 32 < pa + n) && decide (pa < s * 32 + 32))

/-- A byte as accesses for a partition find it at their home slice: a line of host memory that is held there gives it (R94,
R107). -/
def Mach.homeByte (m : Mach) (part : Option Nat) (pa : Nat) : Byte :=
  match (if isHostMem pa then tfind (m.dev.part (m.dev.lineOwner part)).hostLines (pa / 64) else none) with
  | some l => if l.valid.getD (pa % 64) false then l.data.getD (pa % 64) 0 else m.byte pa
  | none => m.byte pa

/-- An access may not be made now for the host's sake: the host holds an HBM line of it, so a back-invalidate snoop must be
answered first (R342), or it is to host memory and the host port has no trained module and carries nothing (R343). -/
def Mach.hostHolds (m : Mach) (pa n : Nat) : Bool :=
  (isHbm pa && m.dev.pkg.hostHeld.any (fun l => decide (l * 64 < pa + n) && decide (pa < l * 64 + 64))) ||
    (isHostMem pa && m.dev.pkg.mup == 0)

/-- An atomic of some sequencer has read these bytes and not yet written them: no other write, and no other atomic, comes between
(R128, Atomicity). -/
def Mach.halfDone (m : Mach) (pa n : Nat) : Bool :=
  m.dev.banks.any (fun k => [k.2.k, k.2.l, k.2.x, k.2.d].any (fun s => s.accs.any (fun a =>
    a.half && decide (a.pa < pa + n) && decide (pa < a.pa + a.n))))

/-- A write of bytes may not be performed now (R128, R342). -/
def Mach.writeHeld (m : Mach) (pa n : Nat) : Bool := m.hostHolds pa n || m.halfDone pa n

/-- A table entry as a walk reads it: one access of eight bytes through its home slice (R107). A read of a table in host memory
leaves no line there (log 91). -/
def Mach.tableEntry (m : Mach) (part ea : Nat) : Nat :=
  leNat ((List.range 8).map (fun i => m.homeByte (some part) (ea + i)))

/-- Adding to a list of bounded length; the victim is left to the part (R106). -/
def pushCapped {α : Type} (cap pick : Nat) (l : List α) (v : α) : List α :=
  if l.length < cap then v :: l else v :: l.eraseIdx (Config.freeNat pick % cap)

/-- A walk of the levels given, from a table (R105, R107): it waits where the host holds the line of an entry (R342). Entries of levels 3 to 1 come from the core's cache of table
entries where it holds them (R106). -/
def Mach.walk (m : Mach) (core : Option Nat) (part va : Nat) : List Nat → Nat → Mach × Except TransErr Leaf
  | [], _ => (m, .error (.page false false))
  | l :: ls, tbl =>
    let ea := tbl + 8 * fld va (12 + 11 * l) 11
    let cached := match core with
      | some c => if l = 0 then none else ((m.core c).tcache.find? (fun (t : Nat × Nat × Nat) => t.1 == part && t.2.1 == ea)).map
          (fun (t : Nat × Nat × Nat) => t.2.2)
      | none => none
    let e := cached.getD (m.tableEntry part ea)
    match (if cached.isNone then m.poisoned ea 8 else none) with
    | some s => (m, .error (.eccu (s * 32)))
    | none =>
      if cached.isNone && m.hostHolds ea 8 then (m, .error .held)
      else if !bitOf e 0 then (m, .error (.page false false))
      else if bitOf e 1 then
        if leafMalformed e l then (m, .error (.page false true))
        else if bitOf e 7 then (m, .error (.page true false))
        else
          let sz := pageBytes (fld e 8 4)
          (m, .ok { ea := ea, word := e, size := fld e 8 4, pbase := fld e 12 40 * 2 ^ 12 / sz * sz })
      else if tableMalformed e l then (m, .error (.page false true))
      else
        let m' := match core with
          | some c =>
            if cached.isNone then
              m.modCore c (fun k => { k with tcache := pushCapped 64 m.dev.ticks k.tcache (part, ea, e) })
            else m
          | none => m
        Mach.walk m' core part va ls (fld e 12 40 * 2 ^ 12)

/-- A walk from the partition's root (R104, R335). -/
def Mach.walkRoot (m : Mach) (core : Option Nat) (part va : Nat) : Mach × Except TransErr Leaf :=
  m.walk core part va [3, 2, 1, 0] (m.dev.part part).troot

/-- A frame that a partition's leaf may name: its pseudo-channel groups, its host window, its peer window (R105, R358). -/
def Dev.frameOk (d : Dev) (part pa ca : Nat) : Bool :=
  if isHbm pa then d.groupOwner (groupOf pa) == some part
  else if isHostMem pa then true
  else if isPeer pa then
    fld pa 48 2 == 0 && ca != 2 && bitOf (tget (0 : Word) d.pkg.nodes (fld pa 40 8)).toNat (16 + part)
  else false

/-- The key of a plot: partition and 16 KiB page number (R135). -/
def plotKey (part va : Nat) : Nat := part * 2 ^ 42 + va / 2 ^ 14 % 2 ^ 42

/-- The frame that a task's view gives a plot (none: the leaf's, for the published version), with whether the task may
write it (R135 to R137). -/
def Dev.viewOf (d : Dev) (gang : Option Nat) (part va : Nat) : Option (Option Nat × Bool) :=
  match gang with
  | none => none
  | some g =>
    match tfind d.gangs g with
    | none => none
    | some t =>
      match tfind t.view (plotKey part va), tfind d.plots (plotKey part va) with
      | some i, some pl => (pl.versions[i]?).map (fun v =>
          (if i = pl.published then none else some v.frame, t.viewWrite.contains (plotKey part va)))
      | _, _ => none

/-- A translation's result. -/
structure Xlat where
  pa : Nat
  ca : Nat
  pin : Bool
  page : Nat
  size : Nat
  deriving DecidableEq, Repr, Inhabited

/-- The permission a kind needs (R105). -/
def TlbEnt.allows (e : TlbEnt) (kind : Kind) : Bool :=
  match kind with
  | .read => e.r
  | .write => e.w
  | .atomic => e.r && e.w
  | .exec => e.x

/-- An entry's translation of an address. -/
def TlbEnt.xlat (e : TlbEnt) (va : Nat) : Xlat :=
  { pa := e.pbase + (va - e.vbase), ca := e.ca, pin := e.pin, page := e.pbase, size := e.size }

/-- The entry a leaf gives, with the view's frame in place of the leaf's where there is one (R137). -/
def leafEntry (part : Nat) (task : Option Nat) (va : Nat) (lf : Leaf) (view : Option (Option Nat × Bool)) : TlbEnt :=
  let size := match view with | some _ => Nat.min lf.size 1 | none => lf.size
  let vbase := va / pageBytes size * pageBytes size
  { part := part, task := task, vbase := vbase, size := size,
    pbase := match view with | some (some f, _) => f + vbase % pageBytes 1 | _ => lf.pbase + vbase % pageBytes lf.size,
    r := bitOf lf.word 2, w := bitOf lf.word 3 && (match view with | some (_, w) => w | none => true),
    x := bitOf lf.word 4, ca := fld lf.word 56 2, pin := bitOf lf.word 5 }

/-- The checks of R105 on a leaf that is present: partition tag, W with X, and the frame. -/
def Dev.leafOk (d : Dev) (part : Nat) (lf : Leaf) : Bool :=
  fld lf.word 52 4 == part && !(bitOf lf.word 3 && bitOf lf.word 4) && d.frameOk part lf.pbase (fld lf.word 56 2)

/-- Whether an entry serves an address (R106, R137). -/
def TlbEnt.serves (e : TlbEnt) (part : Nat) (task : Option Nat) (va : Nat) : Bool :=
  e.part == part && e.task == task && decide (e.vbase ≤ va) && decide (va < e.vbase + pageBytes e.size)

/-- The entry of a core's translation unit that serves an address: L's micro-TLB is consulted first (R106). -/
def Mach.tlbHit (m : Mach) (core part : Nat) (tag : Option Nat) (micro : Bool) (va : Nat) : Option TlbEnt :=
  match (if micro then (m.core core).utlb.find? (fun e => e.serves part tag va) else none) with
  | some e => some e
  | none => (m.core core).tlb.find? (fun e => e.serves part tag va)

/-- Translate(va, kind) for partition `part` where the core's translation unit holds the address; none where it must walk
(R105, R106). `tag` names the task where the address lies in a plot of its view (R137). -/
def Mach.lookup (m : Mach) (core part : Nat) (tag : Option Nat) (micro : Bool) (va : Nat) (kind : Kind) :
    Option (Mach × Except TransErr Xlat) :=
  if 2 ^ 56 ≤ va then some (m, .error .prot)
  else
    match m.tlbHit core part tag micro va with
    | none => none
    | some e =>
      let m' := if micro && !((m.core core).utlb.any (fun e => e.serves part tag va)) then
          m.modCore core (fun k => { k with utlb := pushCapped 32 m.dev.ticks k.utlb e }) else m
      some (m', if e.allows kind then .ok (e.xlat va) else .error .prot)

/-- A walk for an address that the core's translation unit does not hold fills it (R105, R106). -/
def Mach.walkFill (m : Mach) (core part : Nat) (tag : Option Nat) (view : Option (Option Nat × Bool)) (micro : Bool)
    (va : Nat) : Mach × Except TransErr TlbEnt :=
  match m.walkRoot (some core) part va with
  | (m', .error e) => (m', .error e)
  | (m', .ok lf) =>
    if !(m'.dev.leafOk part lf) then (m', .error .prot)
    else
      let e := leafEntry part tag va lf view
      (m'.modCore core (fun k =>
        { k with tlb := pushCapped 1024 m'.dev.ticks k.tlb e,
                 utlb := if micro then pushCapped 32 m'.dev.ticks k.utlb e else k.utlb }), .ok e)

/-- Translate(va, kind) with a walk where it is needed, as an engine's access does it in its own time (R105, R106); `gang` and
`task` give the view (R137). -/
def Mach.translate (m : Mach) (core part : Nat) (gang task : Option Nat) (micro : Bool) (va : Nat) (kind : Kind) :
    Mach × Except TransErr Xlat :=
  let view := m.dev.viewOf gang part va
  let tag := if view.isSome then task else none
  match m.lookup core part tag micro va kind with
  | some r => r
  | none =>
    match m.walkFill core part tag view micro va with
    | (m', .error e) => (m', .error e)
    | (m', .ok e) => (m', if e.allows kind then .ok (e.xlat va) else .error .prot)

/-- Translation by the device itself, through the leaf and no core's TLB: dependence unit, graph walker, Ranger, peers
(R132, R360, R378). -/
def Mach.translateLeaf (m : Mach) (part va : Nat) (kind : Kind) : Except TransErr Xlat :=
  if 2 ^ 56 ≤ va then .error .prot
  else
    match (m.walkRoot none part va).2 with
    | .error e => .error e
    | .ok lf =>
      if !(m.dev.leafOk part lf) then .error .prot
      else
        let e := leafEntry part none va lf none
        if e.allows kind then .ok (e.xlat va) else .error .prot

/-! ## Host memory lines -/

/-- What the host does comes over its port: one with no trained module carries nothing (R343). -/
def Mach.fromHost (m : Mach) (act : Mach → Mach) : Mach := if m.dev.pkg.mup = 0 then m else act m

/-- A line that holds nothing yet (R96). -/
def HostLine.fresh (ca : Nat) : HostLine :=
  { data := List.replicate 64 0, valid := List.replicate 64 false, dirty := List.replicate 64 false, ca := ca, writers := [] }

/-- A byte of a line lies in one of the `n` bytes from offset `o`. -/
def inRun (o n i : Nat) : Bool := decide (o ≤ i) && decide (i < o + n)

/-- A read of `n` bytes at offset `o`: what its sectors lack comes from the host (R96). -/
def HostLine.fill (l : HostLine) (m : Mach) (line o n : Nat) : HostLine :=
  let want := fun (i : Nat) => inRun (o / 32 * 32) ((o + n + 31) / 32 * 32 - o / 32 * 32) i && !(l.valid.getD i false)
  { l with data := (List.range 64).map (fun i => if want i then m.byte (line * 64 + i) else l.data.getD i 0),
           valid := (List.range 64).map (fun i => want i || l.valid.getD i false) }

/-- A write of bytes at offset `o` (R96). -/
def HostLine.write (l : HostLine) (o : Nat) (bs : List Byte) (w : Option Writer) : HostLine :=
  let hit := inRun o bs.length
  { l with data := (List.range 64).map (fun i => if hit i then bs.getD (i - o) 0 else l.data.getD i 0),
           valid := (List.range 64).map (fun i => hit i || l.valid.getD i false),
           dirty := (List.range 64).map (fun i => hit i || l.dirty.getD i false),
           writers := l.writers ++ w.toList.filter (fun x => !(l.writers.contains x)) }

/-- The line of host memory as the partition's home slice holds it (R94, R109). -/
def Mach.hostLine (m : Mach) (part : Option Nat) (ca pa : Nat) : HostLine :=
  (tfind (m.dev.part (m.dev.lineOwner part)).hostLines (pa / 64)).getD (.fresh ca)

/-- Keeping a line of host memory in its home slice. -/
def Mach.setHostLine (m : Mach) (part : Option Nat) (pa : Nat) (l : HostLine) : Mach :=
  m.modPart (m.dev.lineOwner part) (fun p => { p with hostLines := tput p.hostLines (pa / 64) l })

/-- A write reaches the host: the copies that other home slices hold under CXL.cache are snooped away (R94, R109). `keep` is
the owner of the line it comes from. -/
def Mach.hostPut (m : Mach) (keep : Nat) (pa : Nat) (bs : List Byte) : Mach :=
  let others := tmap (fun o (p : Part) => if o = keep then p
    else { p with hostLines := p.hostLines.filter (fun l => !(l.1 == pa / 64 && l.2.ca == 2)) }) m.dev.parts
  { mem0 := m.mem0, dev := { m.dev with parts := others }, writes := (pa, bs) :: m.writes }

/-- Writing back the changed bytes of a host line (R96, R118). -/
def HostLine.flush (l : HostLine) (m : Mach) (keep line : Nat) : Mach :=
  (List.range 64).foldl (fun m i =>
    if l.dirty.getD i false then m.hostPut keep (line * 64 + i) [l.data.getD i 0] else m) m

/-- The FENCEs of a bank no longer wait for a line (R123). -/
def Bank.fenceLineDone (k : Bank) (m : Mach) (line : Nat) : Bank :=
  let part := match k.task with | some t => t.part | none => 0
  k.mapSeqs (fun _ s => { s with
    accs := m.trimAccs part (s.accs.map (fun a => { a with lines := a.lines.filter (fun l => l != line) })) })

/-- A line that FENCEs of its owner's tasks waited for has been written back (R123). -/
def Mach.fenceLineDone (m : Mach) (owner line : Nat) : Mach :=
  let ours := fun (k : Bank) => m.dev.lineOwner (k.task.map (fun t => t.part)) == owner
  { m with dev := { m.dev with banks := tmap (fun _ k => if ours k then k.fenceLineDone m line else k) m.dev.banks } }

/-- A dirty line that a List's slices hold is written back to the host and stays clean (R118). -/
def Mach.flushLine (m : Mach) (owner line : Nat) : Mach :=
  match tfind (m.dev.part owner).hostLines line with
  | none => m
  | some l =>
    ((l.flush m owner line).modPart owner (fun p =>
      { p with hostLines := tput p.hostLines line { l with dirty := List.replicate 64 false, writers := [] } })).fenceLineDone
        owner line

/-- The write-back of a line as a partition's accesses find it. -/
def Mach.writebackLine (m : Mach) (part : Option Nat) (line : Nat) : Mach := m.flushLine (m.dev.lineOwner part) line

/-! ## Reads and writes at the home slice -/

/-- For whom a write is made (R94, R156): the issuer's die (4 for none), the partition, the depth of the write, whether watches
compare it (R154), and the task's access where a task makes it (R49, R124). -/
structure By where
  die : Nat
  part : Option Nat
  depth : Nat
  compare : Bool
  writer : Option Writer
  /-- RPLY of the writing task's launch, and its partition (R368). -/
  rply : Option (Nat × Bool)
  deriving Repr

/-- The device's own accesses: depth 1, for no partition (R154, R156). -/
def By.device : By := { die := 4, part := none, depth := 1, compare := true, writer := none, rply := none }

/-- The same access's second part, which the hot-page tracker has counted already (R110). -/
def By.counted (b : By) : By := { b with die := 4 }

/-- Counting an access for the hot-page tracker (R110), by 4 KiB frame and die of the issuer. -/
def Mach.countAccess (m : Mach) (die pa : Nat) : Mach :=
  if isHbm pa && decide (die < 4) && (m.dev.die (hbmDie pa)).hen then
    m.modDie (hbmDie pa) (fun d => { d with counts := tput d.counts (pa / 4096 * 4 + die) (tget 0 d.counts (pa / 4096 * 4 + die) + 1) })
  else m

/-! ## Caps -/

/-- The host port as a link; links 0 to 15 are the peer ports (R354). -/
def hostLink : Nat := 16

/-- The bridge from one die to another as a link, in that direction (R354). -/
def bridgeLink (src dst : Nat) : Nat := 17 + 3 * src + (if dst < src then dst else dst - 1)

/-- The cap of a partition at a link (R353, R354). -/
def Part.cap (p : Part) (link : Nat) : Nat :=
  if link < 16 then p.xcap else if link = hostLink then p.hcap else p.dcap

/-- The transfer slots of a link that a partition has used in the window (R354). -/
def Pkg.slotsUsed (p : Pkg) (link part : Nat) : Nat := tget 0 (tget [] p.links link) part

/-- Using slots of a link. -/
def Pkg.useSlots (p : Pkg) (link part n : Nat) : Pkg :=
  { p with links := tput p.links link (tput (tget [] p.links link) part (p.slotsUsed link part + n)) }

/-- A partition has `n` slots of a link left in the window (R354). -/
def Dev.hasCredit (d : Dev) (link part n : Nat) : Bool :=
  decide (d.pkg.slotsUsed link part + n ≤ 16 * ((d.part part).cap link + 1))

/-- The links at whose ingress an access of a core stands (R354): the bridge to the die of its home slice, and the host port
where it is to reach the host. An access of the device itself, which no cap binds, has none. -/
def Dev.linksOf (d : Dev) (by_ : By) (pa : Nat) (host : Bool) : List Nat :=
  if 4 ≤ by_.die then []
  else
    let die := if isHbm pa then hbmDie pa else d.home pa by_.part / 80
    (if by_.die = die then [] else [bridgeLink by_.die die]) ++ (if host then [hostLink] else [])

/-- Bytes that a read wants of a line of host memory are not held (R96). -/
def HostLine.lacks (l : HostLine) (o n : Nat) : Bool :=
  (List.range 64).any (fun i => inRun (o / 32 * 32) ((o + n + 31) / 32 * 32 - o / 32 * 32) i && !(l.valid.getD i false))

/-- The links of a read. -/
def Mach.readLinks (m : Mach) (by_ : By) (ca pa n : Nat) : List Nat :=
  m.dev.linksOf by_ pa (isHostMem pa && (ca == 1 || (m.hostLine by_.part ca pa).lacks (pa % 64) n))

/-- The links of a write. -/
def Mach.writeLinks (m : Mach) (by_ : By) (ca sc pa : Nat) : List Nat :=
  m.dev.linksOf by_ pa (isHostMem pa && (ca != 0 || sc == 5))

/-- An access is over its cap at one of its links (R354). -/
def Mach.overCap (m : Mach) (by_ : By) (links : List Nat) : Bool :=
  match by_.part with
  | some p => links.any (fun l => !(m.dev.hasCredit l p 1))
  | none => false

/-- An access takes its slots. -/
def Mach.useLinks (m : Mach) (by_ : By) (links : List Nat) (n : Nat) : Mach :=
  match by_.part with
  | some p => if links.isEmpty then m else m.modPkg (fun k => links.foldl (fun k l => k.useSlots l p n) k)
  | none => m

/-- A read may not be performed now (R342, R354). -/
def Mach.readHeld (m : Mach) (by_ : By) (ca pa n : Nat) : Bool :=
  m.hostHolds pa n || m.overCap by_ (m.readLinks by_ ca pa n)

/-- A write may not be performed now (R128, R342, R354). -/
def Mach.storeHeld (m : Mach) (by_ : By) (ca sc pa n : Nat) : Bool :=
  m.writeHeld pa n || m.overCap by_ (m.writeLinks by_ ca sc pa)

/-- Reading bytes within one line or sector at the home slice (R94, R96, R109, R118). -/
def Mach.readPhys (m0 : Mach) (by_ : By) (ca pa n : Nat) : Mach × List Byte :=
  let m := m0.useLinks by_ (m0.readLinks by_ ca pa n) 1
  if isHostMem pa && ca != 1 then
    let l := (m.hostLine by_.part ca pa).fill m (pa / 64) (pa % 64) n
    (m.setHostLine by_.part pa l, (List.range n).map (fun i => l.data.getD (pa % 64 + i) 0))
  else (m.countAccess by_.die pa, m.bytes pa n)

/-- The offsets at which new bytes differ from those they replace. -/
def Mach.changed (m : Mach) (pa : Nat) (bs : List Byte) : List Nat :=
  (List.range bs.length).filter (fun i => m.byte (pa + i) != bs.getD i 0)

/-- The lowest changed offset of a write within a watch's range, from the range's start (R154, R155). -/
def watchHit (w : Watch) (pa : Nat) (ch : List Nat) : Option Nat :=
  (ch.find? (fun i => decide (w.pbase * 32 ≤ pa + i) && decide (pa + i < w.pbase * 32 + 2 ^ (w.size + 5)))).map
    (fun i => pa + i - w.pbase * 32)

/-- The lead entry of a watch, wherever its range has moved (R152, R164): its slice, its entry number and the entry. -/
def Dev.leadOf (d : Dev) (h : Nat) : Option (Nat × Nat × Watch) :=
  d.slices.findSome? (fun s => (s.2.watches.find? (fun e => e.2.lead && e.2.leadh == h)).map (fun e => (s.1, e.1, e.2)))

/-- A counted write goes to the lead entry of its watch (R157). -/
def Mach.forward (m : Mach) (h addr depth : Nat) : Mach :=
  match m.dev.leadOf h with
  | some (sl, _, _) =>
    m.modSlice sl (fun s => { s with arrivals := s.arrivals ++ [{ handle := h, addr := addr, depth := depth }] })
  | none => m

/-- A watch's partition replays: its writes are not compared (R371). A task's write goes by the PCAPT of its launch (R368). -/
def Dev.replays (d : Dev) (by_ : By) (part : Nat) : Bool :=
  match by_.rply with
  | some (p, v) => if p = part then v else bitOf (d.part part).pcaptRun.toNat 1
  | none => bitOf (d.part part).pcaptRun.toNat 1

/-- Comparing a write against the armed watches of its home slice; counted writes go to their lead entries (R154, R157).
Under replay the partition's watches are not compared (R371). -/
def Mach.compareWatches (m : Mach) (by_ : By) (slice pa : Nat) (ch : List Nat) : Mach :=
  if !by_.compare || ch.isEmpty then m
  else
    (m.slice slice).watches.foldl (fun m e =>
      let w := e.2
      if !w.arm || m.dev.replays by_ w.part then m
      else
        match watchHit w pa ch with
        | none => m
        | some a => m.forward w.leadh a by_.depth) m

/-- The bound of a parked WAITA has passed in K's CYC (R165, R166). -/
def Waita.expired (w : Waita) (cyc : Word) : Bool := decide (w.bound ≤ (cyc.toNat + (2 ^ 64 - w.since)) % 2 ^ 64)

/-- A parked WAITA of a bank gets its outcome: the first event decides it, and a bound that had passed before comes first
(R166). A bank that switched out under the park rule becomes ready (R173). -/
def Mach.endPark (m : Mach) (b code : Nat) : Mach :=
  (m.modSeq b .K (fun s => { s with waita := s.waita.map (fun w =>
    if w.outcome.isNone then { w with outcome := some (if w.expired s.cyc then 2 else code) } else w) })).unpark b

/-- A changing write wakes the WAITAs parked on the word with outcome CHANGE (R166, R167). -/
def Mach.wakeParks (m : Mach) (slice pa : Nat) (ch : List Nat) : Mach :=
  (m.slice slice).parks.foldl (fun m e =>
    if ch.any (fun i => decide (e.2.pa ≤ pa + i) && decide (pa + i < e.2.pa + e.2.n)) then m.endPark e.2.bank 1 else m) m

/-- Splitting a run of bytes at boundaries of `g` bytes (R116). -/
def splitAt : Nat → Nat → Nat → List Byte → List (Nat × List Byte)
  | 0, _, _, _ => []
  | fuel + 1, g, pa, bs =>
    if bs.isEmpty then []
    else (pa, bs.take (g - pa % g)) :: splitAt fuel g (pa + (g - pa % g)) (bs.drop (g - pa % g))

/-- Splitting a run of bytes at sector boundaries. -/
def splitSectors (pa : Nat) (bs : List Byte) : List (Nat × List Byte) := splitAt (bs.length + 1) 32 pa bs

/-- Bytes reach a sector of HBM: all 32 clear its poison, and fewer leave a poisoned sector as it is (R363). -/
def Mach.putSector (m : Mach) (pa : Nat) (bs : List Byte) : Mach :=
  if (m.poisoned pa bs.length).isSome && bs.length != 32 then m
  else
    (if bs.length = 32 then m.modPkg (fun p => { p with poison := p.poison.filter (fun s => s != pa / 32) }) else m).put pa bs

/-- Bytes reach HBM. -/
def Mach.putHbm (m : Mach) (pa : Nat) (bs : List Byte) : Mach :=
  (splitSectors pa bs).foldl (fun m w => m.putSector w.1 w.2) m

/-- The offsets at which a write changes HBM (R154): it performs nothing on a poisoned sector that it covers in part
(R363). -/
def Mach.changes (m : Mach) (pa : Nat) (bs : List Byte) : List Nat :=
  (splitSectors pa bs).flatMap (fun w =>
    if (m.poisoned w.1 w.2.length).isSome && w.2.length != 32 then []
    else (m.changed w.1 w.2).map (fun i => w.1 - pa + i))

/-- A write of bytes within one interleave unit of HBM (R94): watches and park slots of its home slice compare the bytes that
it changes, once for the write (R154, R166). -/
def Mach.writeUnit (m : Mach) (by_ : By) (pa : Nat) (bs : List Byte) : Mach :=
  let slice := m.dev.home pa by_.part
  let ch := m.changes pa bs
  ((m.compareWatches by_ slice pa ch).wakeParks slice pa ch).putHbm pa bs

/-- The physical address and the value of a gang's gate word, where the dependence unit can read it (R140). -/
def Mach.gateWord (m : Mach) (g : Gang) : Option (Nat × Nat) :=
  match m.translateLeaf g.part g.gate .read with
  | .error _ => none
  | .ok x =>
    if isPeer x.pa || (isHbm x.pa && (m.poisoned x.pa 8).isSome) then none
    else some (x.pa, leNat ((List.range 8).map (fun i => m.homeByte (some g.part) (x.pa + i))))

/-- The gate of a gang is still to be decided by its gate word (R140). -/
def Gang.gateOpen (g : Gang) : Bool :=
  g.gated && g.stage == .retired && g.gateLatch.isNone && g.members.all (fun t => t.2.failed.isNone)

/-- Before a store reaches a gate word whose gate is open, the value that stands there has been read (R140): the first one that
is not zero decides. -/
def Mach.latchGates (m : Mach) (pa n : Nat) : Mach :=
  let upd := fun (_ : Nat) (g : Gang) =>
    match (if g.gateOpen then m.gateWord g else none) with
    | some (a, v) => if v != 0 && decide (a < pa + n) && decide (pa < a + 8) then { g with gateLatch := some v } else g
    | none => g
  { m with dev := { m.dev with gangs := tmap upd m.dev.gangs } }

/-- A write of bytes at the home slice or at the host (R118): SC 5 writes a CA 00 host line back at once. -/
def Mach.writePhys (m0 : Mach) (by_ : By) (ca sc pa : Nat) (bs : List Byte) : Mach :=
  let m := (m0.latchGates pa bs.length).useLinks by_ (m0.writeLinks by_ ca sc pa) 1
  if isHostMem pa then
    if ca = 1 then m.hostPut 17 pa bs
    else
      let l := (m.hostLine by_.part ca pa).write (pa % 64) bs by_.writer
      let m1 := m.setHostLine by_.part pa l
      if ca = 2 ∨ sc = 5 then m1.writebackLine by_.part (pa / 64) else m1
  else (splitAt (bs.length + 1) 4096 pa bs).foldl (fun m w => m.writeUnit by_ w.1 w.2) (m.countAccess by_.die pa)

/-- A write of the device's own records, straight to memory at `.sys` (R336, R351, R51). -/
def Mach.writeOwn (m : Mach) (pa : Nat) (bs : List Byte) : Mach := m.writePhys .device 1 5 pa bs

/-- Poison is copied unchanged (R363): the poisoned sectors of a run come to stand at another. -/
def Mach.copyPoison (m : Mach) (src dst size : Nat) : Mach :=
  m.modPkg (fun p =>
    let kept := p.poison.filter (fun s => !(decide (dst ≤ s * 32) && decide (s * 32 < dst + size)))
    { p with poison := kept ++ (p.poison.filter (fun s => decide (src ≤ s * 32) && decide (s * 32 < src + size))).map (fun s =>
        s - src / 32 + dst / 32) })

/-- A frame takes the bytes of another, with their poison. -/
def Mach.copyFrame (m : Mach) (src dst size : Nat) : Mach := (m.put dst (m.bytes src size)).copyPoison src dst size

/-- For whom a page or a version is copied: the partition that owns it, from the die of its frame (R354). -/
def By.copier (part src : Nat) : By := { By.device with die := hbmDie src, part := some part }

/-- A copy to a frame of another die waits for credit at the bridge (R354). -/
def Mach.copyHeld (m : Mach) (part src dst : Nat) : Bool :=
  m.overCap (.copier part src) (m.dev.linksOf (.copier part src) dst false)

/-- A copy between the frames of a partition, a transfer slot for each sector where it crosses a bridge (R354). -/
def Mach.copyAcross (m : Mach) (part src dst size : Nat) : Mach :=
  (m.useLinks (.copier part src) (m.dev.linksOf (.copier part src) dst false) (size / 32)).copyFrame src dst size

/-! ## K's L1 -/

/-- Putting bytes into a line. -/
def lineWith (l : List (Option Byte)) (o : Nat) (bs : List Byte) : List (Option Byte) :=
  (List.range 64).map (fun i => if inRun o bs.length i then some (bs.getD (i - o) 0) else l.getD i none)

/-- Refreshing a valid L1 copy with bytes (R99). -/
def Mach.l1Refresh (m : Mach) (core pa : Nat) (bs : List Byte) : Mach :=
  match tfind (m.core core).l1 (pa / 64) with
  | none => m
  | some l => m.modCore core (fun k => { k with l1 := tput k.l1 (pa / 64) (lineWith l (pa % 64) bs) })

/-- Filling an L1 line of 4 ways by 256 sets; the victim is left to the part (R99). -/
def Mach.l1Fill (m : Mach) (core pa : Nat) (bs : List Byte) : Mach :=
  m.modCore core (fun k =>
    let set := k.l1.filter (fun e => e.1 % 256 == pa / 64 % 256)
    let k1 := if set.length < 4 || (tfind k.l1 (pa / 64)).isSome then k.l1
      else tdel k.l1 ((set.getD (Config.freeNat m.dev.ticks % 4) (0, [])).1)
    { k with l1 := tput k1 (pa / 64) (lineWith ((tfind k1 (pa / 64)).getD (List.replicate 64 none)) (pa % 64) bs) })

/-- Bytes of an L1 line, where it holds them all. -/
def CoreState.l1Bytes (k : CoreState) (pa n : Nat) : Option (List Byte) :=
  match tfind k.l1 (pa / 64) with
  | none => none
  | some l =>
    let bs := (l.drop (pa % 64)).take n
    if bs.all (fun b => b.isSome) then some (bs.map (fun b => b.getD 0)) else none

/-! ## Rings and interrupts -/

/-- Sending an MSI-X vector, or setting its pending bit while it is masked (R352). -/
def Mach.sendVector (m : Mach) (p v : Nat) : Mach :=
  m.modPart p (fun t =>
    if bitOf t.msixMask v then { t with msixPend := Nat.lor t.msixPend (2 ^ v) } else { t with msixSent := t.msixSent ++ [v] })

/-- The ring holds 2^size slots (R336, R349): the size above `cap` acts as `cap`. -/
def Ring.slots (r : Ring) (cap : Nat) : Nat := 2 ^ Nat.min r.lsize cap

/-- HEAD - TAIL modulo 2^32 (R336). -/
def Ring.used (r : Ring) : Nat := (r.head.toNat + 2 ^ 32 - r.tail.toNat) % 2 ^ 32

/-- The ring is full (R336, R351). -/
def Ring.full (r : Ring) (cap : Nat) : Bool := decide (r.slots cap ≤ r.used)

/-- Writing a logbook record of 28 bytes and its SEQ (R336, R352). Answers whether it was written. -/
def Mach.logPut (m : Mach) (p : Nat) (rec28 : List Byte) : Mach × Bool :=
  let r := (m.dev.part p).log
  if !r.en then (m, false)
  else if r.full 20 then
    (m.modPart p (fun t => { t with log := { t.log with ovf := Nat.min (t.log.ovf + 1) (2 ^ 32 - 1) } }), false)
  else
    let m1 := m.writeOwn (r.base + 32 * (r.head.toNat % r.slots 20)) (rec28 ++ leBytes 4 r.head.toNat)
    let m2 := m1.modPart p (fun t => { t with log := { t.log with head := t.log.head + 1 } })
    (if r.used = 0 then m2.sendVector p 1 else m2, true)

/-- The next slot of a logbook may not be written now: the host holds its line (R342), or an atomic is half performed there
(R128). -/
def Mach.logHeld (m : Mach) (p : Nat) : Bool :=
  let r := (m.dev.part p).log
  r.en && !(r.full 20) && m.writeHeld (r.base + 32 * (r.head.toNat % r.slots 20)) 32

/-- A logbook record is written; LOST is set where a captured one is lost (R368, R370). -/
def Mach.logNow (m : Mach) (p : Nat) (captured : Bool) (rec28 : List Byte) : Mach :=
  let r := m.logPut p rec28
  if captured && !r.2 then r.1.modPart p (fun t => { t with pcapt := t.pcapt ||| 4 }) else r.1

/-- A record for the logbook: it waits behind those that cannot be written yet (R342). -/
def Mach.logWrite (m : Mach) (p : Nat) (captured : Bool) (rec28 : List Byte) : Mach :=
  if m.logHeld p || !(m.dev.part p).logWait.isEmpty then
    m.modPart p (fun t => { t with logWait := t.logWait ++ [(captured, rec28)] })
  else m.logNow p captured rec28

/-- The oldest waiting record is written. -/
def Mach.logNext (m : Mach) (p : Nat) : Mach :=
  match (m.dev.part p).logWait with
  | [] => m
  | (captured, rec28) :: rest =>
    if m.logHeld p then m else (m.modPart p (fun t => { t with logWait := rest })).logNow p captured rec28

/-- The layout shared by RMARK and capture records (R340, R369). -/
def markRecord (value : Word) (aux kind pos taskId core ext : Nat) : List Byte :=
  leBytes 8 value.toNat ++ leBytes 4 aux ++ [0, 0, 0] ++ leBytes 1 kind ++ leBytes 4 pos ++ leBytes 4 taskId ++
    leBytes 2 core ++ leBytes 2 ext

/-- A capture record; LOST is set when it is lost (R368, R370). -/
def Mach.capture (m : Mach) (p : Nat) (value : Word) (aux kind pos taskId core ext : Nat) : Mach :=
  m.logWrite p true (markRecord value aux kind pos taskId core ext)

/-- The bytes of a fault record with its SEQ (R179). -/
def FaultRec.bytes (r : FaultRec) (seq : Nat) : List Byte :=
  leBytes 8 seq ++ leBytes 1 r.cause ++ leBytes 1 r.src ++ leBytes 1 r.access ++ leBytes 1 r.flags ++ leBytes 2 r.core ++
    leBytes 2 0 ++ leBytes 4 r.taskId ++ leBytes 4 r.pos ++ leBytes 8 r.va ++ leBytes 8 r.pa ++ leBytes 8 r.detail ++
    leBytes 4 r.gangId ++ leBytes 12 0

/-! ## Accesses for a task -/

/-- The gang of a bank's task. -/
def Bank.gang (k : Bank) : Option Nat := k.task.map (fun t => gangKey t.part t.gangId)

/-- For whom a bank's task writes: its die, its partition, and a depth one above its own (R156). -/
def Bank.by (k : Bank) (b : Nat) : By :=
  match k.task with
  | some t => { die := dieOf b, part := some t.part, depth := t.depth + 1, compare := true, writer := none, rply := some (t.part, t.rply) }
  | none => { die := dieOf b, part := none, depth := 1, compare := true, writer := none, rply := none }

/-- A write of a unit of the bank (R124): its access or command `id`. -/
def Bank.byUnit (k : Bank) (b unit id : Nat) : By :=
  { k.by b with writer := k.task.map (fun t => { task := t.key, unit := unit, id := id }) }

/-- The partition of a bank's task. -/
def Bank.part (k : Bank) : Nat :=
  match k.task with
  | some t => t.part
  | none => 0

/-- Translate for the acting task, in an engine's own time (R105, R137). -/
def Mach.xlate (m : Mach) (b : Nat) (micro : Bool) (va : Nat) (kind : Kind) : Mach × Except TransErr Xlat :=
  let k := m.bank b
  m.translate (coreOf b) k.part k.gang (k.task.map (fun t => t.taskId)) micro va kind

/-- The tag of the acting task's translations of an address (R137). -/
def Mach.tagOf (m : Mach) (b va : Nat) : Option Nat :=
  let k := m.bank b
  if (m.dev.viewOf k.gang k.part va).isSome then k.task.map (fun t => t.taskId) else none

/-- Translate for a word of a sequencer, without a walk. -/
def Mach.xlateWord (m : Mach) (b : Nat) (q : Seq) (va : Nat) (kind : Kind) : Option (Mach × Except TransErr Xlat) :=
  m.lookup (coreOf b) (m.bank b).part (m.tagOf b va) (q == .L) va kind

/-- The walk that a word of a running sequencer waits for is made (R44, R106): the translation unit holds the address from here
on, or the word is refused on its next clock. -/
def Mach.walkFor (m : Mach) (b : Nat) (q : Seq) : Mach :=
  let k := m.bank b
  match (k.seq q).walk with
  | none => m
  | some w =>
    if k.status != .running || w.refused.isSome then m
    else
      match m.walkFill (coreOf b) k.part (m.tagOf b w.va) (m.dev.viewOf k.gang k.part w.va) (q == .L) w.va with
      | (_, .error .held) => m
      | (m', .error e) => m'.modSeq b q (fun s => { s with walk := some { w with refused := some e } })
      | (m', .ok _) => m'.modSeq b q (fun s => { s with walk := none })

/-- A word's translation on its clock (R44, R105): with its result, or with the walk that holds it up. -/
def Mach.xlateIssue (m : Mach) (c : Ctx) (va : Nat) (kind : Kind) (k : Mach → Except TransErr Xlat → Act) : Act :=
  match m.xlateWord c.b c.q va kind with
  | some (m', r) => k m' r
  | none =>
    match c.s.walk with
    | some w =>
      if w.va = va ∧ w.kind = kind then
        match w.refused with
        | some e => k m (.error e)
        | none => .stall
      else .walk va kind
    | none => .walk va kind

/-- The trap that a refused translation raises (R105, R238). -/
def Ctx.transTrap (c : Ctx) (va : Nat) (kind : Kind) (e : TransErr) : TrapEnt :=
  match e with
  | .page mg mf => { c.trap .page with va := va, access := kind, migrating := mg, malformed := mf }
  | .prot | .held => { c.trap .prot with va := va, access := kind }
  | .eccu pa => { c.trap .eccu with va := va, access := kind, poison := true, pa := pa }

/-! ## Outbound peer requests -/

/-- The ports that reach a node and are up (R358, R359). -/
def Pkg.portsTo (p : Pkg) (node : Nat) : List Nat :=
  (List.range 16).filter (fun i => bitOf (tget (0 : Word) p.nodes node).toNat i && (tget .start p.ports i).up)

/-- Sending a flit on a port: it takes the next sequence number and stays until acknowledged (R357). -/
def Pkg.send (p : Pkg) (port : Nat) (f : Flit) : Pkg :=
  let t := tget .start p.ports port
  let g := { f with seq := t.nextSeq, ack := t.lastIn, port := port }
  { p with ports := tput p.ports port { t with nextSeq := (t.nextSeq + 1) % 4096, out := t.out ++ [g] } }

/-- The ports to a node on which a partition has credit for `n` flits (R354). -/
def Dev.creditPorts (d : Dev) (part node n : Nat) : List Nat := (d.pkg.portsTo node).filter (fun i => d.hasCredit i part n)

/-- Requests of a bank's task wait at the ingress: at the bridge to their home slice's die, or at the ports to their node where
some are up and the cap binds on each (R354, R359). -/
def Mach.capHeld (m : Mach) (b pa n : Nat) : Bool :=
  let k := m.bank b
  m.overCap (k.by b) (m.dev.linksOf (k.by b) pa false) ||
    (!(m.dev.pkg.portsTo (fld pa 40 8)).isEmpty && (m.dev.creditPorts k.part (fld pa 40 8) n).isEmpty)

/-- Sending a request of an access of a bank's task to the peer window (R358, R359): none where no port is up. -/
def Mach.sendRequest (m : Mach) (b unit id opc size fn pa skip len pos va : Nat) (data : List Byte) : Option Mach :=
  let part := (m.bank b).part
  let node := fld pa 40 8
  let credit := m.dev.creditPorts part node 1
  let ports := if credit.isEmpty then m.dev.pkg.portsTo node else credit
  if ports.isEmpty then none
  else
    let port := ports.getD (Config.freeNat m.dev.ticks % ports.length) 0
    let tag := m.dev.pkg.nextTag
    let task := match (m.bank b).task with | some t => t.taskId | none => 0
    some ((m.useLinks ((m.bank b).by b) (m.dev.linksOf ((m.bank b).by b) pa false) 1).modPkg (fun p0 =>
      let p := p0.useSlots port part 1
      { p.send port { port := port, part := part, seq := 0, ack := 0, srcn := Config.ownNode % 256, dstn := node, opc := opc,
                      size := size, tag := tag,
                      fn := fn, addr := pa % 2 ^ 40, data := data } with
        nextTag := (tag + 1) % 2 ^ 16,
        reqs := p.reqs ++
          [{ tag := tag, port := port, part := part, task := task, unit := unit, id := id, opc := opc, pa := pa,
             skip := skip, len := len, pos := pos, va := va }] }))

end Sys2Proof.Machine
end

