-- ==== Sys2Proof/Machine/Capture.lean ====
section
/-! DEFINITION. Capture: replay capture and replay of order-dependent inputs (R368 to R371). -/

namespace Sys2Proof.Machine

/-- A set entry names the plot of an address (R131). -/
def SetEnt.covers (e : SetEnt) (va : Nat) : Bool :=
  decide (e.base / 2 ^ 14 ≤ va / 2 ^ 14) && decide (va / 2 ^ 14 < e.base / 2 ^ 14 + e.nplot)

/-- An address lies in a plot of the gang's sets. -/
def Gang.covers (g : Gang) (va : Nat) : Bool := g.sets.any (fun e => e.covers va)

/-- The capture word that a bank's task runs under: PCAPT when its gang was accepted (R368). -/
def Mach.pcaptOf (m : Mach) (b : Nat) : Nat :=
  match (m.bank b).gang with
  | none => 0
  | some g => match tfind m.dev.gangs g with
    | some t => t.pcapt.toNat
    | none => 0

/-- Whether bytes at an address are declared by the bank's task (R370). -/
def Mach.declared (m : Mach) (b va : Nat) : Bool :=
  match (m.bank b).gang with
  | none => false
  | some g => match tfind m.dev.gangs g with
    | some t => t.covers va
    | none => false

/-- The slots of the replay source ring (R368). -/
def replaySlots (pcapt : Nat) : Nat := 2 ^ fld pcapt 3 5

/-- The address of a slot of the replay source ring. -/
def replaySlot (pcapt i : Nat) : Nat := fld pcapt 12 40 * 2 ^ 12 + 32 * i

/-- The TASKID that the captured run gave to the member of the same GANGID and rank (R371): from the gang's LAUNCH record,
whose TASKID is that of rank 0 (log 12), else the live one. -/
def Mach.capturedTask (m : Mach) (pcapt gangId rank taskId : Nat) : Nat :=
  match (List.range (replaySlots pcapt)).find? (fun i =>
      m.le (replaySlot pcapt i + 15) 1 == 3 && m.le (replaySlot pcapt i + 8) 4 == gangId) with
  | some i =>
    let t := m.le (replaySlot pcapt i + 20) 4 + rank
    if t < 2 ^ 32 then t else t - 2 ^ 32 + 1
  | none => taskId

/-- The next unconsumed record of a task and word (R371): its slot. -/
def Mach.nextReplay (m : Mach) (part pcapt taskId pos : Nat) : Option Nat :=
  (List.range (replaySlots pcapt)).find? (fun i =>
    (tfind (m.dev.part part).replayed i).isNone && m.le (replaySlot pcapt i + 20) 4 == taskId &&
      m.le (replaySlot pcapt i + 16) 4 == pos && decide (3 ≤ m.le (replaySlot pcapt i + 15) 1) &&
      decide (m.le (replaySlot pcapt i + 15) 1 ≤ 8))

/-- A record is consumed. -/
def Mach.consume (m : Mach) (part slot : Nat) : Mach :=
  m.modPart part (fun p => { p with replayed := tput p.replayed slot 1 })

/-- The captured task's number for a bank. -/
def Mach.replayTask (m : Mach) (b : Nat) : Nat :=
  match (m.bank b).task with
  | some t => m.capturedTask (m.pcaptOf b) t.gangId t.rank t.taskId
  | none => 0

/-- TASKID of a bank's task, 0 for none. -/
def Bank.taskId (k : Bank) : Nat := match k.task with | some t => t.taskId | none => 0

/-- Taking an input from the replay source: the recorded VALUE and AUX, or a MISMATCH record and nothing (R371). `kind` is
the KIND expected. -/
def Mach.replayInput (m : Mach) (b kind pos : Nat) (live : Word) : Mach × Option (Word × Nat) :=
  let pc := m.pcaptOf b
  let p := (m.bank b).part
  let miss := m.capture p live kind 9 pos (m.bank b).taskId (coreId b) 0
  match m.nextReplay p pc (m.replayTask b) pos with
  | none => (miss, none)
  | some i =>
    if m.le (replaySlot pc i + 15) 1 = kind then
      (m.consume p i, some (word (m.le (replaySlot pc i) 8), m.le (replaySlot pc i + 8) 4))
    else (miss, none)

/-- Comparing a live value with the recorded one (R371). -/
def Mach.replayCompare (m : Mach) (b kind pos : Nat) (live : Word) : Mach :=
  let r := m.replayInput b kind pos live
  match r.2 with
  | none => r.1
  | some (v, _) =>
    if v = live then r.1 else r.1.capture (m.bank b).part live kind 9 pos (m.bank b).taskId (coreId b) 0

/-- One part of an order-dependent read: replayed, then captured (R369 to R371). -/
def Mach.orderPart (m : Mach) (b pos aux : Nat) (live : Word) : Mach × Word :=
  let pc := m.pcaptOf b
  let r := if bitOf pc 1 then
      (match m.replayInput b 7 pos live with
        | (m', some (v, _)) => (m', v)
        | (m', none) => (m', live))
    else (m, live)
  if bitOf pc 0 then (r.1.capture (m.bank b).part r.2 aux 7 pos (m.bank b).taskId (coreId b) 0, r.2) else r

/-- An order-dependent read of at most 32 bytes: its bytes as the program sees them (R370, R371). `cls` is 0 for READ, 1
for ATOM, 2 for RDX. -/
def Mach.orderRead (m : Mach) (b pos sz cls va : Nat) (live : List Byte) : Mach × List Byte :=
  let pc := m.pcaptOf b
  if (!bitOf pc 0 && !bitOf pc 1) || m.declared b va then (m, live)
  else
    let parts := Nat.max 1 (live.length / 8)
    (List.range parts).foldl (fun (a : Mach × List Byte) i =>
      let bs := (live.drop (8 * i)).take 8
      let r := a.1.orderPart b pos (i + sz * 8 + cls * 64) (word (leNat bs))
      (r.1, a.2 ++ leBytes bs.length r.2.toNat)) (m, [])

end Sys2Proof.Machine
end

