-- ==== Sys2Proof/Machine/Scalar.lean ====
section
/-! DEFINITION. Scalar: the scalar, address, control and coupling words of 14_scalar (R210 to R235). -/

namespace Sys2Proof.Machine

/-! ## Results -/

/-- The signed quotient (R214). -/
def divS (a b : Word) : Word :=
  if b = 0 then BitVec.allOnes 64 else BitVec.ofInt 64 (Int.tdiv a.toInt b.toInt)

/-- The signed remainder, with the sign of a (R214). -/
def remS (a b : Word) : Word := if b = 0 then a else BitVec.ofInt 64 (Int.tmod a.toInt b.toInt)

/-- The unsigned quotient (R214). -/
def divU (a b : Word) : Word := if b = 0 then BitVec.allOnes 64 else word (a.toNat / b.toNat)

/-- The unsigned remainder (R214). -/
def remU (a b : Word) : Word := if b = 0 then a else word (a.toNat % b.toNat)

/-- The shift amount b[5:0] (R214). -/
def shAmt (b : Word) : Nat := b.toNat % 64

/-- The number of leading zero bits (R214). -/
def clz64 (a : Word) : Word := if a = 0 then 64 else word (63 - Nat.log2 a.toNat)

/-- The number of set bits (R214). -/
def popc64 (a : Word) : Word := word ((List.range 64).foldl (fun n i => n + b2n (bitOf a.toNat i)) 0)

/-- The width n of SEXT and ZEXT: 0 stands for 64 (R214). -/
def extWidth (b : Word) : Nat := if b.toNat % 64 = 0 then 64 else b.toNat % 64

/-- SignExtend of a[n-1:0] (R28, R214). -/
def sext64 (a b : Word) : Word :=
  let n := extWidth b
  let x := a.toNat % 2 ^ n
  if bitOf x (n - 1) then word (x + (2 ^ 64 - 2 ^ n)) else word x

/-- ZeroExtend of a[n-1:0] (R28, R214). -/
def zext64 (a b : Word) : Word := word (a.toNat % 2 ^ extWidth b)

/-- Bits [127:64] of the signed product (R214). -/
def mulHigh (a b : Word) : Word := BitVec.ofInt 64 ((a.toInt * b.toInt) / 2 ^ 64)

/-- Bits [127:64] of the unsigned product (R214). -/
def mulHighU (a b : Word) : Word := word (a.toNat * b.toNat / 2 ^ 64)

/-! ## Words that write one result -/

/-- An ALU word: a and b of R210, one result with a latency (R211, R213, R214). -/
def aluWord (i : Instr) (f : RF) (lat : Nat) (g : Word → Word → Word) (s : State) : Host.Outcome State Fault Refusal :=
  issueWord i s (fun c m => operands c m [f.sa, f.sb] f.dst 1 (fun m vs =>
    .done (m.putReg c f.dst lat (g (opnd vs 0) (secondOperand (opnd vs 1) f.imm))) 1 none))

/-- An immediate word: a and k of R218, one result with a latency. -/
def immWord (i : Instr) (f : IF) (lat : Nat) (g : Word → Word → Word) (s : State) : Host.Outcome State Fault Refusal :=
  issueWord i s (fun c m => operands c m [f.sa] f.dst 1 (fun m vs =>
    .done (m.putReg c f.dst lat (g (opnd vs 0) (f.imm.signExtend 64))) 1 none))

/-- A shift by an immediate, which traps with ILLEGAL outside 0 to 63 (R218). -/
def shiftWord (i : Instr) (f : IF) (g : Word → Nat → Word) (s : State) : Host.Outcome State Fault Refusal :=
  issueWord i s (fun c m => operands c m [f.sa] f.dst 1 (fun m vs =>
    if 63 < f.imm.toNat then .trap (c.trap .illegal)
    else .done (m.putReg c f.dst 1 (g (opnd vs 0) f.imm.toNat)) 1 none))

/-- NOP (R212): it takes its slot. -/
def execNop (f : RF) (s : State) : Host.Outcome State Fault Refusal := issueWord (.nop f) s (fun _ m => .done m 1 none)

/-- ADD: a + b (R214). -/
def execAdd (f : RF) (s : State) : Host.Outcome State Fault Refusal := aluWord (.add f) f 1 (fun a b => a + b) s

/-- SUB: a - b (R214). -/
def execSub (f : RF) (s : State) : Host.Outcome State Fault Refusal := aluWord (.sub f) f 1 (fun a b => a - b) s

/-- AND: bitwise AND (R214). -/
def execAnd (f : RF) (s : State) : Host.Outcome State Fault Refusal := aluWord (.and f) f 1 (fun a b => a &&& b) s

/-- OR: bitwise OR (R214). -/
def execOr (f : RF) (s : State) : Host.Outcome State Fault Refusal := aluWord (.or f) f 1 (fun a b => a ||| b) s

/-- XOR: bitwise XOR (R214). -/
def execXor (f : RF) (s : State) : Host.Outcome State Fault Refusal := aluWord (.xor f) f 1 (fun a b => a ^^^ b) s

/-- SHL: a shifted left by b[5:0] (R214). -/
def execShl (f : RF) (s : State) : Host.Outcome State Fault Refusal := aluWord (.shl f) f 1 (fun a b => a <<< shAmt b) s

/-- SHR: a shifted right, with zeros (R214). -/
def execShr (f : RF) (s : State) : Host.Outcome State Fault Refusal := aluWord (.shr f) f 1 (fun a b => a >>> shAmt b) s

/-- SRA: a shifted right, with copies of a[63] (R214). -/
def execSra (f : RF) (s : State) : Host.Outcome State Fault Refusal := aluWord (.sra f) f 1 (fun a b => a.sshiftRight (shAmt b)) s

/-- ROTL: a rotated left (R214). -/
def execRotl (f : RF) (s : State) : Host.Outcome State Fault Refusal := aluWord (.rotl f) f 1 (fun a b => a.rotateLeft (shAmt b)) s

/-- MIN: the signed minimum (R214). -/
def execMin (f : RF) (s : State) : Host.Outcome State Fault Refusal := aluWord (.min f) f 1 (fun a b => if BitVec.slt a b then a else b) s

/-- MAX: the signed maximum (R214). -/
def execMax (f : RF) (s : State) : Host.Outcome State Fault Refusal := aluWord (.max f) f 1 (fun a b => if BitVec.slt a b then b else a) s

/-- MINN: the unsigned minimum (R214). -/
def execMinn (f : RF) (s : State) : Host.Outcome State Fault Refusal := aluWord (.minn f) f 1 (fun a b => if BitVec.ult a b then a else b) s

/-- MAXN: the unsigned maximum (R214). -/
def execMaxn (f : RF) (s : State) : Host.Outcome State Fault Refusal := aluWord (.maxn f) f 1 (fun a b => if BitVec.ult a b then b else a) s

/-- MUL: bits [63:0] of the product (R214). -/
def execMul (f : RF) (s : State) : Host.Outcome State Fault Refusal := aluWord (.mul f) f 3 (fun a b => a * b) s

/-- MULH: bits [127:64] of the signed product (R214). -/
def execMulh (f : RF) (s : State) : Host.Outcome State Fault Refusal := aluWord (.mulh f) f 3 (fun a b => mulHigh a b) s

/-- MULHN: bits [127:64] of the unsigned product (R214). -/
def execMulhn (f : RF) (s : State) : Host.Outcome State Fault Refusal := aluWord (.mulhn f) f 3 (fun a b => mulHighU a b) s

/-- DIV: the signed quotient (R214). -/
def execDiv (f : RF) (s : State) : Host.Outcome State Fault Refusal := aluWord (.div f) f 20 (fun a b => divS a b) s

/-- DIVN: the unsigned quotient (R214). -/
def execDivn (f : RF) (s : State) : Host.Outcome State Fault Refusal := aluWord (.divn f) f 20 (fun a b => divU a b) s

/-- REM: the signed remainder (R214). -/
def execRem (f : RF) (s : State) : Host.Outcome State Fault Refusal := aluWord (.rem f) f 20 (fun a b => remS a b) s

/-- REMN: the unsigned remainder (R214). -/
def execRemn (f : RF) (s : State) : Host.Outcome State Fault Refusal := aluWord (.remn f) f 20 (fun a b => remU a b) s

/-- CLZ: leading zeros (R214). -/
def execClz (f : RF) (s : State) : Host.Outcome State Fault Refusal := aluWord (.clz f) f 1 (fun a _ => clz64 a) s

/-- POPC: set bits (R214). -/
def execPopc (f : RF) (s : State) : Host.Outcome State Fault Refusal := aluWord (.popc f) f 1 (fun a _ => popc64 a) s

/-- BREV: the bits of a reversed (R214). -/
def execBrev (f : RF) (s : State) : Host.Outcome State Fault Refusal := aluWord (.brev f) f 1 (fun a _ => word (revBits 64 a.toNat)) s

/-- SEXT: sign extension from b[5:0] bits (R214). -/
def execSext (f : RF) (s : State) : Host.Outcome State Fault Refusal := aluWord (.sext f) f 1 (fun a b => sext64 a b) s

/-- ZEXT: zero extension from b[5:0] bits (R214). -/
def execZext (f : RF) (s : State) : Host.Outcome State Fault Refusal := aluWord (.zext f) f 1 (fun a b => zext64 a b) s

/-- Predicates that a word names are in place (R44, R211). -/
def Ctx.predsReady (c : Ctx) (ns : List Nat) : Bool := ns.all (fun n => c.s.keyReady c.k.clk (64 + n))

/-- CMP (R215). -/
def execCmp (f : RF) (s : State) : Host.Outcome State Fault Refusal :=
  issueWord (.cmp f) s (fun c m =>
    if !(c.predsReady [f.dst.toNat]) then .stall
    else operands c m [f.sa, f.sb] 0 0 (fun m vs =>
      .done (m.modSeq c.b c.q (fun t =>
        t.putPred f.dst.toNat (cmpCond f.fn.toNat (opnd vs 0) (secondOperand (opnd vs 1) f.imm)))) 1 none))

/-- PLOG (R216). -/
def execPlog (f : RF) (s : State) : Host.Outcome State Fault Refusal :=
  issueWord (.plog f) s (fun c m =>
    if !(c.predsReady [f.dst.toNat, f.sa.toNat, f.sb.toNat]) then .stall
    else .done (m.modSeq c.b c.q (fun t =>
      t.putPred f.dst.toNat (plogOp f.fn.toNat (t.getPred f.sa.toNat) (t.getPred f.sb.toNat)))) 1 none)

/-- SEL (R217). -/
def execSel (f : RF) (s : State) : Host.Outcome State Fault Refusal :=
  issueWord (.sel f) s (fun c m =>
    if !(c.predsReady [fld f.fn.toNat 0 3]) then .stall
    else operands c m [f.sa, f.sb] f.dst 1 (fun m vs =>
      .done (m.putReg c f.dst 1
        (if c.s.getPred (fld f.fn.toNat 0 3) != bitOf f.fn.toNat 3 then opnd vs 0 else opnd vs 1)) 1 none))

/-- ADDI (R218). -/
def execAddi (f : IF) (s : State) : Host.Outcome State Fault Refusal := immWord (.addi f) f 1 (fun a k => a + k) s

/-- ANDI (R218). -/
def execAndi (f : IF) (s : State) : Host.Outcome State Fault Refusal := immWord (.andi f) f 1 (fun a k => a &&& k) s

/-- ORI (R218). -/
def execOri (f : IF) (s : State) : Host.Outcome State Fault Refusal := immWord (.ori f) f 1 (fun a k => a ||| k) s

/-- XORI (R218). -/
def execXori (f : IF) (s : State) : Host.Outcome State Fault Refusal := immWord (.xori f) f 1 (fun a k => a ^^^ k) s

/-- SHLI (R218). -/
def execShli (f : IF) (s : State) : Host.Outcome State Fault Refusal := shiftWord (.shli f) f (fun a k => a <<< k) s

/-- SHRI (R218). -/
def execShri (f : IF) (s : State) : Host.Outcome State Fault Refusal := shiftWord (.shri f) f (fun a k => a >>> k) s

/-- SRAI (R218). -/
def execSrai (f : IF) (s : State) : Host.Outcome State Fault Refusal := shiftWord (.srai f) f (fun a k => a.sshiftRight k) s

/-- MULI (R218). -/
def execMuli (f : IF) (s : State) : Host.Outcome State Fault Refusal := immWord (.muli f) f 3 (fun a k => a * k) s

/-- LDI (R219). -/
def execLdi (f : IF) (s : State) : Host.Outcome State Fault Refusal := immWord (.ldi f) f 1 (fun _ k => k) s

/-- LDHI (R219): the immediate is raw bits. -/
def execLdhi (f : IF) (s : State) : Host.Outcome State Fault Refusal :=
  immWord (.ldhi f) f 1 (fun a _ => (a <<< 30) ||| f.imm.zeroExtend 64) s

/-! ## Transfers of control -/

/-- The words of the stream's segment. -/
def SeqState.words (s : SeqState) : Nat := s.code.length

/-- A target position is accepted (R208). -/
def SeqState.targetOk (s : SeqState) (t : Int) : Bool := decide (0 ≤ t) && decide (t ≤ s.words)

/-- Leaving the bodies that do not hold the target (R223). -/
def leaveLoops (t : Nat) : List LoopEnt → List LoopEnt
  | [] => []
  | e :: es => if e.start ≤ t ∧ t ≤ e.stop then e :: es else leaveLoops t es

/-- Transferring to a target: R208's check, then the loop stack (R223). -/
def Ctx.transfer (c : Ctx) (m : Mach) (t : Int) (leave : Bool) : Act :=
  if !(c.s.targetOk t) then .trap (c.trap .illegal)
  else .done (if leave then m.modSeq c.b c.q (fun s => { s with loops := leaveLoops t.toNat s.loops }) else m) 1
    (some t.toNat)

/-- pos + OFF36 (R220). -/
def Ctx.relTarget (c : Ctx) (off : BitVec 36) : Int := c.s.pos + off.toInt

/-- BR (R220, R223). -/
def execBr (f : JF) (s : State) : Host.Outcome State Fault Refusal :=
  issueWord (.br f) s (fun c m => c.transfer m (c.relTarget f.off) true)

/-- CALL (R220): the loop stack stays. -/
def execCall (f : JF) (s : State) : Host.Outcome State Fault Refusal :=
  issueWord (.call f) s (fun c m => operands c m [] f.lnk 0 (fun m _ =>
    c.transfer (m.putReg c f.lnk 1 (word (c.s.pos + 1))) (c.relTarget f.off) false))

/-- JR (R220, R223): with DST 0 it leaves loops, with another DST it links. -/
def execJr (f : RF) (s : State) : Host.Outcome State Fault Refusal :=
  issueWord (.jr f) s (fun c m => operands c m [f.sa] f.dst (if f.dst = 0 then 0 else 1) (fun m vs =>
    c.transfer (m.putReg c f.dst 1 (word (c.s.pos + 1))) ((opnd vs 0 + f.imm.signExtend 64).toNat : Nat) (f.dst == 0)))

/-- The word at a position may not end a loop body: BR, CALL, JR, LOOP and BRQ (R222). -/
def SeqState.badLoopEnd (s : SeqState) (e : Nat) : Bool :=
  let op := fld (s.code.getD e 0).toNat 46 8
  decide (0x18 ≤ op) && decide (op ≤ 0x1C)

/-- LOOP (R221, R222). -/
def execLoop (f : RF) (s : State) : Host.Outcome State Fault Refusal :=
  issueWord (.loop f) s (fun c m => operands c m [f.sa] 0 0 (fun m vs =>
    let e := c.s.pos + f.imm.toNat
    let inner := match c.s.loops with
      | t :: _ => decide (t.stop < e)
      | [] => false
    if decide (c.s.words ≤ e) || decide (4 ≤ c.s.loops.length) || inner || c.s.badLoopEnd e then .trap (c.trap .illegal)
    else if opnd vs 0 = 0 then .done m 1 (some (e + 1))
    else .done (m.modSeq c.b c.q (fun t =>
      { t with loops := { start := c.s.pos + 1, stop := e, rem := (opnd vs 0).toNat } :: t.loops })) 1
      (some (c.s.pos + 1))))

/-! ## Outcome queues, events, counters -/

/-- The sequencers of a mask of K, L, X and D (R224). -/
def maskSeqs (n : Nat) : List Seq := [Seq.K, .L, .X, .D].filter (fun q => bitOf n q.idx)

/-- BOPUSH (R224): queues of 16 outcomes, pushed on one clock. -/
def execBopush (f : RF) (s : State) : Host.Outcome State Fault Refusal :=
  issueWord (.bopush f) s (fun c m =>
    let qs := maskSeqs (fld f.fn.toNat 0 4)
    if !(c.predsReady [f.sa.toNat]) || qs.any (fun q => decide (16 ≤ (c.k.seq q).outq.length)) then .stall
    else
      let v := c.s.getPred f.sa.toNat != bitOf f.fn.toNat 4
      .done (qs.foldl (fun m q => m.modSeq c.b q (fun t => { t with outq := t.outq ++ [v] })) m) 1 none)

/-- BRQ (R225). -/
def execBrq (f : JF) (s : State) : Host.Outcome State Fault Refusal :=
  issueWord (.brq f) s (fun c m =>
    match c.s.outq with
    | [] => .stall
    | o :: os =>
      let m := m.modSeq c.b c.q (fun t => { t with outq := os })
      if o then c.transfer m (c.relTarget f.off) true else .done m 1 none)

/-- Reads and writes of a sequencer that are not performed; MARK and FENCE entries are no accesses. -/
def SeqState.accesses (s : SeqState) : List Acc := s.accs.filter (fun a => a.kind != .mark && a.kind != .fence && a.kind != .rmark)

/-- The POSTs of a bank to an event that have not taken effect (R226). -/
def Bank.postsTo (k : Bank) (ev : Nat) : Nat :=
  [k.k, k.l, k.x, k.d].foldl (fun n s => n + (s.posts.filter (fun p => p.ev == ev)).length) 0

/-- The count of an event (R226). -/
def Bank.event (k : Bank) (ev : Nat) : Nat := tget 0 k.events ev

/-- POST (R226): QOVF where the count could pass 65,535; the increment follows by POST_TAKES_EFFECT. -/
def execPost (f : IF) (s : State) : Host.Outcome State Fault Refusal :=
  issueWord (.post f) s (fun c m =>
    if 65535 < c.k.event f.imm.toNat + c.k.postsTo f.imm.toNat + 1 then .trap (c.trap .qovf)
    else .done (m.modSeq c.b c.q (fun t => { t with posts := t.posts ++
      [{ ev := f.imm.toNat, before := c.k.nextId,
         nfBy := if c.q == .X then c.k.vec.nfAt.foldl Nat.max 0 else 0 }] }))
      1 none)

/-- A posting is counted before the AWAITs of its clock are tested (R226): one that comes later on a running bank is counted
on the next clock. -/
def Bank.mayPost (k : Bank) : Bool := k.status != .running || k.phase == .main || (k.phase == .await && k.slot == .K)

/-- The oldest POST of a sequencer takes effect once every read and write po-before it has been performed (R125, R226). -/
def Mach.postEffect (m : Mach) (b : Nat) (q : Seq) : Mach :=
  let t := (m.bank b).seq q
  match t.posts with
  | [] => m
  | p :: ps =>
    if !(m.bank b).mayPost || t.accesses.any (fun a => decide (a.id < p.before)) ||
        (m.bank b).vec.nfAt.any (fun c => decide (c ≤ p.nfBy)) then m
    else (m.modSeq b q (fun t => { t with posts := ps })).modBank b (fun k =>
      { k with events := tput k.events p.ev (k.event p.ev + 1) })

/-- POST_TAKES_EFFECT (R226). -/
def execPostTakesEffect (bank unit : Nat) (s : State) : Host.Outcome State Fault Refusal :=
  commit s ((Mach.of s).postEffect bank (Seq.ofIdx unit))

/-- AWAIT (R226). -/
def execAwait (f : IF) (s : State) : Host.Outcome State Fault Refusal :=
  issueWord (.await f) s (fun c m =>
    if (m.bank c.b).event f.imm.toNat = 0 then .stall
    else .done (m.modBank c.b (fun k =>
      { k with events := tput k.events f.imm.toNat (k.event f.imm.toNat - 1) })) 1 none)

/-- A threshold of WAITC holds (R228). -/
def underLimit (limit count : Nat) : Bool := limit == 63 || decide (count ≤ limit)

/-- WAITC (R228). -/
def execWaitc (f : IF) (s : State) : Host.Outcome State Fault Refusal :=
  issueWord (.waitc f) s (fun c m =>
    let t := f.imm.toNat
    if underLimit (fld t 0 6) c.k.ldc && underLimit (fld t 6 6) c.k.stc && underLimit (fld t 12 6) c.k.cpc &&
        underLimit (fld t 18 6) c.k.toc then .done m 1 none
    else .stall)

/-! ## GO, HALT, YIELD -/

/-- Releasing a sequencer on the GO clock (R42, R43). -/
def SeqState.release (s : SeqState) (cyc : Word) (clk : Nat) : SeqState :=
  { s with cyc := cyc, released := true, prevClk := clk, prevOcc := 1 }

/-- GO (R42, R125): K's older accesses are performed before it issues. -/
def execGo (f : RF) (s : State) : Host.Outcome State Fault Refusal :=
  issueWord (.go f) s (fun c m =>
    if !c.s.accesses.isEmpty then .stall
    else if c.k.goDone then .trap (c.trap .illegal)
    else .done (m.modBank c.b (fun k =>
      { k with goDone := true, l := k.l.release k.k.cyc k.clk, x := k.x.release k.k.cyc k.clk,
               d := k.d.release k.k.cyc k.clk })) 1 none)

/-- HALT (R48). -/
def execHalt (f : RF) (s : State) : Host.Outcome State Fault Refusal :=
  issueWord (.halt f) s (fun c m => .done (m.modSeq c.b c.q (fun t => { t with halted := true })) 1 none)

/-- YIELD (R229): the run ends with this clock. -/
def execYield (f : RF) (s : State) : Host.Outcome State Fault Refusal :=
  issueWord (.yield f) s (fun c m => .done (m.modBank c.b (fun k => { k with yielding := true })) 1 none)

/-! ## Barriers -/

/-- The identity of a reduction (R50). -/
def barIdentity (op : Nat) : Word := if op = 1 then BitVec.allOnes 64 else 0

/-- Combining two contributions (R231). -/
def barCombine (op : Nat) (a b : Word) : Word :=
  match op with
  | 0 => a ||| b
  | 1 => a &&& b
  | 2 => if BitVec.ult a b then b else a
  | _ => a + b

/-- A member counts as arrived at an instance (R50, R231). -/
def Gang.arrivedAt (g : Gang) (inst : Table Arrival) (rank : Nat) : Bool :=
  (tfind inst rank).isSome || (match tfind g.members rank with | some e => e.failed.isSome | none => true)

/-- The lowest-ranked member that is not retired gives the instance's op and scope (R232). -/
def Gang.barLead (g : Gang) (inst : Table Arrival) : Option Arrival :=
  (inst.find? (fun e => decide (e.1 < barDecided) &&
    (match tfind g.members e.1 with | some x => x.failed.isNone | none => true))).map (fun e => e.2)

/-- The outcome of an instance at which every member has arrived (R231, R232). -/
def Gang.barOutcome (g : Gang) (inst : Table Arrival) (own : Arrival) : Arrival :=
  let lead := (g.barLead inst).getD own
  { lead with v := (List.range (g.glast + 1)).foldl (fun v r =>
      match tfind inst r with
      | some a => barCombine lead.op v a.v
      | none => v) (barIdentity lead.op) }

/-- Arriving at the next instance, and deciding it when this arrival is the last (R231). -/
def Gang.arrive (g : Gang) (k rank : Nat) (own : Arrival) : Gang :=
  let inst := tput (tget [] g.barriers k) rank own
  let all := (List.range (g.glast + 1)).all (g.arrivedAt inst)
  { g with barriers := tput g.barriers k (if all then tput inst barDecided (g.barOutcome inst own) else inst) }

/-- The outcome of a gang's barrier instance, once it is decided. -/
def Gang.decided (g : Gang) (k : Nat) : Option Arrival := tfind (tget [] g.barriers k) barDecided

/-- A member's arrival at an instance that is not decided, and the instance's outcome if it is now (R231). A bank with no gang
is a gang of one. -/
def Mach.barArrive (m : Mach) (c : Ctx) (own : Arrival) : Mach × Option Arrival :=
  let key := c.k.gang.getD 0
  let rank := match c.k.task with
    | some t => t.rank
    | none => 0
  match tfind m.dev.gangs key with
  | none => (m, some own)
  | some g =>
    let g' := if (g.decided c.s.bars).isSome then g else g.arrive c.s.bars rank own
    (m.modGang key (fun _ => g'), g'.decided c.s.bars)

/-- GLAST of the gang of a bank's task (R36). -/
def Bank.glast (k : Bank) : Nat :=
  match k.task with
  | some t => t.glast
  | none => 0

/-- The checks of BAR, made when it issues (R232). -/
def Ctx.barRefused (c : Ctx) (own out : Arrival) : Bool :=
  (own.scope == 2 && decide (3 < c.k.glast)) || own.op != out.op || own.scope != out.scope

/-- BAR once its contribution is in place: it arrives, and stalls until every member has arrived; then it issues, as soon as its
destination lets it (R231). A check that fails then leaves the arrival as it was made (R50). -/
def Ctx.barWith (c : Ctx) (m : Mach) (f : RF) (v : Word) : Act :=
  let own : Arrival := { op := fld f.fn.toNat 0 2, scope := fld f.fn.toNat 2 3, v := v }
  match m.barArrive c own with
  | (m1, none) => .wait m1
  | (m1, some out) =>
    match operands c m1 [f.sa] f.dst 1 (fun m' _ =>
      if c.barRefused own out then .trap (c.trap .illegal)
      else .done ((m'.putReg c f.dst 1 out.v).modSeq c.b c.q (fun t => { t with bars := t.bars + 1 })) 1 none) with
    | .stall => .wait m1
    | .trap t => .trapAfter m1 t
    | a => a

/-- BAR (R230 to R232, R127). It arrives once K's accesses have been performed and its contribution is in place; one whose SA is
refused contributes the identity of R50 and traps when it issues (log 89). -/
def execBar (f : RF) (s : State) : Host.Outcome State Fault Refusal :=
  issueWord (.bar f) s (fun c m =>
    if !c.s.accesses.isEmpty then .stall
    else if c.k.srcRefused f.sa then c.barWith m f (barIdentity (fld f.fn.toNat 0 2))
    else operands c m [f.sa] 0 0 (fun _ vs => c.barWith m f (opnd vs 0)))

/-! ## Address registers -/

/-- M suits a mode (R234). -/
def modulusOk (mode : Nat) (v : Word) : Bool :=
  match mode with
  | 0 => true
  | 3 => decide (1 ≤ v.toNat) && decide (v.toNat ≤ 2 ^ 32)
  | _ => decide (2 ≤ v.toNat) && decide (v.toNat ≤ 2 ^ 32) && isPow2 v.toNat

/-- AMODE (R234). -/
def execAmode (f : RF) (s : State) : Host.Outcome State Fault Refusal :=
  issueWord (.amode f) s (fun c m => operands c m [f.sa] f.dst 0 (fun m vs =>
    if !(modulusOk (fld f.fn.toNat 0 2) (opnd vs 0)) then .trap (c.trap .illegal)
    else
      let n := f.dst.toNat - 32
      .done (m.modSeq c.b c.q (fun t => t.putAReg n
        { t.areg n with mode := BitVec.ofNat 2 f.fn.toNat, modulus := opnd vs 0, origin := (t.areg n).val })) 1 none))

/-- AADD (R234). -/
def execAadd (f : RF) (s : State) : Host.Outcome State Fault Refusal :=
  issueWord (.aadd f) s (fun c m => operands c m [f.sa] f.dst 0 (fun m vs =>
    let n := f.dst.toNat - 32
    let inc := opnd vs 0 + f.imm.signExtend 64
    .done (m.modSeq c.b c.q (fun t =>
      t.putA n (if (t.areg n).mode = 2 then (t.areg n).val + inc else (t.areg n).update inc))) 1 none))

/-- ASTEP (R234). -/
def execAstep (f : RF) (s : State) : Host.Outcome State Fault Refusal :=
  issueWord (.astep f) s (fun c m => operands c m [f.sa] f.dst 0 (fun m vs =>
    let n := f.dst.toNat - 32
    .done (m.modSeq c.b c.q (fun t =>
      t.putAReg n { t.areg n with step := opnd vs 0 + f.imm.signExtend 64 })) 1 none))

end Sys2Proof.Machine
end

