-- ==== Sys2Proof/Machine/MemWords.lean ====
section
/-! DEFINITION. MemWords: the issue of the memory, atomic and Lookout words of 15_memory_ops (R236 to R255). What they
queue is performed in Perform.lean. -/

namespace Sys2Proof.Machine

/-! ## Queues -/

/-- Entries of a load queue (R237). -/
def AccKind.inLq : AccKind → Bool
  | .store => false
  | .pin => false
  | _ => true

/-- Entries of a store queue (R237). -/
def AccKind.inSq : AccKind → Bool
  | .load => false
  | .rdx => false
  | .rinv => false
  | _ => true

/-- MARK, FENCE and RMARK entries. -/
def AccKind.isMark : AccKind → Bool
  | .mark => true
  | .fence => true
  | .rmark => true
  | _ => false

/-- The load queue of 32 entries is full (R237). -/
def SeqState.lqFull (s : SeqState) : Bool := decide (32 ≤ (s.accs.filter (fun a => a.kind.inLq && a.kind != .rmark)).length)

/-- The store queue of 32 entries is full (R237). -/
def SeqState.sqFull (s : SeqState) : Bool := decide (32 ≤ (s.accs.filter (fun a => a.kind.inSq && a.kind != .rmark)).length)

/-- The bytes of an access by SZ (R190). -/
def szBytes (sz : BitVec 3) : Nat := if sz = 4 then 32 else 2 ^ sz.toNat

/-- A new queue entry of a word. -/
def Ctx.acc (c : Ctx) (kind : AccKind) (f : MF) (va : Nat) (x : Xlat) (n : Nat) : Acc :=
  { id := c.k.nextId, kind := kind, va := va, pa := x.pa, n := n, sc := f.sc.toNat, ca := x.ca, hint := f.hint.toNat,
    dst := f.ds.toNat, fn := f.fn.toNat, signed := false, data := [], x := 0, w := 0, pos := c.s.pos, sent := false,
    half := false, armed := false, lines := [], tags := [] }

/-- Entering the queues and the counters (R227, R237). -/
def Mach.enqueue (m : Mach) (c : Ctx) (a : Acc) (ldc stc : Nat) : Mach :=
  (m.modBank c.b (fun k => { k with nextId := k.nextId + 1, ldc := k.ldc + ldc, stc := k.stc + stc })).modSeq c.b c.q
    (fun s => { s with accs := s.accs ++ [a] })

/-- ea of R190: base, index and offset. -/
def effAddr (base idx : Word) (off : BitVec 12) : Nat := (base + idx + offWord off).toNat

/-- A MARK or FENCE enters the queues: it leaves them at once where nothing is older (R123). -/
def Mach.enqueueMark (m : Mach) (c : Ctx) (a : Acc) : Mach := (m.enqueue c a 0 0).trim c.b c.q

/-- The checks of R238 after the operand values: alignment, translation, and the targets refused with PROT; then the
post-update of BASE (R233) and the word's own effect. A translation that is not in the TLB stalls the word (R44). -/
def memIssue (c : Ctx) (m : Mach) (base : RegF) (ea align : Nat) (kind : Kind) (noCa1 hbmOnly : Bool)
    (k : Mach → Xlat → Act) : Act :=
  if c.s.postRefused base then .trap (c.trap .illegal)
  else if ea % align != 0 then .trap { c.trap .align with va := ea, access := kind }
  else m.xlateIssue c ea kind (fun m' r =>
    match r with
    | .error e => .trap (c.transTrap ea kind e)
    | .ok x =>
      if (noCa1 && x.ca == 1) || (hbmOnly && !isHbm x.pa) then .trap { c.trap .prot with va := ea, access := kind }
      else k (m'.postUpdate c base) x)

/-! ## LD, ST, LDQ, STQ -/

/-- LD and LDQ (R239, R240): the destination or the slots are taken at issue. -/
def loadWord (i : Instr) (f : MF) (s : State) : Host.Outcome State Fault Refusal :=
  issueWord i s (fun c m =>
    if c.s.lqFull then .stall
    else
      let n := szBytes f.sz
      let slots := if n = 32 then 4 else 1
      operands c m [f.base, f.idx] f.ds slots (fun m vs =>
        let ea := effAddr (opnd vs 0) (opnd vs 1) f.off
        memIssue c m f.base ea n .read false false (fun m x =>
          .done ((m.enqueue c { c.acc .load f ea x n with signed := f.fn == 1 } 1 0).putAwait c f.ds slots c.k.nextId)
            1 none)))

/-- The bytes a store takes from its source values. -/
def storeBytes (n : Nat) (vs : List Word) : List Byte :=
  if n = 32 then (vs.take 4).flatMap (fun v => leBytes 8 v.toNat) else leBytes n (opnd vs 0).toNat

/-- ST and STQ (R239, R240). -/
def storeWord (i : Instr) (f : MF) (s : State) : Host.Outcome State Fault Refusal :=
  issueWord i s (fun c m =>
    if c.s.sqFull then .stall
    else
      let n := szBytes f.sz
      operands c m ([f.base, f.idx] ++ List.replicate (if n = 32 then 4 else 1) f.ds) 0 0 (fun m vs =>
        let ea := effAddr (opnd vs 0) (opnd vs 1) f.off
        memIssue c m f.base ea n .write false false (fun m x =>
          .done (m.enqueue c { c.acc .store f ea x n with data := storeBytes n (vs.drop 2) } 0 1) 1 none)))

/-- LD (R239, R240). -/
def execLd (f : MF) (s : State) : Host.Outcome State Fault Refusal := loadWord (.ld f) f s

/-- LDQ (R239, R240). -/
def execLdq (f : MF) (s : State) : Host.Outcome State Fault Refusal := loadWord (.ldq f) f s

/-- ST (R239, R240). -/
def execSt (f : MF) (s : State) : Host.Outcome State Fault Refusal := storeWord (.st f) f s

/-- STQ (R239, R240). -/
def execStq (f : MF) (s : State) : Host.Outcome State Fault Refusal := storeWord (.stq f) f s

/-! ## MARK, FENCE, RINV, PREF, RPIN, RUNPIN -/

/-- No translation: the words that enter a queue without an address. -/
def Xlat.zero : Xlat := { pa := 0, ca := 0, pin := false, page := 0, size := 0 }

/-- MARK (R123, R241): it does not stall at issue. -/
def execMark (f : MF) (s : State) : Host.Outcome State Fault Refusal :=
  issueWord (.mark f) s (fun c m => .done (m.enqueueMark c (c.acc .mark f 0 .zero 0)) 1 none)

/-- FENCE (R123, R241): with SC 0 a MARK. -/
def execFence (f : MF) (s : State) : Host.Outcome State Fault Refusal :=
  issueWord (.fence f) s (fun c m =>
    .done (m.enqueueMark c (c.acc (if f.sc = 0 then .mark else .fence) f 0 .zero 0)) 1 none)

/-- RINV (R242): SZ 4 is RINV.ALL. -/
def execRinv (f : MF) (s : State) : Host.Outcome State Fault Refusal :=
  issueWord (.rinv f) s (fun c m =>
    if c.s.lqFull then .stall
    else if f.sz = 4 then .done (m.enqueue c { c.acc .rinv f 0 .zero 0 with fn := 4, dst := 0 } 0 0) 1 none
    else
      operands c m [f.base, f.idx, f.ds] 0 0 (fun m vs =>
        let ea := effAddr (opnd vs 0) (opnd vs 1) f.off
        if 2 ^ 32 < (opnd vs 2).toNat then .trap (c.trap .illegal)
        else if 2 ^ 56 ≤ ea then .trap { c.trap .prot with va := ea }
        else .done (m.enqueue c { c.acc .rinv f ea .zero (opnd vs 2).toNat with fn := 3, dst := 0 } 0 0) 1 none))

/-- The sector of a translated address comes to its home slice; only lines of host memory stand in the model's slices (R94). -/
def Mach.prefetch (m : Mach) (c : Ctx) (x : Xlat) : Mach :=
  if isHostMem x.pa && x.ca != 1 && !(m.readHeld (c.k.by c.b) x.ca (x.pa / 32 * 32) 32) then (m.readPhys (c.k.by c.b) x.ca (x.pa / 32 * 32) 32).1 else m

/-- PREF (R243): never a trap after step 4; the sector comes to its home slice where the operands and the translation allow it,
and BASE is post-updated in every case. -/
def execPref (f : MF) (s : State) : Host.Outcome State Fault Refusal :=
  issueWord (.pref f) s (fun c m =>
    operandsElse c m [f.base, f.idx] 0 0 (fun m => .done (m.postUpdate c f.base) 1 none) (fun m vs =>
      m.xlateIssue c (effAddr (opnd vs 0) (opnd vs 1) f.off) .read (fun m' r =>
        .done ((match r with
          | .ok x => m'.prefetch c x
          | .error _ => m').postUpdate c f.base) 1 none)))

/-- RPIN (R244, R245). -/
def execRpin (f : MF) (s : State) : Host.Outcome State Fault Refusal :=
  issueWord (.rpin f) s (fun c m =>
    if c.s.sqFull then .stall
    else operands c m [f.base, f.idx, f.ds] 0 0 (fun m vs =>
      let ea := effAddr (opnd vs 0) (opnd vs 1) f.off
      let v := (opnd vs 2).toNat
      let l := fld v 8 5
      if c.s.postRefused f.base || fld v 4 4 != 0 || v / 2 ^ 13 != 0 || decide (l < 12) || decide (30 < l) ||
          ea % 2 ^ l != 0 || decide (2 ^ 56 < ea + 2 ^ l) then .trap (c.trap .illegal)
      else .done ((m.enqueue c { c.acc .pin f ea .zero l with fn := fld v 0 4, dst := 0 } 0 0).postUpdate c f.base) 1
        none))

/-- RUNPIN (R244, R245): a pin entry of size 0. -/
def execRunpin (f : MF) (s : State) : Host.Outcome State Fault Refusal :=
  issueWord (.runpin f) s (fun c m =>
    if c.s.sqFull then .stall
    else operands c m [f.ds] 0 0 (fun m vs =>
      if 16 ≤ (opnd vs 0).toNat || f.base != 0 || f.idx != 0 || f.off != 0 then .trap (c.trap .illegal)
      else .done (m.enqueue c { c.acc .pin f 0 .zero 0 with fn := (opnd vs 0).toNat, dst := 0 } 0 0) 1 none))

/-! ## Atomics and exact cells -/

/-- The task runs with REPRO = 1 (R53). -/
def Bank.repro (k : Bank) : Bool :=
  match k.task with
  | some t => t.repro
  | none => false

/-- ATOM (R246, R247): IDX carries x, and for CAS DS is first read as the new value. -/
def execAtom (f : MF) (s : State) : Host.Outcome State Fault Refusal :=
  issueWord (.atom f) s (fun c m =>
    if c.s.lqFull || c.s.sqFull then .stall
    else
      let cas := f.fn == 9
      operands c m ([f.base, f.idx] ++ (if cas then [f.ds] else [])) f.ds 1 (fun m vs =>
        let ea := effAddr (opnd vs 0) 0 f.off
        let n := szBytes f.sz
        if c.s.postRefused f.base then .trap (c.trap .illegal)
        else if c.k.repro then .trap (c.trap .atomRepro)
        else memIssue c m f.base ea n .atomic true false (fun m x =>
          .done ((m.enqueue c { c.acc .atom f ea x n with x := opnd vs 1, w := opnd vs 2 } 1 1).putAwait c f.ds 1
            c.k.nextId) 1 none)))

/-- RED (R246, R247). -/
def execRed (f : MF) (s : State) : Host.Outcome State Fault Refusal :=
  issueWord (.red f) s (fun c m =>
    if c.s.lqFull || c.s.sqFull then .stall
    else operands c m [f.base, f.idx, f.ds] 0 0 (fun m vs =>
      let ea := effAddr (opnd vs 0) (opnd vs 1) f.off
      memIssue c m f.base ea (szBytes f.sz) .atomic true false (fun m x =>
        .done (m.enqueue c { c.acc .red f ea x (szBytes f.sz) with x := opnd vs 2, dst := 0 } 0 1) 1 none)))

/-- Bytes of an exact cell (R249). -/
def cellBytes (f64 : Bool) : Nat := if f64 then 512 else 64

/-- REDX (R248, R249). -/
def execRedx (f : MF) (s : State) : Host.Outcome State Fault Refusal :=
  issueWord (.redx f) s (fun c m =>
    if c.s.lqFull || c.s.sqFull then .stall
    else operands c m [f.base, f.idx, f.ds] 0 0 (fun m vs =>
      let ea := effAddr (opnd vs 0) (opnd vs 1) f.off
      let n := cellBytes (f.fn == 1)
      memIssue c m f.base ea n .atomic true true (fun m x =>
        .done (m.enqueue c { c.acc .redx f ea x n with x := opnd vs 2, dst := 0 } 0 1) 1 none)))

/-- RDX (R248, R249). -/
def execRdx (f : MF) (s : State) : Host.Outcome State Fault Refusal :=
  issueWord (.rdx f) s (fun c m =>
    if c.s.lqFull then .stall
    else operands c m [f.base, f.idx] f.ds 1 (fun m vs =>
      let ea := effAddr (opnd vs 0) (opnd vs 1) f.off
      let n := cellBytes (bitOf f.fn.toNat 3)
      memIssue c m f.base ea n .read true true (fun m x =>
        .done ((m.enqueue c (c.acc .rdx f ea x n) 1 0).putAwait c f.ds 1 c.k.nextId) 1 none)))

/-- Two byte ranges overlap. -/
def overlaps (a n b k : Nat) : Bool := decide (a < b + k) && decide (b < a + n)

/-! ## WAITA -/

/-- The lowest free park slot of a slice, else the one parked longest (R165, R167). -/
def Slice.parkSlot (s : Slice) : Nat :=
  match (List.range 64).find? (fun i => (tfind s.parks i).isNone) with
  | some i => i
  | none => (s.parks.foldl (fun (b : Nat × ParkSlot) e => if e.2.since < b.2.since then e else b)
      (s.parks.headD (0, { pa := 0, n := 0, bank := 0, since := 0 }))).1

/-- Reclaiming a park slot: its WAITA returns SPUR (R166, R167). -/
def Mach.reclaimPark (m : Mach) (slice slot : Nat) : Mach :=
  match tfind (m.slice slice).parks slot with
  | none => m
  | some p => (m.modSlice slice (fun s => { s with parks := tdel s.parks slot })).endPark p.bank 3

/-- Parking a WAITA in a slot of its home slice (R165). -/
def Mach.park (m : Mach) (b slice : Nat) (w : Waita) : Mach :=
  let slot := (m.slice slice).parkSlot
  let m1 := m.reclaimPark slice slot
  let r := m1.nextOrd
  (r.2.modSlice slice (fun s =>
    { s with parks := tput s.parks slot { pa := w.pa, n := w.n, bank := b, since := r.1 } })).modSeq b .K (fun t =>
      { t with waita := some { w with slice := slice, slot := slot } })

/-- WAITA (R250, R251, R165): the checks and the first read; it then stalls until WAITA_RETURN. -/
def execWaita (f : MF) (s : State) : Host.Outcome State Fault Refusal :=
  issueWord (.waita f) s (fun c m =>
    if c.s.waita.isSome || !(c.predsReady [fld f.off.toNat 0 3]) || c.s.accs.any (fun a => a.kind.inLq && !a.half) then .stall
    else operands c m [f.base, f.idx, f.ds] f.ds 1 (fun _ vs =>
      let ea := (opnd vs 0).toNat
      let n := szBytes f.sz
      memIssue c m f.base ea n .read true true (fun m x =>
        if c.s.accs.any (fun a => overlaps a.pa a.n x.pa n) || m.readHeld (c.k.by c.b) x.ca x.pa n then .stall
        else
          match m.poisoned x.pa n with
          | some sec => .trap { c.trap .eccu with va := ea, poison := true, pa := sec * 32 }
          | none =>
            let r := m.readPhys (c.k.by c.b) x.ca x.pa n
            let m1 := r.1.l1Refresh (coreOf c.b) x.pa r.2
            let e := (opnd vs 1).toNat % 2 ^ (8 * n)
            let w : Waita :=
              { va := ea, pa := x.pa, n := n, expected := e, bound := (opnd vs 2).toNat, since := c.k.k.cyc.toNat,
                slice := 0, slot := 64, outcome := none, dst := f.ds.toNat, pdst := fld f.off.toNat 0 3,
                pos := c.s.pos, srcs := [f.base, f.idx, f.ds], forced := none }
            let back := fun (m : Mach) (w : Waita) => Act.wait (m.modSeq c.b .K (fun t => { t with waita := some w }))
            if bitOf (m.pcaptOf c.b) 1 then
              (match m1.replayInput c.b 6 c.s.pos (word (leNat r.2)) with
               | (m2, some (v, code)) => back m2 { w with outcome := some (code % 4), forced := some v }
               | (m2, none) =>
                 if leNat r.2 != e then back m2 { w with outcome := some 0 }
                 else if w.bound = 0 then back m2 { w with outcome := some 2 }
                 else .wait (m2.park c.b (m2.dev.home x.pa (some c.k.part)) w))
            else if leNat r.2 != e then back m1 { w with outcome := some 0 }
            else if w.bound = 0 then back m1 { w with outcome := some 2 }
            else .wait (m1.park c.b (m1.dev.home x.pa (some c.k.part)) w))))

/-- WAITA_BOUND_EXPIRY (R57, R166): the bound counts K's CYC. -/
def execWaitaBoundExpiry (bank : Nat) (s : State) : Host.Outcome State Fault Refusal :=
  let m := Mach.of s
  commit s (match (m.bank bank).k.waita with
    | some w => if w.expired (m.bank bank).k.cyc then m.endPark bank 2 else m
    | none => m)

/-- The final read of a returning WAITA and what it writes (R166, R251): the word issues on this clock. -/
def Mach.waitaReturn (m : Mach) (b : Nat) : Mach :=
  let k := m.bank b
  match k.k.waita with
  | none => m
  | some w =>
    match w.outcome with
    | none => m
    | some code =>
      if k.status != .running || m.readHeld (k.by b) 0 w.pa w.n then m
      else
        let poison := m.poisoned w.pa w.n
        let c : Ctx := { b := b, q := .K, k := k, s := k.k }
        let free := (m.modSlice w.slice (fun s =>
          match tfind s.parks w.slot with
          | some p => if p.bank = b then { s with parks := tdel s.parks w.slot } else s
          | none => s)).modSeq b .K (fun t => { t with waita := none })
        match (if w.forced.isNone then poison else none) with
        | some sec => free.addTrap b { c.trap .eccu with va := w.va, poison := true, pa := sec * 32 }
        | none =>
          let r := free.readPhys (k.by b) 0 w.pa w.n
          let v := match w.forced with
            | some v => v
            | none => word (leNat r.2)
          let m1 := r.1.l1Refresh (coreOf b) w.pa r.2
          let m2 := match fetchFields .K (m1.bank b) w.srcs with
            | some (_, k') => m1.setBank b k'
            | none => m1
          let dst := BitVec.ofNat 6 w.dst
          let m3 := (m2.putReg c dst 1 v).modSeq b .K (fun t =>
            { t.putPred w.pdst (v.toNat != w.expected) with wout := BitVec.ofNat 2 code })
          let m4 := if bitOf (m3.pcaptOf b) 0 then m3.capture k.part v code 6 w.pos k.taskId (coreId b) 0 else m3
          m4.finish c (.done m4 1 none)

/-- WAITA_RETURN (R166, R251). -/
def execWaitaReturn (bank : Nat) (s : State) : Host.Outcome State Fault Refusal := commit s ((Mach.of s).waitaReturn bank)

/-! ## Lookout words -/

/-- A watch request (R252). -/
structure WatchReq where
  vbase : Nat
  uword : Word
  image : Nat
  qmask : Nat
  prio : Nat
  size : Nat
  queued : Bool
  dlim : Nat
  rwin : Nat
  rbud : Nat
  reservedOk : Bool
  deriving Repr

/-- The request in 32 bytes (R252). -/
def watchReq (bs : List Byte) : WatchReq :=
  let v := leNat bs
  { vbase := fld v 0 64, uword := word (fld v 64 64), image := fld v 128 32, qmask := fld v 160 16, prio := fld v 176 8,
    size := fld v 184 4, queued := bitOf v 188, dlim := fld v 192 4, rwin := fld v 200 5, rbud := fld v 208 8,
    reservedOk := fld v 189 3 == 0 && fld v 196 4 == 0 && fld v 205 3 == 0 && fld v 216 40 == 0 }

/-- The slices that are home to the units of a range, the lead slice first (R151). -/
def Dev.watchSlices (d : Dev) (pa size : Nat) : List Nat :=
  ((List.range ((2 ^ (size + 5) + 4095) / 4096)).map (fun i => d.home (pa + 4096 * i) none)).eraseDups

/-- The lowest free watch entry of a slice (R151; the choice of entry is the model's, log 13). -/
def Slice.freeWatch (s : Slice) : Option Nat := (List.range 32).find? (fun e => (tfind s.watches e).isNone)

/-- The handle of an entry (R152). -/
def watchHandle (slice entry : Nat) : Nat := entry + slice % 80 * 2 ^ 5 + slice / 80 * 2 ^ 12

/-- The free entry for a new lead: the lowest whose handle no watch that moved away still carries (log 13). -/
def Mach.freeLead (m : Mach) (slice : Nat) : Option Nat :=
  match (List.range 32).find? (fun e => (tfind (m.slice slice).watches e).isNone &&
      (m.dev.leadOf (watchHandle slice e)).isNone) with
  | some e => some e
  | none => (m.slice slice).freeWatch

/-- Writing the entries of a watch into the home slices of its range; `lead` is the lead entry's number (R151, R164). -/
def Mach.layWatch (m : Mach) (w : Watch) (slices : List Nat) (lead : Nat) : Mach :=
  (List.range slices.length).foldl (fun m i =>
    m.modSlice (slices.getD i 0) (fun t =>
      if i = 0 then { t with watches := tput t.watches lead { w with lead := true } }
      else
        match t.freeWatch with
        | some e => { t with watches := tput t.watches e { w with lead := false } }
        | none => t)) m

/-- Writing the entries of a watch (R153). Answers nothing where a slice has no free entry. -/
def Mach.placeWatch (m : Mach) (w : Watch) : Option (Mach × Nat) :=
  let slices := m.dev.watchSlices (w.pbase * 32) w.size
  if slices.isEmpty || slices.any (fun s => (m.slice s).freeWatch.isNone) then none
  else
    let e := (m.freeLead (slices.getD 0 0)).getD 0
    let h := watchHandle (slices.getD 0 0) e
    some (m.layWatch { w with leadh := h } slices e, h)

/-- The bytes of a range lie within one page (R151). -/
def Xlat.rangeInPage (x : Xlat) (n : Nat) : Bool := decide (x.pa + n ≤ x.page + pageBytes x.size)

/-- WSET (R252, R253, R152, R153). -/
def execWset (f : MF) (s : State) : Host.Outcome State Fault Refusal :=
  issueWord (.wset f) s (fun c m =>
    if !c.s.accesses.isEmpty then .stall
    else operands c m [f.base, f.idx] f.ds 1 (fun m vs =>
      let ea := effAddr (opnd vs 0) (opnd vs 1) f.off
      memIssue c m f.base ea 32 .read false false (fun m x =>
        if isPeer x.pa then .trap { c.trap .prot with va := ea }
        else if m.readHeld (c.k.by c.b) x.ca x.pa 32 then .stall
        else
          match m.poisoned x.pa 32 with
          | some sec => .trap { c.trap .eccu with va := ea, poison := true, pa := sec * 32 }
          | none =>
            let rd := m.readPhys (c.k.by c.b) x.ca x.pa 32
            let r := watchReq rd.2
            if !r.reservedOk then .trap (c.trap .watchx)
            else
              match m.translateLeaf c.k.part r.vbase .read with
              | .error .held => .stall
              | .error e => .trap (c.transTrap r.vbase .read e)
              | .ok y =>
                if isPeer y.pa then .trap { c.trap .prot with va := r.vbase }
                else if decide (11 < r.size) || r.vbase % 2 ^ (r.size + 5) != 0 || !(y.rangeInPage (2 ^ (r.size + 5))) ||
                    !isHbm y.pa || (tfind (m.dev.part c.k.part).images r.image).isNone || r.dlim == 0 || r.rbud == 0
                then .trap (c.trap .watchx)
                else
                  match rd.1.placeWatch
                    { arm := true, queued := r.queued, pend := false, lead := true, repro := c.k.repro, dlim := r.dlim,
                      pdepth := 0, rwin := r.rwin, rbud := r.rbud, prio := Nat.min r.prio c.k.prio, qmask := r.qmask,
                      part := c.k.part, size := r.size, pbase := y.pa / 32, leadh := 0, vbase := r.vbase,
                      image := r.image, uword := r.uword, count := 0, first := 0, last := 0, rused := 0,
                      cleared := false, gang := 0 } with
                  | none => .trap (c.trap .watchx)
                  | some (m', h) => .done (m'.putReg c f.ds 1 (word h)) 1 none)))

/-- The lead entry that a handle register names for a partition (R162). -/
def Dev.watchOf (d : Dev) (part : Nat) (v : Word) : Option Watch :=
  match d.leadOf v.toNat with
  | some (_, _, w) => if w.part == part then some w else none
  | none => none

/-- Changing every entry of a watch. -/
def Mach.modWatch (m : Mach) (h : Nat) (f : Watch → Watch) : Mach :=
  { m with dev := { m.dev with slices := tmap (fun _ s =>
      { s with watches := tmap (fun _ w => if w.leadh = h then f w else w) s.watches }) m.dev.slices } }

/-- Freeing every entry of a watch; its handle names nothing from here on, and no counted write is on its way to it (R162). -/
def Mach.freeWatch (m : Mach) (h : Nat) : Mach :=
  { m with dev := { m.dev with slices := tmap (fun _ s =>
      { s with watches := s.watches.filter (fun e => e.2.leadh != h),
               arrivals := s.arrivals.filter (fun a => a.handle != h) }) m.dev.slices } }

/-- Clearing a watch as by WCLR (R162). -/
def Mach.clearWatch (m : Mach) (h : Nat) (pend : Bool) : Mach :=
  if pend then m.modWatch h (fun w => { w with arm := false, cleared := true }) else m.freeWatch h

/-- A word that acts on a watch: after every access of K po-before it (R255), with R162's check of the handle. -/
def watchWord (i : Instr) (f : RF) (s : State) (k : Ctx → Mach → Nat → Watch → Act) : Host.Outcome State Fault Refusal :=
  issueWord i s (fun c m =>
    if !c.s.accesses.isEmpty then .stall
    else operands c m [f.sa] f.dst (if f.dst = 0 then 0 else 1) (fun m vs =>
      match m.dev.watchOf c.k.part (opnd vs 0) with
      | none => .trap (c.trap .watchx)
      | some w => k c m (opnd vs 0).toNat w))

/-- WCLR (R162, R254). -/
def execWclr (f : RF) (s : State) : Host.Outcome State Fault Refusal :=
  watchWord (.wclr f) f s (fun _ m h w => .done (if w.cleared then m else m.clearWatch h w.pend) 1 none)

/-- WARM (R161, R254). -/
def execWarm (f : RF) (s : State) : Host.Outcome State Fault Refusal :=
  watchWord (.warm f) f s (fun _ m h w =>
    .done (if w.arm || w.cleared then m else m.modWatch h (fun w => { w with arm := true })) 1 none)

/-- Word w of a watch's state (R255). -/
def Watch.info (w : Watch) (n : Nat) : Word :=
  match n with
  | 0 => word (w.vbase + (if w.pend then w.first else 0))
  | 1 => word (w.vbase + (if w.pend then w.last else 0))
  | 2 => w.uword
  | _ => word (w.leadh + (if w.pend then w.count * 2 ^ 16 + w.pdepth * 2 ^ 32 else 0) + b2n w.queued * 2 ^ 40 +
      b2n w.arm * 2 ^ 48 + b2n w.pend * 2 ^ 49)

/-- Word w of the task's own Lookout record, zero in a task that no trigger created (R159, R255). -/
def Bank.ownInfo (k : Bank) (n : Nat) : Word := word (leNat ((k.lookout.drop (8 * n)).take 8))

/-- WINFO (R254, R255). -/
def execWinfo (f : RF) (s : State) : Host.Outcome State Fault Refusal :=
  if bitOf f.fn.toNat 4 then
    watchWord (.winfo f) f s (fun c m _ w => .done (m.putReg c f.dst 1 (w.info (fld f.fn.toNat 0 2))) 1 none)
  else
    issueWord (.winfo f) s (fun c m => operands c m [] f.dst 1 (fun m _ =>
      .done (m.putReg c f.dst 1 (c.k.ownInfo (fld f.fn.toNat 0 2))) 1 none))

end Sys2Proof.Machine
end

