-- ==== Sys2Proof/Machine/Perform.lean ====
section
/-! DEFINITION. Perform: the performance of the reads and writes that sequencers have queued (R118 to R123, R240, R242,
R245, R247, R249), and the retirement of a task for what an access finds (R175, R359). -/

namespace Sys2Proof.Machine

/-! ## Retirement for what an access finds -/

/-- A bank's task is retired: the record, the trap record words, and R174 from here on. -/
def Mach.failTask (m : Mach) (b : Nat) (cause : Cause) (src access flags pos va pa : Nat) : Mach :=
  let k := m.bank b
  if k.status == .empty || k.status == .retiring then m
  else
    let r : FaultRec :=
      { cause := cause.code, src := src, access := access, flags := flags, core := coreId b, taskId := k.taskId,
        pos := pos, va := va, pa := pa, detail := 0, gangId := (match k.task with | some t => t.gangId | none => 0),
        bank := none, queue := none, submission := none, vec := none }
    ((m.addRecord k.part r).modBank b (fun k =>
      { k with trec0 := word (cause.code + src * 2 ^ 8 + pos * 2 ^ 16), trec1 := word va })).beginRetire b cause

/-- The first RMARK entry with no access before it that is not performed at `.pkg` (R340). -/
def readyMark : List Acc → Option Acc
  | [] => none
  | a :: as => if a.kind == .rmark then some a else if a.kind.isMark || a.sent then readyMark as else none

/-- Forming the records of RMARK entries whose older accesses of K have been performed (R340). -/
def Mach.formMarks : Nat → Mach → Nat → Mach
  | 0, m, _ => m
  | n + 1, m, b =>
    match readyMark (m.bank b).k.accs with
    | none => m
    | some a =>
      let k := m.bank b
      let m1 := (m.modSeq b .K (fun s => { s with accs := s.accs.filter (fun x => x.id != a.id) })).trim b .K
      Mach.formMarks n (m1.logWrite k.part (bitOf (m.pcaptOf b) 0)
        (markRecord a.x a.fn 2 a.pos (fld k.mbox.toNat 96 32) (coreId b) 0)) b

/-- An entry leaves a queue; MARKs, FENCEs and RMARK records that waited for it alone are done with (R123, R340). -/
def Mach.dropAcc (m : Mach) (b : Nat) (q : Seq) (id : Nat) : Mach :=
  let m1 := (m.modSeq b q (fun s => { s with accs := s.accs.filter (fun x => x.id != id) })).trim b q
  if q == .K then m1.formMarks (m1.bank b).k.accs.length b else m1

/-- The kind of an access as a record names it (R179). -/
def AccKind.access : AccKind → Kind
  | .store => .write
  | .atom | .red | .redx => .atomic
  | _ => .read

/-- Uncorrectable data, or a peer that no port reaches, for a sequencer's access (R175, R359). -/
def Mach.eccuAccess (m : Mach) (b : Nat) (q : Seq) (a : Acc) (pa : Nat) : Mach :=
  (m.dropAcc b q a.id).failTask b .eccu q.idx a.kind.access.code 18 a.pos a.va pa

/-! ## Eligibility -/

/-- A read event in a queue (R116, R120). -/
def AccKind.isRead : AccKind → Bool
  | .load | .atom | .red | .redx | .rdx => true
  | _ => false

/-- A write event in a queue. -/
def AccKind.isWrite : AccKind → Bool
  | .store | .atom | .red | .redx => true
  | _ => false

/-- The entries before an id, and the entry. -/
def findAcc (id : Nat) : List Acc → Option (List Acc × Acc)
  | [] => none
  | a :: as => if a.id = id then some ([], a) else (findAcc id as).map (fun r => (a :: r.1, r.2))

/-- A byte of the youngest older unperformed store that covers it (R121). -/
def forwardByte (older : List Acc) (pa : Nat) : Option Byte :=
  older.foldl (fun r a =>
    if a.kind == .store && decide (a.pa ≤ pa) && decide (pa < a.pa + a.n) then a.data[pa - a.pa]? else r) none

/-- How a read stands to the older unperformed writes of its sequencer (R121). -/
inductive Source where
  | memory | forward (bs : List Byte) | wait
  deriving Repr

/-- The source of a read (R121). -/
def readSource (older : List Acc) (pa n : Nat) : Source :=
  let bs := (List.range n).map (fun i => forwardByte older (pa + i))
  if bs.all (fun b => b.isSome) && decide (0 < n) then .forward (bs.map (fun b => b.getD 0))
  else if older.any (fun a => a.kind.isWrite && overlaps a.pa a.n pa n) then .wait
  else .memory

/-- The bytes that K's L1 serves (R99, R122). -/
def Mach.l1Hit (m : Mach) (b : Nat) (q : Seq) (a : Acc) : Option (List Byte) :=
  if q == .K && decide (a.sc ≤ 1) && a.kind == .load then (m.core (coreOf b)).l1Bytes a.pa a.n else none

/-- A read may be performed: the load queue is FIFO (R120), MARK holds it back, but not where the L1 serves it (R122). An atomic
whose read half has been performed is no older read. -/
def mayRead (older : List Acc) (hit : Bool) : Bool :=
  !(older.any (fun a => a.kind.inLq && !a.half && !(hit && a.kind.isMark)))

/-- A write may be performed (R120): no older read, no MARK, no older write of the same home slice. -/
def Dev.mayWrite (d : Dev) (part : Option Nat) (older : List Acc) (a : Acc) : Bool :=
  !(older.any (fun o => (o.kind.isRead && !o.half) || o.kind.isMark ||
    (o.kind.isWrite && d.home o.pa part == d.home a.pa part) || (a.kind.inLq && !a.half && o.kind.inLq && !o.half)))

/-! ## Completion -/

/-- An entry leaves the queues and the counters. -/
def Mach.leave (m : Mach) (b : Nat) (q : Seq) (id ldc stc : Nat) : Mach :=
  (m.dropAcc b q id).modBank b (fun k =>
    { k with ldc := k.ldc - ldc, stc := k.stc - stc })

/-- The values that a load's bytes give its destination (R240). -/
def loadValues (a : Acc) (bs : List Byte) : List Word :=
  if a.n = 32 then (List.range 4).map (fun i => word (leNat ((bs.drop (8 * i)).take 8)))
  else if a.signed then [BitVec.ofInt 64 (sext (8 * a.n) (leNat bs))]
  else [word (leNat bs)]

/-- SZ of a size in bytes. -/
def szOf (n : Nat) : Nat := if n = 32 then 4 else Nat.log2 n

/-- A load ends: order-dependent reads are captured or replayed (R370), the value is delivered (R240). -/
def Mach.endLoad (m : Mach) (b : Nat) (q : Seq) (a : Acc) (bs : List Byte) : Mach :=
  let r := m.orderRead b a.pos (szOf a.n) 0 a.va bs
  (r.1.leave b q a.id 1 0).deliver b q a.dst a.id (loadValues a r.2)

/-- L1 effects of a K read served from its home slice (R99): the line is filled whole, which the hot-page tracker does not count
again (R110). -/
def Mach.l1AfterRead (m : Mach) (b : Nat) (q : Seq) (a : Acc) (bs : List Byte) : Mach :=
  if q != .K then m
  else if 2 ≤ a.sc then m.l1Refresh (coreOf b) a.pa bs
  else if (m.poisoned (a.pa / 64 * 64) 64).isSome then m
  else
    let r := m.readPhys ((m.bank b).by b).counted a.ca (a.pa / 64 * 64) 64
    r.1.l1Fill (coreOf b) (a.pa / 64 * 64) r.2

/-- L1 effects of a K read of the peer window (R99): the bytes that came fill the line in part (log 93). -/
def Mach.l1AfterPeer (m : Mach) (b : Nat) (q : Seq) (a : Acc) (bs : List Byte) : Mach :=
  if q != .K then m else if 2 ≤ a.sc then m.l1Refresh (coreOf b) a.pa bs else m.l1Fill (coreOf b) a.pa bs

/-- L1 effects of a K store or RED in the peer window as it is sent (R99): a store updates a valid copy; what a RED makes of the
word is not known on this side, so the copy leaves (log 93). An ATOM's copy is updated as its old value comes. -/
def Mach.l1AtSend (m : Mach) (b : Nat) (q : Seq) (a : Acc) : Mach :=
  if q != .K || a.kind == .atom then m
  else if a.kind == .store then m.l1Refresh (coreOf b) a.pa a.data
  else m.modCore (coreOf b) (fun k => { k with l1 := tdel k.l1 (a.pa / 64) })

/-- Whether the access is to a sector that cannot be read (R363). -/
def Mach.readPoison (m : Mach) (a : Acc) : Option Nat := if isHbm a.pa then m.poisoned a.pa a.n else none

/-- The request that a sequencer's access sends to a peer (R357, R359). -/
def Mach.peerSend (m : Mach) (b : Nat) (q : Seq) (a : Acc) (opc fn : Nat) (data : List Byte) : Mach :=
  match m.sendRequest b q.idx a.id opc (szOf a.n + (if a.n = 32 then 16 else 0)) fn a.pa 0 a.n a.pos a.va data with
  | some m' =>
    let m1 := m'.modSeq b q (fun s =>
      { s with accs := s.accs.map (fun x => if x.id = a.id then { x with sent := true } else x) })
    if q == .K then m1.formMarks (m1.bank b).k.accs.length b else m1
  | none => m.eccuAccess b q a a.pa

/-! ## Exact cells -/

/-- A cell's value (R249). -/
def cellValue (f64 : Bool) (bs : List Byte) : Val :=
  let s := cellBytes f64
  match leNat (bs.drop (s - 8)) with
  | 0 => .fin (sext (8 * (s - 8)) (leNat (bs.take (s - 8)))) (if f64 then 1074 else 149)
  | 1 => .inf false
  | 2 => .inf true
  | _ => .nan

/-- A value in the layout of a cell: a finite value that N cannot hold becomes an infinity (R249). -/
def cellOf (f64 : Bool) (v : Val) : List Byte :=
  let s := cellBytes f64
  let w := 8 * (s - 8)
  match v with
  | .fin _ _ =>
    let n := v.atScale (if f64 then 1074 else 149)
    if -(2 : Int) ^ (w - 1) ≤ n ∧ n < (2 : Int) ^ (w - 1) then leBytes (s - 8) (wrapInt w n) ++ leBytes 8 0
    else leBytes (s - 8) 0 ++ leBytes 8 (if n < 0 then 2 else 1)
  | .inf neg => leBytes (s - 8) 0 ++ leBytes 8 (if neg then 2 else 1)
  | .nan => leBytes (s - 8) 0 ++ leBytes 8 3

/-- The cap of RDX (R249). -/
def cellCap (f64 : Bool) : Val := .ofInt (2 ^ (if f64 then 1400 else 200))

/-- What RDX returns (R249). -/
def rdxValue (f64 : Bool) (mode : Nat) (bs : List Byte) : Word :=
  let c := cellValue f64 bs
  let c' := match c with
    | .fin n _ => if (cellCap f64).le c.abs then .inf (decide (n < 0)) else c
    | c => c
  word (round (if f64 then .f64 else .f32) (Rnd.ofCode mode) false 0 c')

/-- A floating operand of REDX (R249). -/
def redxOperand (f64 : Bool) (x : Word) : Val := if f64 then fmtF64.value x.toNat else fmtF32.value (x.toNat % 2 ^ 32)

/-! ## Atomics -/

/-- The new value of an atomic on n bytes (R247). -/
def atomNew (fn n : Nat) (old x w : Nat) : Nat :=
  let bits := 8 * n
  let x := x % 2 ^ bits
  match fn with
  | 0 => (old + x) % 2 ^ bits
  | 1 => Nat.land old x
  | 2 => Nat.lor old x
  | 3 => Nat.xor old x
  | 4 => if sext bits old ≤ sext bits x then old else x
  | 5 => if sext bits old ≤ sext bits x then x else old
  | 6 => Nat.min old x
  | 7 => Nat.max old x
  | 8 => x
  | _ => if old = x then w % 2 ^ bits else old

/-! ## The events of a sequencer -/

/-- The lines of K's L1 that a range covers, page by page of its leaves (R242). -/
def Mach.rinvLines (m : Mach) (part va len : Nat) : List Nat :=
  (List.range ((va + len + 63) / 64 - va / 64)).filterMap (fun i =>
    match m.walkRoot none part ((va / 64 + i) * 64) with
    | (_, .ok lf) => some ((lf.pbase + (va / 64 + i) * 64 % pageBytes lf.size) / 64)
    | (_, .error _) => none)

/-- RINV takes effect (R242). -/
def Mach.rinv (m : Mach) (b : Nat) (a : Acc) : Mach :=
  m.modCore (coreOf b) (fun c =>
    if a.fn = 4 then { c with l1 := [] }
    else if a.n = 0 then c
    else
      let gone := m.rinvLines (m.bank b).part a.va a.n
      { c with l1 := c.l1.filter (fun l => !(gone.contains l.1)) })

/-- The pages of a retention range whose leaves are readable (R245). -/
def Mach.pinPages (m : Mach) (part va lsize : Nat) : List (Nat × Nat) :=
  (List.range (2 ^ (lsize - 12))).filterMap (fun i =>
    match m.translateLeaf part (va + 4096 * i) .read with
    | .ok x => some (va + 4096 * i, x.pa)
    | .error _ => none)

/-- A walk for one of the pages of a range waits for the host (R342). -/
def Mach.walksHeld (m : Mach) (part va n : Nat) : Bool :=
  (List.range n).any (fun i =>
    match (m.walkRoot none part (va + 4096 * i)).2 with
    | .error .held => true
    | _ => false)

/-- A queued RINV, RPIN or RUNPIN can take effect: no walk of its range waits (R342). -/
def Mach.rangeHeld (m : Mach) (b : Nat) (a : Acc) : Bool :=
  a.n != 0 && m.walksHeld (m.bank b).part (a.va / 4096 * 4096)
    (if a.kind == .pin then 2 ^ (a.n - 12) else (a.va % 4096 + a.n + 4095) / 4096)

/-- RPIN or RUNPIN takes effect (R98, R244, R245). -/
def Mach.pinEffect (m : Mach) (b : Nat) (a : Acc) : Mach :=
  let p := (m.bank b).part
  m.modPart p (fun t =>
    if a.n = 0 then { t with pins := tdel t.pins a.fn }
    else { t with pins := tput t.pins a.fn { va := a.va, lsize := a.n, pages := m.pinPages p a.va a.n } })

/-- What an atomic or exact-cell update writes, from the bytes it read (R247, R249). -/
def Acc.newBytes (a : Acc) (bs : List Byte) : List Byte :=
  if a.kind == .redx then cellOf (a.fn == 1) ((cellValue (a.fn == 1) bs).add (redxOperand (a.fn == 1) a.x))
  else leBytes a.n (atomNew a.fn a.n (leNat bs) a.x.toNat a.w.toNat)

/-- The read half of an atomic or exact-cell update is performed at the home slice (R116, R247): its new bytes are fixed, and
ATOM's old value is delivered. -/
def Mach.rmwRead (m : Mach) (b : Nat) (q : Seq) (a : Acc) : Mach :=
  let r := m.readPhys ((m.bank b).by b) a.ca a.pa a.n
  let m1 := r.1.modSeq b q (fun s => { s with accs := s.accs.map (fun x =>
    if x.id = a.id then { x with half := true, data := a.newBytes r.2 } else x) })
  if a.kind == .atom then
    let r2 := m1.orderRead b a.pos (szOf a.n) 1 a.va (leBytes a.n (leNat r.2))
    (r2.1.modBank b (fun k => { k with ldc := k.ldc - 1 })).deliver b q a.dst a.id [word (leNat r2.2)]
  else m1

/-- The write half of an atomic or exact-cell update is performed (R116, R120); K updates its L1 copies. -/
def Mach.rmwWrite (m : Mach) (b : Nat) (q : Seq) (a : Acc) : Mach :=
  let m1 := m.writePhys ((m.bank b).byUnit b q.idx a.id).counted a.ca a.sc a.pa a.data
  let m2 := if q == .K then
      (List.range ((a.n + 63) / 64)).foldl (fun m i =>
        m.l1Refresh (coreOf b) (a.pa + 64 * i) ((a.data.drop (64 * i)).take 64)) m1
    else m1
  m2.leave b q a.id 0 1

/-- Older writes of the sequencer overlap an access. -/
def overlapsOlder (older : List Acc) (a : Acc) : Bool := older.any (fun o => o.kind.isWrite && overlaps o.pa o.n a.pa a.n)

/-- Uncorrectable data: the read waits for its delivery (R175), and in a task that is being retired it ends. -/
def Mach.poisonedRead (m : Mach) (b : Nat) (q : Seq) (a : Acc) (ldc stc : Nat) : Mach :=
  if (m.bank b).status == .retiring then m.leave b q a.id ldc stc else m

/-- The read of an access of a sequencer is performed (R118, R240): LD, LDQ, RDX, the read half of an atomic, and RINV's place in
the queue. An RDX or an atomic waits for older overlapping writes of its sequencer (log 94). -/
def Mach.performRead (m : Mach) (b : Nat) (q : Seq) (id : Nat) : Mach :=
  match findAcc id ((m.bank b).seq q).accs with
  | none => m
  | some (older, a) =>
    let hit := m.l1Hit b q a
    if !(mayRead older hit.isSome) || a.sent || a.half then m
    else
      match a.kind with
      | .rinv => if a.fn != 4 && m.rangeHeld b a then m else (m.rinv b a).leave b q id 0 0
      | .rdx =>
        if overlapsOlder older a || m.readHeld ((m.bank b).by b) a.ca a.pa a.n then m
        else if (m.readPoison a).isSome then m.poisonedRead b q a 1 0
        else
          let r := m.readPhys ((m.bank b).by b) a.ca a.pa a.n
          let f64 := bitOf a.fn 3
          let v := rdxValue f64 (a.fn % 8) r.2
          let r2 := r.1.orderRead b a.pos (if f64 then 3 else 2) 2 a.va (leBytes (if f64 then 8 else 4) v.toNat)
          (r2.1.leave b q id 1 0).deliver b q a.dst a.id [word (leNat r2.2)]
      | .atom | .red | .redx =>
        if isPeer a.pa || overlapsOlder older a || m.storeHeld ((m.bank b).by b) a.ca a.sc a.pa a.n then m
        else if (m.readPoison a).isSome then m.poisonedRead b q a (b2n (a.kind == .atom)) 1
        else m.rmwRead b q a
      | .load =>
        match readSource older a.pa a.n, hit with
        | .wait, _ => m
        | .forward bs, _ => m.endLoad b q a bs
        | .memory, some bs => m.endLoad b q a bs
        | .memory, none =>
          if isPeer a.pa then (if m.capHeld b a.pa 1 then m else m.peerSend b q a 1 0 [])
          else if m.readHeld ((m.bank b).by b) a.ca a.pa a.n then m
          else if (m.readPoison a).isSome then m.poisonedRead b q a 1 0
          else
            let m1 := if a.sc = 5 then m.writebackLine (some (m.bank b).part) (a.pa / 64) else m
            let r := m1.readPhys ((m.bank b).by b) a.ca a.pa a.n
            (r.1.l1AfterRead b q a r.2).endLoad b q a r.2
      | _ => m

/-- The write of an access is at its place (R118): in the peer window it is sent, and it leaves its queue unless SC 5 waits for
the peer (R361). -/
def Mach.peerStore (m : Mach) (b : Nat) (q : Seq) (a : Acc) : Mach :=
  let m1 := (match a.kind with
    | .atom => m.peerSend b q a 3 a.fn (leBytes 8 a.x.toNat ++ leBytes 8 a.w.toNat)
    | .red => m.peerSend b q a 4 a.fn (leBytes 8 a.x.toNat)
    | _ => m.peerSend b q a 2 0 a.data).l1AtSend b q a
  if a.sc = 5 then m1
  else if a.kind == .atom then m1.modBank b (fun k => { k with stc := k.stc - 1 })
  else m1.leave b q a.id 0 1

/-- The write of an access of a sequencer is performed (R118): ST, STQ, the write half of ATOM, RED and REDX, a request in the
peer window, and the place of RPIN and RUNPIN. -/
def Mach.performWrite (m : Mach) (b : Nat) (q : Seq) (id : Nat) : Mach :=
  match findAcc id ((m.bank b).seq q).accs with
  | none => m
  | some (older, a) =>
    if !(m.dev.mayWrite (some (m.bank b).part) older a) || a.sent then m
    else
      match a.kind with
      | .pin => if m.rangeHeld b a then m else (m.pinEffect b a).leave b q id 0 0
      | .store | .atom | .red | .redx =>
        if isPeer a.pa then (if m.capHeld b a.pa 1 then m else m.peerStore b q a)
        else if a.kind != .store then (if a.half && !(m.hostHolds a.pa a.n) then m.rmwWrite b q a else m)
        else if m.storeHeld ((m.bank b).by b) a.ca a.sc a.pa a.n then m
        else
          let m1 := m.writePhys ((m.bank b).byUnit b q.idx a.id) a.ca a.sc a.pa a.data
          (if q == .K then m1.l1Refresh (coreOf b) a.pa a.data else m1).leave b q id 0 1
      | _ => m

/-- The entry of a sequencer that an uncorrectable read belongs to, by its word. -/
def SeqState.accAt (s : SeqState) (pos : Nat) : Option Acc := s.accs.find? (fun a => a.pos == pos && a.kind.isRead)

/-- The engine queue of a unit in a record: copy queues are units 4 to 7, trails from 8 on (R179). -/
def engineQueue (unit : Nat) : Nat := if unit < 8 then unit - 4 else unit - 8

/-- Uncorrectable data is delivered to a read (R175): the task is retired with ECCU, naming the reading word's sequencer
(units 0 to 3) or an engine (units from 4). -/
def Mach.eccuDelivery (m : Mach) (b unit pos : Nat) (pa : Option Nat) : Mach :=
  if 4 ≤ unit then m.failTask b .eccu 4 (engineQueue unit % 16 * 16) 18 0 0 (pa.getD 0)
  else
    match ((m.bank b).seq (Seq.ofIdx unit)).accAt pos with
    | some a => m.eccuAccess b (Seq.ofIdx unit) a (pa.getD ((m.readPoison a).getD 0 * 32))
    | none => m.failTask b .eccu unit 0 18 pos 0 (pa.getD 0)

/-- ECCU_DATA_DELIVERY (R175). -/
def execEccuDataDelivery (bank unit pos : Nat) (pa : Option Nat) (s : State) : Host.Outcome State Fault Refusal :=
  commit s ((Mach.of s).eccuDelivery bank unit pos pa)

end Sys2Proof.Machine
end

