-- ==== Sys2Proof/Machine/Tiles.lean ====
section
/-! DEFINITION. Tiles: local memory (R101), tiles (R269) and masks (R270) as bytes, and the rows of trails (R102). -/

namespace Sys2Proof.Machine

/-! ## Local memory -/

/-- Row r of a bank's half of local memory; every byte reads 0 until it is written (R41). -/
def VecState.lrow (v : VecState) (r : Nat) : List Byte := tget (List.replicate 256 0) v.lmem r

/-- Bytes of local memory in the bank's view (R101). -/
def VecState.lread (v : VecState) (o n : Nat) : List Byte :=
  (List.range n).map (fun i => (v.lrow ((o + i) / 256)).getD ((o + i) % 256) 0)

/-- Writing bytes of local memory, row by row. -/
def VecState.lwrite (v : VecState) (o : Nat) (bs : List Byte) : VecState :=
  (List.range ((o + bs.length + 255) / 256 - o / 256)).foldl (fun v i =>
    let r := o / 256 + i
    let old := v.lrow r
    { v with lmem := tput v.lmem r ((List.range 256).map (fun c =>
        if o ≤ 256 * r + c ∧ 256 * r + c < o + bs.length then bs.getD (256 * r + c - o) 0 else old.getD c 0)) }) v

/-! ## Trails -/

/-- A trail number of a bank. -/
def Bank.trail (k : Bank) (t : Nat) : Trail := tget .start k.trails t

/-- Changing a trail number. -/
def Mach.modTrail (m : Mach) (b t : Nat) (f : Trail → Trail) : Mach :=
  m.modBank b (fun k => { k with trails := tput k.trails t (f (k.trail t)) })

/-- The current setting of a trail number, while it is set (R263). -/
def Trail.current (t : Trail) : Option TrailGen := if t.isSet then t.gens.getLast? else none

/-- The current setting as words other than VLDW and VSTW see it: a TREL frees the number at its issue, on the same clock too
(R265, R300). -/
def Bank.trailNow (k : Bank) (t : Nat) : Option TrailGen := if k.trels.contains t then none else (k.trail t).current

/-- Changing the setting with a given uid. -/
def Trail.modGen (t : Trail) (uid : Nat) (f : TrailGen → TrailGen) : Trail :=
  { t with gens := t.gens.map (fun g => if g.uid = uid then f g else g) }

/-- The local-memory offset of the slot of tensor row j (R263). -/
def TrailDesc.slotAt (d : TrailDesc) (j : Nat) : Nat := d.ring + j % d.ringrows * d.rowlen

/-- The address of tensor row j (R263). -/
def TrailGen.rowVa (g : TrailGen) (j : Nat) : Nat := (((g.base : Int) + (j : Int) * g.desc.stride) % 2 ^ 64).toNat

/-- The stream register bound to a trail (R267). -/
def Bank.trailQ (k : Bank) (t : Nat) : Option Nat := (List.range 16).find? (fun n => k.qbound n == .trail t)

/-- A row of a setting has arrived. -/
def TrailGen.has (g : TrailGen) (j : Nat) : Bool := tfind g.rows j == some .arrived

end Sys2Proof.Machine
end

