-- ==== Sys2Proof/Machine/Engine.lean ====
section
/-! DEFINITION. Engine: copy-queue and trail commands (R256 to R268): their issue, their events, page faults of engines
(R178), and the events that sequencers and engines share (LOAD_PERFORMED, STORE_PERFORMED). -/

namespace Sys2Proof.Machine

/-! ## Issue of copy-queue commands -/

/-- A copy queue of a bank. -/
def Bank.copy (k : Bank) (n : Nat) : CopyQueue := tget .start k.copyq n

/-- Changing a copy queue. -/
def Mach.modCopy (m : Mach) (b n : Nat) (f : CopyQueue → CopyQueue) : Mach :=
  m.modBank b (fun k => { k with copyq := tput k.copyq n (f (k.copy n)) })

/-- A copy queue holds 16 commands (R256). -/
def Bank.copyFull (k : Bank) (n : Nat) : Bool := decide (16 ≤ (k.copy n).cmds.length)

/-- The stream register bound IN to a copy queue (R267). -/
def Bank.inQ (k : Bank) (n : Nat) : Option Nat := (List.range 16).find? (fun q => k.qbound q == .copyIn n)

/-- The stream register bound OUT to a copy queue (R267). -/
def Bank.outQ (k : Bank) (n : Nat) : Option Nat := (List.range 16).find? (fun q => k.qbound q == .copyOut n)

/-- A command as it enters its queue. -/
def Ctx.cmd (c : Ctx) (kind : CmdKind) (f : QF) (da sa len rows : Nat) : Cmd :=
  { kind := kind, crc := f.crc.toNat, da := da, sa := sa, len := len, rows := rows, ds := 0, ss := 0,
    esz := 2 ^ fld f.fn.toNat 0 2, ix := bitOf f.fn.toNat 2, seed := 0, ord := c.k.nextId, pos := c.s.pos,
    started := false, reads := [], writes := [], buf := [], idxs := [], hashed := 0, pushed := 0 }

/-- A command enters its queue and CPC (R227, R256). -/
def Mach.queueCmd (m : Mach) (c : Ctx) (n : Nat) (d : Cmd) : Mach :=
  (m.modBank c.b (fun k => { k with nextId := k.nextId + 1, cpc := k.cpc + 1 })).modCopy c.b n (fun q =>
    { q with cmds := q.cmds ++ [d] })

/-- A copy-family word: the stall of a full queue, the operands DA, SA and LN in order, and the word's own checks. -/
def copyWord (i : Instr) (f : QF) (s : State) (k : Ctx → Mach → Word → Word → Word → Act) :
    Host.Outcome State Fault Refusal :=
  issueWord i s (fun c m =>
    if c.k.copyFull f.qn.toNat then .stall
    else operands c m [f.da, f.sa, f.ln] 0 0 (fun m vs => k c m (opnd vs 0) (opnd vs 1) (opnd vs 2)))

/-- Queueing a command as the word's effect. -/
def Ctx.issueCmd (c : Ctx) (m : Mach) (f : QF) (d : Cmd) : Act := .done (m.queueCmd c f.qn.toNat d) 1 none

/-- CPY (R259, R260). -/
def execCpy (f : QF) (s : State) : Host.Outcome State Fault Refusal :=
  copyWord (.cpy f) f s (fun c m d a n =>
    if 2 ^ 40 < n.toNat then .trap (c.trap .illegal) else c.issueCmd m f (c.cmd .cpy f d.toNat a.toNat n.toNat 1))

/-- CPY.SNK (R259, R260); with the SRC bit too it is ILLEGAL. -/
def execCpySnk (f : QF) (s : State) : Host.Outcome State Fault Refusal :=
  copyWord (.cpySnk f) f s (fun c m _ a n =>
    if 2 ^ 40 < n.toNat || f.fn == 3 || n.toNat % 8 != 0 then .trap (c.trap .illegal)
    else if (c.k.inQ f.qn.toNat).isNone then .trap (c.trap .qovf)
    else c.issueCmd m f (c.cmd .snk f 0 a.toNat n.toNat 1))

/-- CPY.SRC (R259, R260). -/
def execCpySrc (f : QF) (s : State) : Host.Outcome State Fault Refusal :=
  copyWord (.cpySrc f) f s (fun c m d _ n =>
    if 2 ^ 40 < n.toNat || n.toNat % 8 != 0 then .trap (c.trap .illegal)
    else if (c.k.outQ f.qn.toNat).isNone then .trap (c.trap .qovf)
    else c.issueCmd m f (c.cmd .src f d.toNat 0 n.toNat 1))

/-- The row step of CPY2: the step of an address register, or ROWLEN (R261). -/
def SeqState.rowStep (s : SeqState) (f : RegF) (rowlen : Nat) : Nat :=
  if isA f then (s.areg (f.toNat - 32)).step.toNat else rowlen

/-- CPY2 (R261). -/
def execCpy2 (f : QF) (s : State) : Host.Outcome State Fault Refusal :=
  copyWord (.cpy2 f) f s (fun c m d a n =>
    let rl := fld n.toNat 0 32
    let rows := fld n.toNat 32 32
    if 2 ^ 40 < rl * rows then .trap (c.trap .illegal)
    else c.issueCmd m f { c.cmd .cpy2 f d.toNat a.toNat rl rows with ds := c.s.rowStep f.da rl, ss := c.s.rowStep f.sa rl })

/-- GATH and SCAT (R261): at most 2^24 elements, indices from the register bound OUT. -/
def indexWord (i : Instr) (kind : CmdKind) (f : QF) (s : State) : Host.Outcome State Fault Refusal :=
  copyWord i f s (fun c m d a n =>
    if 2 ^ 24 < n.toNat then .trap (c.trap .illegal)
    else if (c.k.outQ f.qn.toNat).isNone then .trap (c.trap .qovf)
    else c.issueCmd m f (c.cmd kind f d.toNat a.toNat n.toNat 1))

/-- GATH (R261). -/
def execGath (f : QF) (s : State) : Host.Outcome State Fault Refusal := indexWord (.gath f) .gath f s

/-- SCAT (R261). -/
def execScat (f : QF) (s : State) : Host.Outcome State Fault Refusal := indexWord (.scat f) .scat f s

/-- CRCQ.SUM (R261). -/
def execCrcqSum (f : QF) (s : State) : Host.Outcome State Fault Refusal :=
  copyWord (.crcqSum f) f s (fun c m _ a n =>
    if 2 ^ 40 < n.toNat then .trap (c.trap .illegal) else c.issueCmd m f (c.cmd .crcSum f 0 a.toNat n.toNat 1))

/-- CRCQ.PUT (R261). -/
def execCrcqPut (f : QF) (s : State) : Host.Outcome State Fault Refusal :=
  copyWord (.crcqPut f) f s (fun c m d _ _ =>
    if d.toNat % 4 != 0 then .trap { c.trap .align with va := d.toNat, access := .write }
    else c.issueCmd m f (c.cmd .crcPut f d.toNat 0 4 1))

/-- CRCQ.SEED (R261). -/
def execCrcqSeed (f : QF) (s : State) : Host.Outcome State Fault Refusal :=
  copyWord (.crcqSeed f) f s (fun c m _ a _ =>
    c.issueCmd m f { c.cmd .crcSeed f 0 0 0 1 with seed := a })

/-! ## A command's events -/

/-- The sectors of a range, as events of a command (R116). -/
def sectorChunks : Nat → Nat → Nat → Nat → List Chunk
  | 0, _, _, _ => []
  | fuel + 1, off, va, n =>
    if n = 0 then []
    else
      let k := Nat.min n (32 - va % 32)
      { off := off, va := va % 2 ^ 64, n := k, sent := false } :: sectorChunks fuel (off + k) (va + k) (n - k)

/-- The sectors of a range whose length bounds their number. -/
def chunksOf (off va n : Nat) : List Chunk := sectorChunks (n / 32 + 2) off va n

/-- The contiguous elements of a GATH or SCAT, each one event where it lies within one sector (R116, R261). -/
def elemChunks (va esz count : Nat) : List Chunk := (List.range count).flatMap (fun i => chunksOf (i * esz) (va + i * esz) esz)

/-- The bytes of a command in its own order (R261). -/
def Cmd.total (d : Cmd) : Nat :=
  match d.kind with
  | .cpy2 => d.len * d.rows
  | .gath | .scat => d.len * d.esz
  | .crcSeed => 0
  | _ => d.len

/-- The extra read of a `.CRCC` (R258): the four bytes at source + length. -/
def Cmd.crccReads (d : Cmd) : List Chunk := if d.crc = 3 then chunksOf d.total (d.sa + d.total) 4 else []

/-- The reads that a command has from its start. -/
def Cmd.startReads (d : Cmd) : List Chunk :=
  (match d.kind with
   | .cpy | .snk | .crcSum => chunksOf 0 d.sa d.len
   | .cpy2 => (List.range d.rows).flatMap (fun r => chunksOf (r * d.len) (d.sa + r * d.ss) d.len)
   | .scat => elemChunks d.sa d.esz d.len
   | _ => []) ++ d.crccReads

/-- The writes that a command has from its start. -/
def Cmd.startWrites (d : Cmd) : List Chunk :=
  match d.kind with
  | .cpy | .src => chunksOf 0 d.da d.len
  | .cpy2 => (List.range d.rows).flatMap (fun r => chunksOf (r * d.len) (d.da + r * d.ds) d.len)
  | .gath => elemChunks d.da d.esz d.len
  | .crcPut => chunksOf 0 d.da 4
  | _ => []

/-- Reads of the command's data, the extra read of `.CRCC` left out. -/
def Cmd.dataReads (d : Cmd) : List Chunk := d.reads.filter (fun c => decide (c.off < d.total))

/-- All indices have been popped (R261). -/
def Cmd.indexed (d : Cmd) : Bool :=
  match d.kind with
  | .gath | .scat => decide (d.len ≤ d.idxs.length)
  | _ => true

/-- The lowest offset of a list of events, or the total. -/
def lowestOff (total : Nat) (cs : List Chunk) : Nat := cs.foldl (fun a c => Nat.min a c.off) total

/-- The bytes read or popped without a gap from the start. -/
def Cmd.readUpTo (d : Cmd) : Nat :=
  match d.kind with
  | .gath => Nat.min (d.idxs.length * d.esz) (lowestOff d.total d.dataReads)
  | _ => lowestOff d.total d.dataReads

/-- The progress offset (R171, R257): the lowest sector not yet performed. -/
def Cmd.progress (d : Cmd) : Nat :=
  match d.kind with
  | .crcSum => d.readUpTo
  | .snk => if d.pushed = d.len then d.len else d.pushed - (d.sa + d.pushed) % 32
  | .scat => Nat.min (d.idxs.length * d.esz) (lowestOff d.total d.writes)
  | _ => lowestOff d.total d.writes

/-- A byte of a command's buffer. -/
def Cmd.byte (d : Cmd) (i : Nat) : Byte := tget 0 d.buf i

/-- Putting bytes into a command's buffer. -/
def Cmd.fill (d : Cmd) (off : Nat) (bs : List Byte) : Cmd :=
  { d with buf := (List.range bs.length).foldl (fun t i => tput t (off + i) (bs.getD i 0)) d.buf }

/-- The queue's CRC covers exactly the bytes below the progress offset (R257, R258). -/
def CopyQueue.hashTo (q : CopyQueue) (d : Cmd) (p : Nat) : CopyQueue × Cmd :=
  if d.crc = 0 || p ≤ d.hashed then (q, { d with hashed := Nat.max p d.hashed })
  else
    ({ q with crc := crcBytes q.crc ((List.range (p - d.hashed)).map (fun i => d.byte (d.hashed + i))) },
      { d with hashed := p })

/-- Changing the running command of a copy queue; the CRC follows its progress. -/
def Mach.modHead (m : Mach) (b n : Nat) (f : Cmd → Cmd) : Mach :=
  m.modCopy b n (fun q =>
    match q.cmds with
    | [] => q
    | d :: ds =>
      let d1 := f d
      let r := q.hashTo d1 d1.progress
      { r.1 with cmds := r.2 :: ds })

/-- The unit number of a trail; copy queue n is unit 4 + n. -/
def trailUnit (t : Nat) : Nat := 8 + t

/-- What a unit has begun is given up: it meets a refusal while its task is being retired already (R174; log 95). -/
def Mach.dropUnit (m : Mach) (b unit : Nat) : Mach :=
  if unit < 8 then m.modCopy b (unit - 4) (fun q => { q with cmds := [] })
  else m.modTrail b (unit - 8) (fun t => { t with gens := t.gens.map (fun g => { g with rows := [], sectors := [], retired := [] }) })

/-- The task is retired for what an engine finds (R256): SRC 4, the queue in ACCESS. -/
def Mach.failEngine (m : Mach) (b unit : Nat) (cause : Cause) (kind : Kind) (flags va pa : Nat) : Mach :=
  if (m.bank b).status == .retiring then m.dropUnit b unit
  else m.failTask b cause 4 (kind.code + engineQueue unit % 16 * 16) (2 + flags) 0 va pa

/-- Translating for an engine's event: `none` where a page fault stops the queue (ENGINE_PAGE_FAULT reports it), or where a walk
waits for the host (R342). -/
def Mach.engineXlate (m : Mach) (b unit va : Nat) (kind : Kind) : Mach × Option Xlat :=
  match m.xlate b false va kind with
  | (m', .ok x) => (m', some x)
  | (_, .error .held) => (m, none)
  | (_, .error (.page _ _)) => (m, none)
  | (_, .error .prot) => (m.failEngine b unit .prot kind 0 va 0, none)
  | (_, .error (.eccu pa)) => (m.failEngine b unit .eccu kind 16 va pa, none)

/-- SZ with its sector count for a request of a whole sector (R357). -/
def sectorSize : Nat := 4 + 16

/-- Where an engine reads: memory, a peer, or nowhere now. -/
inductive ReadAt where
  | got (m : Mach) (bs : List Byte)
  | sent (m : Mach)
  | no (m : Mach)

/-- One read event of an engine (R116, R359): `unit` and `id` name it in a request to a peer. -/
def Mach.unitRead (m : Mach) (b unit id : Nat) (c : Chunk) : ReadAt :=
  match m.engineXlate b unit c.va .read with
  | (m', none) => .no m'
  | (m', some x) =>
    if isPeer x.pa then
      if m'.capHeld b x.pa 1 then .no m
      else match m'.sendRequest b unit id 1 sectorSize 0 (x.pa / 32 * 32) (x.pa % 32) c.n 0 c.va [] with
      | some m2 => .sent m2
      | none => .no (m'.failEngine b unit .eccu .read 16 c.va x.pa)
    else if m'.readHeld ((m.bank b).by b) x.ca x.pa c.n then .no m
    else
      match (if isHbm x.pa then m'.poisoned x.pa c.n else none) with
      | some sec => .no (m'.failEngine b unit .eccu .read 16 c.va (sec * 32))
      | none =>
        let r := m'.readPhys ((m.bank b).by b) x.ca x.pa c.n
        .got r.1 r.2

/-- The naturally aligned accesses of 1 to 8 bytes that cover a part of a sector (R357). -/
def peerPieces : Nat → Nat → List Byte → List (Nat × List Byte)
  | 0, _, _ => []
  | fuel + 1, pa, bs =>
    if bs.isEmpty then []
    else
      let k := if pa % 8 = 0 ∧ 8 ≤ bs.length then 8 else if pa % 4 = 0 ∧ 4 ≤ bs.length then 4
        else if pa % 2 = 0 ∧ 2 ≤ bs.length then 2 else 1
      (pa, bs.take k) :: peerPieces fuel (pa + k) (bs.drop k)

/-- An engine's write into the peer window (R357, R359): performed at `.pkg` when its port has accepted it. -/
def Mach.peerWrite (m : Mach) (b unit pa va : Nat) (bs : List Byte) : Option Mach :=
  if bs.length = 32 ∧ pa % 32 = 0 then m.sendRequest b unit 0 2 sectorSize 0 pa 0 0 0 va bs
  else
    (peerPieces 33 pa bs).foldl (fun r p =>
      match r with
      | some m => m.sendRequest b unit 0 2 (szOf p.2.length) 0 p.1 0 0 0 (va + p.1 - pa) p.2
      | none => none) (some m)

/-- One write event of an engine (R116, R118, R359); `none` where it cannot be performed now. -/
def Mach.unitWrite (m : Mach) (b unit ord : Nat) (c : Chunk) (bs : List Byte) : Mach × Bool :=
  match m.engineXlate b unit c.va .write with
  | (m', none) => (m', false)
  | (m', some x) =>
    if isPeer x.pa then
      if m'.capHeld b x.pa (peerPieces 33 x.pa bs).length then (m, false)
      else match m'.peerWrite b unit x.pa c.va bs with
      | some m2 => (m2, true)
      | none => (m'.failEngine b unit .eccu .write 16 c.va x.pa, false)
    else if m'.storeHeld ((m.bank b).by b) x.ca 0 x.pa c.n then (m, false)
    else (m'.writePhys ((m.bank b).byUnit b unit ord) x.ca 0 x.pa bs, true)

/-- The engines push after the sequencers and the matrix engine of a clock (R103); on a bank that does not run they act in
their own time. -/
def Bank.enginesTurn (k : Bank) : Bool := k.status != .running || k.phase == .engines

/-- Pushing the elements that SNK has read, while its register has room (R260). On a bank at rest no sector begins (R171). -/
def pushSnk : Nat → Bank → Nat → Cmd → Bank × Cmd
  | 0, k, _, d => (k, d)
  | fuel + 1, k, q, d =>
    if d.pushed + 8 ≤ d.readUpTo ∧ 1 ≤ k.room q ∧ (k.status = .running ∨ (d.sa + d.pushed) % 32 ≠ 0 ∧ d.pushed ≠ 0) then
      let v := word (leNat ((List.range 8).map (fun i => d.byte (d.pushed + i))))
      pushSnk fuel (k.push q { val := v, wait := none, ready := k.clk }) q { d with pushed := d.pushed + 8 }
    else (k, d)

/-- SNK's pushes as far as they go; a queue that a page fault stopped performs nothing (R178). -/
def Mach.snkProgress (m : Mach) (b n : Nat) : Mach :=
  let k := m.bank b
  match (k.copy n).cmds, k.inQ n, (k.copy n).fault with
  | d :: _, some q, none =>
    if d.kind == .snk && d.started && k.enginesTurn then
      let r := pushSnk 64 k q d
      (m.setBank b r.1).modHead b n (fun _ => r.2)
    else m
  | _, _, _ => m

/-- The bytes of a read event have come: the buffer takes them, and SNK pushes what it can. -/
def Mach.chunkRead (m : Mach) (b n off : Nat) (bs : List Byte) : Mach :=
  (m.modHead b n (fun d => { d.fill off bs with reads := d.reads.filter (fun c => c.off != off) })).snkProgress b n

/-- An element of a GATH or SCAT begins: its index is popped (R261). Answers the address. -/
def Mach.beginElement (m : Mach) (b n : Nat) (d : Cmd) : Option (Mach × Nat) :=
  match (m.bank b).outQ n with
  | none => none
  | some q =>
    match (m.bank b).pop q with
    | none => none
    | some (v, k') =>
      let base := if d.kind == .gath then d.sa else d.da
      let a := (((base : Int) + v.toInt * (if d.ix then d.esz else 1)) % 2 ^ 64).toNat
      some ((m.setBank b k').modHead b n (fun d => { d with idxs := d.idxs ++ [v] }), a)

/-- A read event of the running command of a copy queue is performed (R116, R260). -/
def Mach.readChunk (m : Mach) (b n : Nat) (c : Chunk) : Mach :=
  match (m.bank b).copy n |>.cmds with
  | [] => m
  | d :: _ =>
    if c.sent || (decide (d.total ≤ c.off) && !(d.dataReads.isEmpty && d.writes.isEmpty && d.indexed)) then m
    else
      match m.unitRead b (4 + n) c.off c with
      | .no m' => m'
      | .sent m' => m'.modHead b n (fun d =>
          { d with reads := d.reads.map (fun r => if r.off = c.off then { r with sent := true } else r) })
      | .got m' bs => m'.chunkRead b n c.off bs

/-- LOAD_PERFORMED for a copy queue: the event at byte `off` of the command's order; a GATH element that is next in order
begins here. At rest a command reads nothing further (step 4 of R171). -/
def Mach.engineRead (m : Mach) (b n off : Nat) : Mach :=
  let k := m.bank b
  match (k.copy n).cmds, (k.copy n).fault with
  | d :: _, none =>
    if !d.started || k.status != .running then m
    else
      match d.reads.find? (fun c => c.off == off) with
      | some c => m.readChunk b n c
      | none =>
        if d.kind == .gath && decide (d.idxs.length < d.len) && off == d.idxs.length * d.esz then
          match m.beginElement b n d with
          | none => m
          | some (m1, a) =>
            if a % d.esz != 0 then m1.failEngine b (4 + n) .align .read 0 a 0
            else
              let c : Chunk := { off := off, va := a, n := d.esz, sent := false }
              (m1.modHead b n (fun d => { d with reads := d.reads ++ [c] })).readChunk b n c
        else m
  | _, _ => m

/-- Popping elements of SRC until a byte offset is covered, as far as they are in place (R260). -/
def popSrc : Nat → Bank → Nat → Cmd → Nat → Bank × Cmd
  | 0, k, _, d, _ => (k, d)
  | fuel + 1, k, q, d, upto =>
    if d.pushed < upto then
      match k.pop q with
      | none => (k, d)
      | some (v, k') => popSrc fuel k' q { d.fill d.pushed (leBytes 8 v.toNat) with pushed := d.pushed + 8 } upto
    else (k, d)

/-- Whether a write event of a command may be made: its bytes are there, no source byte still to be read lies where it
writes (R260), and no earlier write of the command that overlaps it is open (R261). -/
def Cmd.mayWrite (d : Cmd) (c : Chunk) : Bool :=
  (match d.kind with
   | .src => decide (c.off + c.n ≤ d.pushed)
   | .crcPut => true
   | .gath => d.indexed && d.dataReads.all (fun r => !(overlaps r.off r.n c.off c.n))
   | _ => d.dataReads.all (fun r => !(overlaps r.off r.n c.off c.n))) &&
  d.dataReads.all (fun r => !(overlaps r.va r.n c.va c.n)) &&
  !((d.writes.takeWhile (fun w => w.off != c.off)).any (fun w => overlaps w.va w.n c.va c.n))

/-- A write event of the running command is performed (R116, R118). -/
def Mach.writeChunk (m : Mach) (b n : Nat) (c : Chunk) : Mach :=
  match (m.bank b).copy n |>.cmds with
  | [] => m
  | d :: _ =>
    if !(d.mayWrite c) then m
    else
      match m.unitWrite b (4 + n) d.ord c ((List.range c.n).map (fun i => d.byte (c.off + i))) with
      | (m', false) => m'
      | (m', true) => m'.modHead b n (fun d =>
          { d with writes := d.writes.filter (fun w => !(w.off == c.off && w.va == c.va)) })

/-- STORE_PERFORMED for a copy queue: the write at byte `off` of the command's order; a SCAT element that is next in order
begins here, and SRC pops what it needs. At rest only sector writes whose bytes are there are performed (step 4 of R171). -/
def Mach.engineWrite (m : Mach) (b n off : Nat) : Mach :=
  let k := m.bank b
  match (k.copy n).cmds, (k.copy n).fault with
  | d :: _, none =>
    if !d.started then m
    else
      match d.writes.find? (fun c => c.off == off) with
      | some c =>
        let m1 := match d.kind, k.outQ n, k.status with
          | .src, some q, .running =>
            let r := popSrc 64 k q d (c.off + c.n)
            (m.setBank b r.1).modHead b n (fun _ => r.2)
          | _, _, _ => m
        m1.writeChunk b n c
      | none =>
        if d.kind == .scat && decide (d.idxs.length < d.len) && off == d.idxs.length * d.esz && k.status == .running then
          match m.beginElement b n d with
          | none => m
          | some (m1, a) =>
            if a % d.esz != 0 then m1.failEngine b (4 + n) .align .write 0 a 0
            else
              let c : Chunk := { off := off, va := a, n := d.esz, sent := false }
              (m1.modHead b n (fun d => { d with writes := d.writes ++ [c] })).writeChunk b n c
        else m
  | _, _ => m

/-- A command begins (R256): the head of its queue, on a running bank. -/
def Mach.startCmd (m : Mach) (b n : Nat) : Mach :=
  let k := m.bank b
  match (k.copy n).cmds with
  | [] => m
  | d :: _ =>
    if d.started || k.status != .running || (k.copy n).fault.isSome then m
    else
      (m.modCopy b n (fun q =>
        { q with crc := if d.kind == .crcSeed then BitVec.ofNat 32 d.seed.toNat
                        else if d.crc = 2 then 0xFFFFFFFF else q.crc })).modHead b n (fun d =>
        let d1 := { d with started := true, reads := d.startReads, writes := d.startWrites }
        if d.kind == .crcPut then d1.fill 0 (leBytes 4 (crcFinish (k.copy n).crc).toNat) else d1)

/-- Every event of a command has been performed (R116, R260). -/
def Cmd.finished (d : Cmd) : Bool :=
  d.started && d.reads.isEmpty && d.writes.isEmpty && d.indexed && (d.kind != .snk || d.pushed == d.len)

/-- The bytes a command read from memory, in its order, and those of the extra read of a `.CRCC` behind them (R258, R369). -/
def Cmd.readBytes (d : Cmd) : List Byte := (List.range (d.total + (if d.crc = 3 then 4 else 0))).map d.byte

/-- Whether a command read bytes outside its task's sets (R369). -/
def Mach.undeclaredRead (m : Mach) (b : Nat) (d : Cmd) : Bool :=
  match d.kind with
  | .src | .crcPut | .crcSeed => false
  | .gath => d.crccReads.any (fun c => !(m.declared b c.va)) ||
      d.idxs.any (fun v => !(m.declared b (((d.sa : Int) + v.toInt * (if d.ix then d.esz else 1)) % 2 ^ 64).toNat))
  | _ => d.startReads.any (fun c => !(m.declared b c.va))

/-- The DIGEST of an engine command, captured or compared (R369, R371). -/
def Mach.digestCmd (m : Mach) (b n : Nat) (d : Cmd) : Mach :=
  let pc := m.pcaptOf b
  if (!bitOf pc 0 && !bitOf pc 1) || !(m.undeclaredRead b d) then m
  else
    let v := word (leNat ((shake256 8 d.readBytes)))
    let m1 := if bitOf pc 1 then m.replayCompare b 8 d.pos v else m
    if bitOf pc 0 then m1.capture (m.bank b).part v n 8 d.pos (m.bank b).taskId (coreId b) 0 else m1

/-- ENGINE_COMMAND_COMPLETE for a copy queue: the compare of `.CRCC` (R258), CPC, and the next command may begin. -/
def Mach.endCmd (m0 : Mach) (b n : Nat) : Mach :=
  let m := m0.snkProgress b n
  match ((m.bank b).copy n).cmds, ((m.bank b).copy n).fault with
  | d :: ds, none =>
    if !d.finished then m
    else
      let m1 := m.digestCmd b n d
      let q := (m1.bank b).copy n
      let want := leNat ((List.range 4).map (fun i => d.byte (d.total + i)))
      let bad := d.crc == 3 && want != (crcFinish q.crc).toNat
      (m1.modCopy b n (fun q =>
        { q with cmds := ds, cmpf := q.cmpf || bad, ncmp := if bad then Nat.min (q.ncmp + 1) 255 else q.ncmp })).modBank b
        (fun k => { k with cpc := k.cpc - 1 })
  | _, _ => m

/-! ## Trails: issue -/

/-- The commands queued at a trail number: a TRSET counts until it is performed (R256). -/
def Trail.queued (t : Trail) : Nat := t.gens.foldl (fun n g => n + g.cmds.length + (if g.opened then 0 else 1)) 0

/-- The queue of a trail number is full (R256). -/
def Trail.full (t : Trail) : Bool := decide (16 ≤ t.queued)

/-- The rings of two settings overlap. -/
def TrailDesc.ringOverlaps (a b : TrailDesc) : Bool :=
  overlaps a.ring (a.ringrows * a.rowlen) b.ring (b.ringrows * b.rowlen)

/-- The descriptor suits R263. -/
def TrailDesc.ok (d : TrailDesc) : Bool :=
  decide (d.dir ≤ 1) && d.rowlen % 4 == 0 && decide (4 ≤ d.rowlen) && decide (d.rowlen ≤ 4096) &&
    decide (1 ≤ d.ringrows) && decide (d.ringrows ≤ 2048) && decide (1 ≤ d.depth) &&
    decide (d.depth ≤ Nat.min 256 d.ringrows) && d.ring % 4 == 0 && decide (d.ring + d.ringrows * d.rowlen ≤ 0x100000)

/-- The settings of a bank that are current (`true`) or released but not yet performed. -/
def Bank.settings (k : Bank) (isCurrent : Bool) : List TrailGen :=
  k.trails.flatMap (fun t => t.2.gens.filter (fun g => g.released != isCurrent))

/-- The setting that a TRSET makes (R263). -/
def Ctx.setting (c : Ctx) (d : TrailDesc) (base : Word) : TrailGen :=
  { uid := c.k.nextId, desc := d, base := base.toNat, oldest := 0, opened := false, batch := [],
    rows := if d.dir = 0 then (List.range d.ringrows).map (fun j => (j, .pending)) else [],
    sectors := [], retired := [], cmds := [], released := false, closing := false, donePush := [] }

/-- The rows that a setting adds to TOC at its TRSET (R263). -/
def TrailDesc.rowsAdded (d : TrailDesc) : Nat := if d.dir = 0 then d.ringrows else 0

/-- A TRSET waits for a released ring that it overlaps, or for TOC (R227, R263). -/
def Bank.setWaits (k : Bank) (d : TrailDesc) : Bool :=
  d.ok && ((k.settings false).any (fun g => g.desc.ringOverlaps d) || decide (65535 < k.toc + d.rowsAdded))

/-- The checks of TRSET on a trail number and a descriptor (R263). -/
def Bank.setRefused (k : Bank) (t : Nat) (d : TrailDesc) : Bool :=
  (k.trailNow t).isSome || !d.ok || (k.settings true).any (fun g => g.desc.ringOverlaps d)

/-- TRSET (R263): it stalls first, and its checks are made on the clock on which it would issue (R169). -/
def execTrset (f : QF) (s : State) : Host.Outcome State Fault Refusal :=
  issueWord (.trset f) s (fun c m =>
    let t := f.qn.toNat
    if (c.k.trail t).full then .stall
    else operands c m [f.sa] 0 0 (fun m vs =>
      match c.k.descs[f.imm.toNat]? with
      | none => .trap (c.trap .trailx)
      | some d =>
        if c.k.setWaits d then .stall
        else if c.k.setRefused t d then .trap (c.trap .trailx)
        else
          .done ((m.modTrail c.b t (fun r => { r with gens := r.gens ++ [c.setting d (opnd vs 0)], isSet := true })).modBank c.b
            (fun k => { k with nextId := k.nextId + 1, toc := k.toc + d.rowsAdded,
                               trels := k.trels.filter (fun x => x != t) })) 1 none))

/-- Queueing a command on the current setting of a trail. -/
def Mach.queueTrail (m : Mach) (c : Ctx) (t uid : Nat) (adv : Option Nat) : Mach :=
  (m.modTrail c.b t (fun r => r.modGen uid (fun g =>
    { g with cmds := g.cmds ++ [{ adv := adv, ord := c.k.nextId }] }))).modBank c.b (fun k =>
      { k with nextId := k.nextId + 1 })

/-- TRADV (R264). -/
def execTradv (f : QF) (s : State) : Host.Outcome State Fault Refusal :=
  issueWord (.tradv f) s (fun c m =>
    let t := f.qn.toNat
    if (c.k.trail t).full then .stall
    else operands c m [f.ln] 0 0 (fun m vs =>
      let n := (opnd vs 0).toNat + f.imm.toNat
      match c.k.trailNow t with
      | none => .trap (c.trap .trailx)
      | some g =>
        if n = 0 || decide (g.desc.ringrows < n) then .trap (c.trap .trailx)
        else if 65535 < c.k.toc + n then .stall
        else .done ((m.queueTrail c t g.uid (some n)).modBank c.b (fun k => { k with toc := k.toc + n })) 1 none))

/-- TREL (R265): the number is free at issue; a VLDW or VSTW of the same clock still sees the window (R300). -/
def execTrel (f : QF) (s : State) : Host.Outcome State Fault Refusal :=
  issueWord (.trel f) s (fun c m =>
    let t := f.qn.toNat
    if (c.k.trail t).full then .stall
    else
      match c.k.trailNow t with
      | none => .trap (c.trap .trailx)
      | some g =>
        .done (((m.queueTrail c t g.uid none).modTrail c.b t (fun r =>
          r.modGen g.uid (fun g => { g with released := true }))).modBank c.b (fun k => { k with trels := t :: k.trels })) 1 none)

/-! ## Trails: performance -/

/-- An older matrix entry still has rows of the setting to read (R306). -/
def Bank.rowsHeld (k : Bank) (uid ord : Nat) : Bool :=
  k.mat.queue.any (fun e => decide (e.ord < ord) && e.refs.any (fun r => r.uid == uid))

/-- Rows of a setting whose transfer has begun and is not performed. -/
def TrailGen.outstanding (g : TrailGen) : Nat := g.sectors.length

/-- The state of a row of the window. -/
def TrailGen.rowState (g : TrailGen) (j : Nat) : RowState := tget .free g.rows j

/-- TRADV of an input trail is performed (R264). Answers the setting and the rows that leave TOC. -/
def TrailGen.advanceIn (g : TrailGen) (n ord : Nat) : TrailGen × Nat :=
  let old := (List.range n).map (fun i => g.oldest + i)
  let dropped := (old.filter (fun j => g.rowState j == .pending)).length
  let open_ := old.filter (fun j => g.rowState j == .begun)
  ({ g with
      oldest := g.oldest + n, retired := g.retired ++ open_, cmds := g.cmds.tail,
      batch := g.batch ++ [(g.oldest + g.desc.ringrows, ord)],
      rows := (g.rows.filter (fun r => decide (g.oldest + n ≤ r.1))) ++
        (List.range n).map (fun i => (g.oldest + g.desc.ringrows + i, .pending)) }, dropped)

/-- A drain ring's next command may begin: every row of its predecessor has been written (R256, R264). -/
def TrailGen.drained (g : TrailGen) : Bool := g.rows.all (fun r => r.2 != .writing)

/-- TRADV of a drain ring is performed (R264). -/
def TrailGen.advanceOut (g : TrailGen) (n ord : Nat) : TrailGen :=
  { g with oldest := g.oldest + n, cmds := g.cmds.tail, batch := g.batch ++ [(g.oldest, ord)],
           rows := (List.range n).foldl (fun t i => tput t (g.oldest + i) .writing) g.rows }

/-- TREL is performed (R265): rows not begun and slots not named are dropped. Answers the rows that leave TOC. -/
def TrailGen.close (g : TrailGen) : TrailGen × Nat :=
  ({ g with closing := true, cmds := g.cmds.tail,
            rows := g.rows.filter (fun r => r.2 == .begun || r.2 == .writing) },
   (g.rows.filter (fun r => r.2 == .pending)).length)

/-- A row of a trail is followed by no earlier row that may still complete (R268). -/
def TrailGen.mayPush (g : TrailGen) (j : Nat) : Bool :=
  !(g.rows.any (fun r => decide (r.1 < j) && (r.2 == .pending || r.2 == .begun || r.2 == .writing)))

/-- Pushing the indices of completed rows in ascending order, while the bound register has room (R268). -/
def pushRows : Nat → Bank → Nat → TrailGen → Bank × TrailGen
  | 0, k, _, g => (k, g)
  | fuel + 1, k, q, g =>
    match g.donePush with
    | [] => (k, g)
    | (j, _) :: rest =>
      if g.mayPush j ∧ 1 ≤ k.room q then
        pushRows fuel (k.push q { val := word j, wait := none, ready := k.clk }) q { g with donePush := rest }
      else (k, g)

/-- The pushes of a trail's oldest setting as far as they go; without a binding there is none to make. -/
def Mach.trailPushes (m : Mach) (b t : Nat) : Mach :=
  let k := m.bank b
  match (k.trail t).gens with
  | [] => m
  | g :: gs =>
    match k.trailQ t with
    | none => m.modTrail b t (fun r => { r with gens := { g with donePush := [] } :: gs })
    | some q =>
      if !k.enginesTurn then m
      else
        let r := pushRows 64 k q g
        (m.setBank b r.1).modTrail b t (fun r' => { r' with gens := r.2 :: gs })

/-- A released setting that has nothing outstanding is gone (R265). -/
def Mach.dropClosed (m : Mach) (b t : Nat) : Mach :=
  match ((m.bank b).trail t).gens with
  | g :: gs =>
    if g.closing && g.sectors.isEmpty && g.rows.isEmpty && g.donePush.isEmpty then m.modTrail b t (fun r => { r with gens := gs }) else m
  | [] => m

/-- The next row whose transfer may begin: the first that is pending, or a named slot that is not being written (R102, R263,
R264). -/
def TrailGen.nextRow (g : TrailGen) : Option Nat :=
  (g.rows.find? (fun r => r.2 == .pending || (r.2 == .writing && (tfind g.sectors r.1).isNone))).map (fun r => r.1)

/-- Rows of a trail that leave TOC. -/
def Mach.tocLeave (m : Mach) (b n : Nat) : Mach := m.modBank b (fun k => { k with toc := k.toc - n })

/-- Changing the oldest setting of a trail. -/
def Mach.modGen (m : Mach) (b t : Nat) (f : TrailGen → TrailGen) : Mach :=
  m.modTrail b t (fun r => match r.gens with
    | [] => r
    | g :: gs => { r with gens := f g :: gs })

/-- The sectors of a tensor row. -/
def TrailGen.rowChunks (g : TrailGen) (j : Nat) : List Chunk := chunksOf 0 (g.rowVa j) g.desc.rowlen

/-- A row's transfer may begin: at most DEPTH are outstanding (R102), all of one command, since a command's events come after
those of its predecessor (R256), and a bound register has room (R268). -/
def TrailGen.mayBegin (g : TrailGen) (j room : Nat) : Bool :=
  decide (g.outstanding < g.desc.depth) && decide (1 ≤ room) && g.sectors.all (fun r => g.batchOf r.1 == g.batchOf j)

/-- A row's transfer begins. -/
def TrailGen.begin (g : TrailGen) (j : Nat) : TrailGen :=
  { g with sectors := tput g.sectors j (g.rowChunks j),
           rows := if g.rowState j = .pending then tput g.rows j .begun else g.rows }

/-- The next row of a trail begins where nothing holds it; at rest only a row that a started matrix entry waits for (R171). -/
def Mach.startRow (m : Mach) (b t : Nat) (g : TrailGen) : Mach :=
  let k := m.bank b
  match g.nextRow with
  | none => m
  | some j =>
    let room := match k.trailQ t with | some q => k.room q | none => 1
    if g.mayBegin j room && (k.status == .running || (k.wantedRows g.uid).contains j) then m.modGen b t (fun g => g.begin j) else m

/-- A queued command of a trail is performed (R263 to R265); a TREL or a TRADV of a drain ring waits for the rows of its
predecessor. -/
def Mach.trailCommand (m : Mach) (b t : Nat) (g : TrailGen) (c : TrailCmd) : Mach :=
  match c.adv with
  | some n =>
    if g.desc.dir = 0 then
      let r := g.advanceIn n c.ord
      (m.modGen b t (fun _ => r.1)).tocLeave b r.2
    else if g.drained then m.modGen b t (fun _ => g.advanceOut n c.ord)
    else m.startRow b t g
  | none =>
    if g.desc.dir != 0 && !g.drained then m.startRow b t g
    else
      let r := g.close
      ((m.modGen b t (fun _ => r.1)).tocLeave b r.2).dropClosed b t

/-- ENGINE_COMMAND_START for a trail: its oldest queued command is performed where nothing holds it, behind the sequencers of
the clock (R300), else its next row begins (R102, R256, R263 to R265, R306). A trail that a page fault stopped does nothing
(R178). -/
def Mach.startTrail (m0 : Mach) (b t : Nat) : Mach :=
  if ((m0.bank b).trail t).fault.isSome then m0
  else
    let m := (m0.trailPushes b t).dropClosed b t
    let k := m.bank b
    match (k.trail t).gens with
    | [] => m
    | g :: _ =>
      if g.closing then m
      else if !g.opened then
        (if k.status == .running && k.enginesTurn then m.modGen b t (fun g => { g with opened := true }) else m)
      else
        match g.cmds with
        | [] => m.startRow b t g
        | c :: _ =>
          if k.status != .running || !k.enginesTurn || k.rowsHeld g.uid c.ord then m.startRow b t g else m.trailCommand b t g c

/-- The sector event of a trail that an id names: row · ROWLEN + offset. -/
def TrailGen.sectorAt (g : TrailGen) (id : Nat) : Option (Nat × Chunk) :=
  ((tget [] g.sectors (id / g.desc.rowlen)).find? (fun c => c.off == id % g.desc.rowlen)).map (fun c => (id / g.desc.rowlen, c))

/-- A sector event of a row has been performed. -/
def TrailGen.sectorDone (g : TrailGen) (j off : Nat) : TrailGen :=
  { g with sectors := tput g.sectors j ((tget [] g.sectors j).filter (fun c => c.off != off)) }

/-- A sector event of a row has been sent to a peer. -/
def TrailGen.sectorSent (g : TrailGen) (j off : Nat) : TrailGen :=
  let mark := fun (x : Chunk) => if x.off = off then { x with sent := true } else x
  { g with sectors := tput g.sectors j ((tget [] g.sectors j).map mark) }

/-- A row has arrived (R263): in a setting that is being released it is dropped, and its element is still pushed (R268). -/
def TrailGen.arrive (g : TrailGen) (j : Nat) : TrailGen :=
  let rows := if g.closing then tdel g.rows j else tput g.rows j .arrived
  if g.retired.contains j then { g with sectors := tdel g.sectors j, retired := g.retired.filter (fun i => i != j) }
  else { g with sectors := tdel g.sectors j, rows := rows, donePush := tput g.donePush j true }

/-- A sector of a row has been fetched into its slot (R263). -/
def Mach.sectorRead (m : Mach) (b t j off : Nat) (bs : List Byte) : Mach :=
  match ((m.bank b).trail t).gens with
  | [] => m
  | g :: _ =>
    (m.modBank b (fun k => { k with vec := k.vec.lwrite (g.desc.slotAt j + off) bs })).modGen b t (fun g => g.sectorDone j off)

/-- LOAD_PERFORMED for a trail: one sector of a row whose fetch has begun (R116, R263). -/
def Mach.trailRead (m : Mach) (b t id : Nat) : Mach :=
  match ((m.bank b).trail t).gens, ((m.bank b).trail t).fault with
  | g :: _, none =>
    (match (if g.desc.dir = 0 then g.sectorAt id else none) with
     | none => m
     | some (j, c) =>
       if c.sent then m
       else
         match m.unitRead b (trailUnit t) id c with
         | .no m' => m'
         | .sent m' => m'.modGen b t (fun g => g.sectorSent j c.off)
         | .got m' bs => m'.sectorRead b t j c.off bs)
  | _, _ => m

/-- STORE_PERFORMED for a trail: one sector of a slot that is being written (R116, R264). -/
def Mach.trailWrite (m : Mach) (b t id : Nat) : Mach :=
  match ((m.bank b).trail t).gens, ((m.bank b).trail t).fault with
  | g :: _, none =>
    (match (if g.desc.dir = 0 then none else g.sectorAt id) with
     | none => m
     | some (j, c) =>
       match m.unitWrite b (trailUnit t) (g.batchOf j) c ((m.bank b).vec.lread (g.desc.slotAt j + c.off) c.n) with
       | (m', false) => m'
       | (m', true) => m'.modGen b t (fun g => g.sectorDone j c.off))
  | _, _ => m

/-- A row's transfer has begun and every sector of it has been performed. -/
def TrailGen.rowDone (g : TrailGen) (j : Nat) : Bool := tfind g.sectors j == some []

/-- TRAIL_ROW_ARRIVAL (R263): every sector of the row has been performed. It leaves TOC, and its index is pushed where the
trail is bound (R268); a row retired meanwhile is not named any more (R264). -/
def Mach.rowFetch (m : Mach) (b t j : Nat) : Mach :=
  match ((m.bank b).trail t).gens, ((m.bank b).trail t).fault with
  | g :: _, none =>
    if g.desc.dir != 0 || !(g.rowDone j) then m
    else
      ((((m.modGen b t (fun g => g.arrive j)).tocLeave b 1).trailPushes b t).dropClosed b t)
  | _, _ => m

/-- A slot has been written (R264). -/
def TrailGen.written (g : TrailGen) (j : Nat) : TrailGen :=
  { g with sectors := tdel g.sectors j, rows := tdel g.rows j, donePush := tput g.donePush j true }

/-- DRAIN_ROW_WRITTEN (R264): every sector of the slot's write has been performed. The slot is free and leaves TOC. -/
def Mach.drainRow (m : Mach) (b t j : Nat) : Mach :=
  match ((m.bank b).trail t).gens, ((m.bank b).trail t).fault with
  | g :: _, none =>
    if g.desc.dir = 0 || !(g.rowDone j) then m
    else
      (((m.modGen b t (fun g => g.written j)).tocLeave b 1).trailPushes b t).dropClosed b t
  | _, _ => m

/-! ## Joins and bindings -/

/-- QFENCE (R266): it issues, and younger words of its sequencer that reach memory or an engine wait. -/
def execQfence (f : QF) (s : State) : Host.Outcome State Fault Refusal :=
  issueWord (.qfence f) s (fun c m =>
    let v := f.imm.toNat
    if v = 0 then .trap (c.trap .illegal)
    else .done ((m.modBank c.b (fun k => { k with nextId := k.nextId + 1 })).modSeq c.b c.q (fun t =>
      { t with qfence := some { before := c.k.nextId, loads := bitOf v 4, stores := bitOf v 5,
                                copies := (List.range 4).filter (bitOf v), trails := bitOf v 6 } })) 1 none)

/-- A copy queue or trail is bound to some stream register. -/
def Bank.boundElsewhere (k : Bank) (q : QBinding) : Bool :=
  match q with
  | .copyIn n | .copyOut n => (List.range 16).any (fun r => k.qbound r == .copyIn n || k.qbound r == .copyOut n)
  | .trail t => (List.range 16).any (fun r => k.qbound r == .trail t)
  | .none => false

/-- What a binding names holds a queued command (R267). -/
def Bank.bindingBusy (k : Bank) (q : QBinding) : Bool :=
  match q with
  | .copyIn n | .copyOut n => !(k.copy n).cmds.isEmpty
  | .trail t => (k.trail t).queued != 0
  | .none => false

/-- Stream registers that a queued or running matrix entry names (R306). -/
def matrixQ : Instr → List Nat
  | .mldw f | .mmul f | .mrdq f => if f.sq then [f.ts.toNat] else []
  | .mmode f => if f.sq && bitOf f.fn.toNat 3 then [f.ts.toNat] else []
  | _ => []

/-- QBIND (R267). -/
def execQbind (f : QF) (s : State) : Host.Outcome State Fault Refusal :=
  issueWord (.qbind f) s (fun c m =>
    let n := fld f.imm.toNat 0 4
    let new : QBinding := match f.fn.toNat with
      | 0 => .copyIn f.qn.toNat
      | 1 => .copyOut f.qn.toNat
      | 2 => .trail f.qn.toNat
      | _ => .none
    let old := c.k.qbound n
    if c.k.bindingBusy new || (new == .none && c.k.bindingBusy old) ||
        c.k.mat.queue.any (fun e => (matrixQ e.word).contains n) then .stall
    else if f.fn.toNat ≤ 1 ∧ 3 < f.qn.toNat then .trap (c.trap .illegal)
    else if new == .none then
      if old == .none then .trap (c.trap .qovf)
      else .done (m.modBank c.b (fun k => { k with qbind := tput k.qbind n .none })) 1 none
    else if old != .none || c.k.boundElsewhere new then .trap (c.trap .qovf)
    else .done (m.modBank c.b (fun k => { k with qbind := tput k.qbind n new })) 1 none)

/-! ## Page faults of engines (R178) -/

/-- The first event of a list that a page fault refuses: its address, kind and offset. -/
def Mach.pageFault (m : Mach) (b : Nat) (cs : List (Chunk × Kind)) : Option (Chunk × Kind × Bool × Bool) :=
  cs.findSome? (fun c =>
    match (m.xlate b false c.1.va c.2).2 with
    | .error (.page mg mf) => some (c.1, c.2, mg, mf)
    | _ => none)

/-- The record of an engine's page fault (R178, R179). -/
def engineRecord (b : Nat) (k : Bank) (queue acc : Nat) (va : Nat) (kind : Kind) (mg mf : Bool) (detail : Nat) : FaultRec :=
  { cause := Cause.page.code, src := 4, access := kind.code + acc * 16, flags := 1 + b2n mg * 4 + b2n mf * 8,
    core := coreId b, taskId := k.taskId, pos := 0, va := va, pa := 0, detail := detail,
    gangId := (match k.task with | some t => t.gangId | none => 0), bank := some b, queue := some queue,
    submission := none, vec := none }

/-- The events of a copy command that may be the next to be performed. -/
def Cmd.faultEvents (d : Cmd) : List (Chunk × Kind) :=
  (d.reads.filter (fun c => !c.sent)).map (fun c => (c, Kind.read)) ++ d.writes.map (fun c => (c, Kind.write))

/-- The events of a trail's rows that may be the next to be performed, by row. -/
def TrailGen.faultEvents (g : TrailGen) : List (Chunk × Kind) :=
  g.sectors.flatMap (fun r => (r.2.filter (fun c => !c.sent)).map (fun c => (c, if g.desc.dir = 0 then Kind.read else Kind.write)))

/-- ENGINE_PAGE_FAULT (R178): queues 0 to 3 are copy queues, from 4 on trails. In a task that is being retired what has begun is
given up (log 95). -/
def Mach.enginePage (m : Mach) (b queue : Nat) : Mach :=
  let k := m.bank b
  if k.status == .empty then m
  else if queue < 4 then
    match (k.copy queue).cmds, (k.copy queue).fault with
    | d :: _, none =>
      if !d.started then m
      else
        (match m.pageFault b d.faultEvents with
         | none => m
         | some (c, kind, mg, mf) =>
           if k.status == .retiring then m.dropUnit b (4 + queue)
           else (m.addRecord k.part (engineRecord b k queue queue c.va kind mg mf d.progress)).modCopy b queue (fun q =>
             { q with fault := some 0 }))
    | _, _ => m
  else
    let t := queue - 4
    match (k.trail t).gens, (k.trail t).fault with
    | g :: _, none =>
      (match m.pageFault b g.faultEvents with
       | none => m
       | some (c, kind, mg, mf) =>
         if k.status == .retiring then m.dropUnit b (trailUnit t)
         else (m.addRecord k.part (engineRecord b k queue t c.va kind mg mf c.off)).modTrail b t (fun r =>
           { r with fault := some 0 }))
    | _, _ => m

/-! ## The rows of the opcode table -/

/-- ENGINE_COMMAND_START (R256): copy queues 0 to 3, trails from 4 on. -/
def execEngineCommandStart (bank queue : Nat) (s : State) : Host.Outcome State Fault Refusal :=
  commit s (if queue < 4 then (Mach.of s).startCmd bank queue else (Mach.of s).startTrail bank (queue - 4))

/-- ENGINE_COMMAND_COMPLETE (R260). -/
def execEngineCommandComplete (bank queue : Nat) (s : State) : Host.Outcome State Fault Refusal :=
  commit s ((Mach.of s).endCmd bank queue)

/-- ENGINE_PAGE_FAULT (R178). -/
def execEnginePageFault (bank queue : Nat) (s : State) : Host.Outcome State Fault Refusal :=
  commit s ((Mach.of s).enginePage bank queue)

/-- TRAIL_ROW_ARRIVAL (R263). -/
def execTrailRowArrival (bank trail row : Nat) (s : State) : Host.Outcome State Fault Refusal :=
  commit s ((Mach.of s).rowFetch bank trail row)

/-- DRAIN_ROW_WRITTEN (R264). -/
def execDrainRowWritten (bank trail row : Nat) (s : State) : Host.Outcome State Fault Refusal :=
  commit s ((Mach.of s).drainRow bank trail row)

/-- LOAD_PERFORMED (R118, R240): units 0 to 3 are K, L, X and D, units 4 to 7 the copy queues, units from 8 on the trails. -/
def execLoadPerformed (bank unit id : Nat) (s : State) : Host.Outcome State Fault Refusal :=
  let m := Mach.of s
  commit s (if unit < 4 then m.performRead bank (Seq.ofIdx unit) id
    else if unit < 8 then m.engineRead bank (unit - 4) id else m.trailRead bank (unit - 8) id)

/-- STORE_PERFORMED (R118): units as for LOAD_PERFORMED. -/
def execStorePerformed (bank unit id : Nat) (s : State) : Host.Outcome State Fault Refusal :=
  let m := Mach.of s
  commit s (if unit < 4 then m.performWrite bank (Seq.ofIdx unit) id
    else if unit < 8 then m.engineWrite bank (unit - 4) id else m.trailWrite bank (unit - 8) id)

end Sys2Proof.Machine
end

