-- ==== Sys2Proof/Machine/Frames.lean ====
section
/-! DEFINITION. Frames: the frame maps and requests for frames (R113), and leaves as the device itself rewrites them
(R111, R138). -/

namespace Sys2Proof.Machine

/-- Memory as it stands in the step. -/
def Mach.mem (m : Mach) : List Host.Cell := applyWrites m.mem0 m.writes

/-- The base of a map: 0 is the free-frame map, 1 the version map. -/
def Part.mapBase (p : Part) (map : Nat) : Nat := if map = 0 then p.fmapb else p.vmapb

/-- The bit of a 4 KiB frame in a map (R113): the byte at PA[39:15], the bit at PA[14:12]. -/
def Mach.mapBit (m : Mach) (base pa : Nat) : Bool := bitOf (m.byte (base + pa / 2 ^ 15 % 2 ^ 25)).toNat (pa / 2 ^ 12 % 8)

/-- The host holds a line of a map of the partition: what takes or returns a frame waits (R113, R342). -/
def Mach.mapsHeld (m : Mach) (part : Nat) : Bool :=
  [(m.dev.part part).fmapb, (m.dev.part part).vmapb].any (fun base => base != 0 && m.hostHolds base 0x1800000)

/-- Setting or clearing the bits of a run of `n` 4 KiB frames. -/
def Mach.setMapBits (m : Mach) (base pa n : Nat) (v : Bool) : Mach :=
  (List.range n).foldl (fun m i =>
    let f := pa + 4096 * i
    let a := base + f / 2 ^ 15 % 2 ^ 25
    let old := (m.byte a).toNat
    let bit := 2 ^ (f / 2 ^ 12 % 8)
    m.writeOwn a [BitVec.ofNat 8 (if bitOf old (f / 2 ^ 12 % 8) then (if v then old else old - bit) else if v then old + bit
      else old)]) m

/-- A 4 KiB frame is free in a map: its bit is set, and it lies in the partition's groups (R113). -/
def Mach.frameFree (m : Mach) (part base pa : Nat) : Bool :=
  isHbm pa && m.dev.groupOwner (groupOf pa) == some part && m.mapBit base pa

/-- The frames of a run are free in a map; a map at base 0 holds none (R113). -/
def Mach.runFree (m : Mach) (part base pa n : Nat) : Bool :=
  base != 0 && (List.range n).all (fun i => m.frameFree part base (pa + 4096 * i))

/-- The starts of aligned runs that the listed bytes of a map offer, in rising order. -/
def runStarts (base n : Nat) (cells : List Host.Cell) : List Nat :=
  (cells.filter (fun c => decide (base ≤ c.1) && decide (c.1 < base + 0x1800000))).flatMap (fun c =>
    (List.range 8).filterMap (fun i =>
      let pa := (c.1 - base) * 2 ^ 15 + i * 2 ^ 12
      if pa % (4096 * n) = 0 then some pa else none))

/-- The free run of lowest address on a die's stacks (R113). -/
def Mach.freeRun (m : Mach) (part map n die : Nat) : Option Nat :=
  let base := (m.dev.part part).mapBase map
  (runStarts base n m.mem).find? (fun pa => hbmDie pa == die && m.runFree part base pa n)

/-- Taking a frame: its bits are cleared in both maps (R113). -/
def Mach.takeFrame (m : Mach) (part pa n : Nat) : Mach :=
  let p := m.dev.part part
  let m1 := if p.fmapb = 0 then m else m.setMapBits p.fmapb pa n false
  if p.vmapb = 0 then m1 else m1.setMapBits p.vmapb pa n false

/-- A frame for a version or a placement: on its die, else on the lowest die that has one (R113). -/
def Mach.findFrame (m : Mach) (part map n die : Nat) : Option Nat :=
  match m.freeRun part map n die with
  | some f => some f
  | none => (List.range 4).findSome? (fun d => m.freeRun part map n d)

/-- The pseudo-channel of an HBM address within its stack: the group, and within it PA[9:8] XOR PA[13:12] (R93). Numbering the
64 of a stack group by group, as R367 names them, is DEDUCED (log 41). -/
def pchOf (pa : Nat) : Nat := fld pa 32 4 * 4 + Nat.xor (fld pa 8 2) (fld pa 12 2)

/-- A 4 KiB frame holds bytes of a pseudo-channel (R93). -/
def frameMeets (frame pch : Nat) : Bool := (List.range 16).any (fun u => pchOf (frame + 256 * u) == pch)

/-- The 4 KiB frames that hold a row (R366): frames of its stack in which its pseudo-channel has bytes (R93). -/
def Repair.frames (r : Repair) : List Nat :=
  ((Config.rowFrames r.stack r.pch r.bank r.row).map (fun f => r.stack * 2 ^ 36 + f % 2 ^ 24 * 4096)).filter (fun f =>
    frameMeets f r.pch)

/-- The frames of a run that hold a retired row (R366). -/
def Pkg.retiredIn (p : Pkg) (pa n : Nat) : List Nat :=
  (p.retiredRows.flatMap Repair.frames).filter (fun f => decide (pa ≤ f) && decide (f < pa + 4096 * n))

/-- Returning a frame to a map (R113), but for what holds a retired row (R366). -/
def Mach.returnFrame (m : Mach) (part map pa n : Nat) : Mach :=
  let base := (m.dev.part part).mapBase map
  if base = 0 then m
  else (m.dev.pkg.retiredIn pa n).foldl (fun m f => m.setMapBits base f 1 false) (m.setMapBits base pa n true)

/-- POOL of SCHED: the free 16 KiB frames of the version map, saturating (R149). -/
def Mach.pool (m : Mach) (part : Nat) : Nat :=
  let base := (m.dev.part part).vmapb
  Nat.min 0xFFFF ((runStarts base 4 m.mem).filter (fun pa => m.runFree part base pa 4)).length

/-- A frame request's refusal (R113): GIVE outside the groups, unaligned or of the wrong size; TAKE of a run that is not
free. -/
def Mach.freqRefused (m : Mach) (part : Nat) (v : Nat) : Bool :=
  let pa := fld v 12 40 * 4096
  let size := fld v 4 4
  let n := pageBytes size / 4096
  let base := (m.dev.part part).fbase
  if bitOf v 0 then decide (11 < size) || !(m.runFree part base pa n)
  else base == 0 || decide (11 < size) || pa % (4096 * n) != 0 || !isHbm pa || m.dev.groupOwner (groupOf pa) != some part ||
    (bitOf v 1 && size != 1)

/-- A frame request is carried out, on the map whose base stood when it began (R113): RES records the outcome and BUSY falls. It
waits while the host holds a line of the map (R342). -/
def Mach.freqDo (m : Mach) (part v : Nat) : Mach :=
  let base := (m.dev.part part).fbase
  if base != 0 && m.hostHolds base 0x1800000 then m
  else
    let bad := m.freqRefused part v
    let m1 := if bad then m else m.setMapBits base (fld v 12 40 * 4096) (pageBytes (fld v 4 4) / 4096) (!bitOf v 0)
    m1.modPart part (fun p => { p with fbusy := false, fres := if bad then 2 else 1 })

/-- A write of FREQ (R113): it starts a request, or sets ERR while one is in progress. -/
def Mach.freqWrite (m : Mach) (part : Nat) (v : Word) : Mach :=
  m.modPart part (fun p =>
    if p.fbusy then { p with ferr := true }
    else { p with freq := v &&& 0x000FFFFFFFFFF0F3, fbusy := true, fbase := p.mapBase (fld v.toNat 1 1) })

/-- FREQ_GIVE (R113): a request with OP GIVE is carried out; with none in progress the write comes first. -/
def execFreqGive (part : Nat) (value : Word) (s : State) : Host.Outcome State Fault Refusal :=
  let m := Mach.of s
  let m1 := if (m.dev.part part).fbusy then m else m.freqWrite part (value &&& ~~~1)
  let v := (m1.dev.part part).freq.toNat
  commit s (if bitOf v 0 then m else m1.freqDo part v)

/-- FREQ_TAKE (R113): a request with OP TAKE is carried out; with none in progress the write comes first. -/
def execFreqTake (part : Nat) (value : Word) (s : State) : Host.Outcome State Fault Refusal :=
  let m := Mach.of s
  let m1 := if (m.dev.part part).fbusy then m else m.freqWrite part (value ||| 1)
  let v := (m1.dev.part part).freq.toNat
  commit s (if bitOf v 0 then m1.freqDo part v else m)

/-! ## Leaves -/

/-- A leaf, found whatever its MIGR bit says: its entry's address and word. -/
def Mach.rawLeafGo (m : Mach) (part va : Nat) : List Nat → Nat → Option (Nat × Nat)
  | [], _ => none
  | l :: ls, tbl =>
    let ea := tbl + 8 * fld va (12 + 11 * l) 11
    let e := m.tableEntry part ea
    if !bitOf e 0 then none
    else if bitOf e 1 then (if leafMalformed e l then none else some (ea, e))
    else if tableMalformed e l then none
    else Mach.rawLeafGo m part va ls (fld e 12 40 * 2 ^ 12)

/-- The leaf of an address in a partition's tree. -/
def Mach.rawLeaf (m : Mach) (part va : Nat) : Option (Nat × Nat) := m.rawLeafGo part va [3, 2, 1, 0] (m.dev.part part).troot

/-- The frame of a leaf. -/
def leafFrame (e : Nat) : Nat := fld e 12 40 * 2 ^ 12 / pageBytes (fld e 8 4) * pageBytes (fld e 8 4)

/-- The bytes that a partition's tree gives a range, whatever its leaves allow, as the partition's home slices hold them;
unmapped bytes read 0. -/
def Mach.peek (m : Mach) (part va n : Nat) : List Byte :=
  (List.range n).map (fun i =>
    match m.rawLeaf part (va + i) with
    | some (_, e) => m.homeByte (some part) (leafFrame e + (va + i) % pageBytes (fld e 8 4))
    | none => 0)

/-- Bytes that a partition's tree gives a range, or the leaf entry of one, may not be read yet for the host's sake (R342). -/
def Mach.peekHeld (m : Mach) (part va n : Nat) : Bool :=
  (List.range n).any (fun i =>
    match m.rawLeaf part (va + i) with
    | some (ea, e) => m.hostHolds ea 8 || m.hostHolds (leafFrame e + (va + i) % pageBytes (fld e 8 4)) 1
    | none => false)

/-- The leaf entries that describe a page: their addresses (R105, R111). -/
def Mach.leavesOf (m : Mach) (part va : Nat) : List Nat :=
  match m.rawLeaf part va with
  | none => []
  | some (_, e) =>
    let size := pageBytes (fld e 8 4)
    let span := if fld e 8 4 ≤ 6 then 2 ^ 12 else 2 ^ 23
    let base := va / size * size
    ((List.range (Nat.max 1 (size / span))).filterMap (fun i => (m.rawLeaf part (base + i * span)).map (fun r => r.1)))

/-- A copy of a line takes bytes that were written through to the host. -/
def HostLine.through (l : HostLine) (o : Nat) (bs : List Byte) : HostLine :=
  let hit := inRun o bs.length
  { l with data := (List.range 64).map (fun i => if hit i then bs.getD (i - o) 0 else l.data.getD i 0),
           dirty := (List.range 64).map (fun i => !hit i && l.dirty.getD i false) }

/-- Writing a leaf entry through its home slice; watches do not compare it (R154). -/
def Mach.writeLeaf (m : Mach) (ea v : Nat) : Mach :=
  let bs := leBytes 8 v
  let upd := fun (l : Nat × HostLine) => if l.1 = ea / 64 then (l.1, l.2.through (ea % 64) bs) else l
  if isHostMem ea then
    { m.put ea bs with dev := { m.dev with parts := tmap (fun _ p => { p with hostLines := p.hostLines.map upd }) m.dev.parts } }
  else m.put ea bs

/-- The host holds the line of a leaf entry of a page, so that it cannot be rewritten yet (R342). -/
def Mach.leavesHeld (m : Mach) (leaves : List Nat) : Bool := leaves.any (fun ea => m.hostHolds ea 8)

/-- A leaf entry with MIGR set or cleared (R111). -/
def setMigr (e : Nat) (v : Bool) : Nat := if bitOf e 7 then (if v then e else e - 128) else if v then e + 128 else e

/-- A leaf entry with another frame (R111, R138). -/
def setFrame (e pa : Nat) : Nat := e - fld e 12 40 * 2 ^ 12 + pa / 2 ^ 12 % 2 ^ 40 * 2 ^ 12

/-! ## Shootdown (R108) -/

/-- An entry overlaps a virtual range of a partition. -/
def TlbEnt.hits (e : TlbEnt) (part : Nat) (whole : Bool) (lo len : Nat) : Bool :=
  e.part == part && (whole || overlaps' e.vbase (pageBytes e.size) lo len)
where
  /-- Two ranges overlap. -/
  overlaps' (a n b k : Nat) : Bool := decide (a < b + k) && decide (b < a + n)

/-- Step 1 of TINV (R108): every TLB, micro-TLB and table-entry cache drops its entries, and L1s that serve the partition
are invalidated (R100); what a walk found before is not used. Table-entry caches drop every entry of the partition, which R106 allows at any time. -/
def Mach.shootdown (m : Mach) (part : Nat) (whole : Bool) (lo len : Nat) : Mach :=
  let core := fun (_ : Nat) (k : CoreState) =>
    { k with tlb := k.tlb.filter (fun e => !(e.hits part whole lo len)),
             utlb := k.utlb.filter (fun e => !(e.hits part whole lo len)),
             tcache := k.tcache.filter (fun t => t.1 != part), l1 := if k.lastPart == some part then [] else k.l1 }
  let bank := fun (_ : Nat) (k : Bank) =>
    if k.part == part then k.mapSeqs (fun _ s => { s with walk := none }) else k
  { m with dev := { m.dev with cores := tmap core m.dev.cores, banks := tmap bank m.dev.banks } }

end Sys2Proof.Machine
end

