-- ==== Sys2Proof/Machine/Deps.lean ====
section
/-! DEFINITION. Deps: versions of plots (R134 to R139), watches that follow their bytes (R164), and the retirement of a
gang's members (R50, R51, R140). -/

namespace Sys2Proof.Machine

/-! ## Gangs -/

/-- A gang that has not retired (R135, R138). -/
def Gang.unretired (g : Gang) : Bool :=
  match g.stage with
  | .retired => false
  | .decided => false
  | .done => false
  | _ => true

/-- Unretired gangs of a partition that were submitted before a given one, to whichever die: the dependence units of the
dies share the versions of each plot and one order of submissions (DESIGN CHOICE, log 96). -/
def Dev.olderGangs (d : Dev) (g : Gang) : List Gang :=
  (d.gangs.map (fun e => e.2)).filter (fun h => h.part == g.part && decide (h.order < g.order) && h.unretired)

/-- Whether an unretired gang names a plot, in its view or still to be handled. -/
def Gang.names (g : Gang) (key : Nat) : Bool :=
  g.unretired && ((tfind g.view key).isSome || g.pending.any (fun p => plotKey g.part p.va == key) ||
    g.inPlace.any (fun p => plotKey g.part p.va == key))

/-! ## Watches that move (R164) -/

/-- Taking a watch's entries out of their slices, with the counted writes on their way to it. -/
def Mach.liftWatch (m : Mach) (h : Nat) : Mach × List CountedWrite :=
  let onTheWay := m.dev.slices.flatMap (fun s => s.2.arrivals.filter (fun a => a.handle == h))
  ({ m with dev := { m.dev with slices := tmap (fun _ s =>
      { s with watches := s.watches.filter (fun e => e.2.leadh != h),
               arrivals := s.arrivals.filter (fun a => a.handle != h) }) m.dev.slices } }, onTheWay)

/-- A WATCHX record for a watch (R163, R164, R179). -/
def Mach.watchRecord (m : Mach) (w : Watch) : Mach :=
  m.addRecord w.part { FaultRec.plain Cause.watchx.code 6 w.vbase 0 with detail := w.leadh }

/-- The entries of a watch move to the home slices of a new physical base; where a slice has no free entry the watch is
cleared as by WCLR, with a WATCHX record (R164; for a migration and a publication: DEDUCED, log 28). -/
def Mach.moveWatch (m : Mach) (w : Watch) (pbase : Nat) : Mach :=
  let r := m.liftWatch w.leadh
  let slices := r.1.dev.watchSlices (pbase * 32) w.size
  let free := slices.all (fun s => (r.1.slice s).freeWatch.isSome)
  if free && !slices.isEmpty then
    let lead := slices.getD 0 0
    let m1 := r.1.layWatch { w with pbase := pbase } slices (((r.1.slice lead).freeWatch).getD 0)
    m1.modSlice lead (fun s => { s with arrivals := s.arrivals ++ r.2 })
  else (if w.pend then m.clearWatch w.leadh true else r.1).watchRecord w

/-- Every lead entry. -/
def Dev.leads (d : Dev) : List Watch := d.slices.flatMap (fun s => (s.2.watches.filter (fun e => e.2.lead)).map (fun e => e.2))

/-- The watches whose range lies in a run of physical bytes. -/
def Dev.watchesIn (d : Dev) (base size : Nat) : List Watch :=
  d.leads.filter (fun w => decide (base ≤ w.pbase * 32) && decide (w.pbase * 32 < base + size))

/-- The watches of a page follow it to a new frame (R164). -/
def Mach.moveWatches (m : Mach) (old size new : Nat) : Mach :=
  (m.dev.watchesIn old size).foldl (fun m w => m.moveWatch w (w.pbase - old / 32 + new / 32)) m

/-! ## Versions -/

/-- The address of a plot. -/
def plotVa (key : Nat) : Nat := key % 2 ^ 42 * 2 ^ 14

/-- The partition of a plot. -/
def plotPart (key : Nat) : Nat := key / 2 ^ 42

/-- The list of a plot that its leaf alone describes (R135). -/
def Plot.start : Plot :=
  { versions := [{ frame := 0, writer := none, state := .final, copied := true, freed := false }], published := 0 }

/-- The versions of a plot. -/
def Dev.plot (d : Dev) (key : Nat) : Plot := tget .start d.plots key

/-- Changing a plot. -/
def Mach.setPlot (m : Mach) (key : Nat) (p : Plot) : Mach := { m with dev := { m.dev with plots := tput m.dev.plots key p } }

/-- The most recently created version below index `n` that is not discarded (R135). -/
def Plot.newestBelow (p : Plot) (n : Nat) : Nat :=
  (((List.range n).reverse).find? (fun i => match p.versions[i]? with
    | some v => v.state != .discarded
    | none => false)).getD p.published

/-- newest(P) (R135). -/
def Plot.newest (p : Plot) : Nat := p.newestBelow p.versions.length

/-- The state of a version. -/
def Plot.stateOf (p : Plot) (i : Nat) : VState := ((p.versions[i]?).map (fun v => v.state)).getD .discarded

/-- live(P) (R135). -/
def Plot.live (p : Plot) : Nat := (p.versions.filter (fun v => !v.freed)).length

/-- Changing a version. -/
def Plot.modify (p : Plot) (i : Nat) (f : Version → Version) : Plot := { p with versions := p.versions.modify i f }

/-- The frame that the leaf gives a plot. -/
def Mach.leafPlot (m : Mach) (key : Nat) : Nat :=
  match m.rawLeaf (plotPart key) (plotVa key) with
  | some (_, e) => leafFrame e + plotVa key % pageBytes (fld e 8 4)
  | none => 0

/-- The frame of a version: the leaf's for the published one (R135). -/
def Mach.versionFrame (m : Mach) (key i : Nat) : Nat :=
  let p := m.dev.plot key
  if i = p.published then m.leafPlot key else ((p.versions[i]?).map (fun v => v.frame)).getD 0

/-- A written plot is renamable: a 16 KiB leaf with W and without PIN, in device HBM (R134). -/
def Mach.renamable (m : Mach) (key : Nat) : Bool :=
  match m.rawLeaf (plotPart key) (plotVa key) with
  | some (_, e) => fld e 8 4 == 1 && bitOf e 3 && !bitOf e 5 && isHbm (leafFrame e)
  | none => false

/-- The leaf of a plot is migrating (R111, R134). -/
def Mach.plotMigrating (m : Mach) (key : Nat) : Bool :=
  match m.rawLeaf (plotPart key) (plotVa key) with
  | some (_, e) => bitOf e 7
  | none => false

/-- Bytes of a plot. -/
def plotBytes : Nat := 2 ^ 14

/-- A new version of a plot for a writer, as far as one can be made now (R136). -/
def Mach.newVersion (m : Mach) (gk key : Nat) (whole : Bool) : Option (Mach × Nat) :=
  let p := m.dev.plot key
  if decide (4 ≤ p.live) || m.mapsHeld (plotPart key) then none
  else
    match m.findFrame (plotPart key) 1 4 (hbmDie (m.leafPlot key)) with
    | none => none
    | some f =>
      if m.hostHolds f plotBytes then none else
      let m1 := m.takeFrame (plotPart key) f 4
      let m2 := if whole then m1.putHbm f (List.replicate plotBytes 0) else m1
      some (m2.setPlot key { p with versions := p.versions ++
        [{ frame := f, writer := some gk, state := .provisional, copied := whole, freed := false }] }, p.versions.length)

/-- Handling one plot of a gang's sets (R136); `none` where it must wait: for an older gang's handling of the plot, for a
migration, for a live version to be freed, for a frame, or for the host to give a line up (R342). -/
def Mach.handlePlot (m : Mach) (gk : Nat) (g : Gang) (p : PlotReq) : Option (Mach × Gang) :=
  let key := plotKey g.part p.va
  if (m.dev.olderGangs g).any (fun h => h.pending.any (fun q => plotKey h.part q.va == key)) then none
  else
    let m1 := m.setPlot key (m.dev.plot key)
    if p.write && g.rename && m1.plotMigrating key then none
    else if p.write && g.rename && m1.renamable key then
      match m1.newVersion gk key p.whole with
      | none => none
      | some (m2, i) => some (m2, { g with view := tput g.view key i, viewWrite := key :: g.viewWrite })
    else if p.write then some (m1, { g with inPlace := g.inPlace ++ [p] })
    else some (m1, { g with view := tput g.view key (m1.dev.plot key).newest })

/-- Handling the plots of a gang in order, as far as they go (R136). -/
def Mach.handlePlots (m : Mach) (gk : Nat) : List PlotReq → Gang → Mach × Gang
  | [], g => (m, { g with pending := [] })
  | p :: ps, g =>
    match m.handlePlot gk g p with
    | none => (m, { g with pending := p :: ps })
    | some (m', g') => Mach.handlePlots m' gk ps { g' with pending := ps }

/-- A plot written in place may be fixed: no earlier unretired gang names it, no version of it is provisional, and the
newest is published (R136, R139). -/
def Mach.inPlaceFree (m : Mach) (g : Gang) (key : Nat) : Bool :=
  let p := m.dev.plot key
  !((m.dev.olderGangs g).any (fun h => h.names key)) && !(p.versions.any (fun v => v.state == .provisional)) &&
    p.newest == p.published

/-- The views of plots written in place are fixed where they may be (R136). -/
def Mach.fixInPlace (m : Mach) (g : Gang) : Gang :=
  g.inPlace.foldl (fun g p =>
    let key := plotKey g.part p.va
    if m.inPlaceFree g key then
      { g with view := tput g.view key (m.dev.plot key).newest, viewWrite := key :: g.viewWrite,
               inPlace := g.inPlace.filter (fun q => q.va != p.va) }
    else g) g

/-- A plot of the view is settled: a version read is final, and a version written has its copy (R136). A reader waits for the
gate of the version's writer too, also where its view moved to that version after a discard (DESIGN CHOICE, log 97). -/
def Mach.viewSettled (m : Mach) (g : Gang) (key i : Nat) : Bool :=
  let p := m.dev.plot key
  if g.viewWrite.contains key then ((p.versions[i]?).map (fun v => v.copied)).getD true else p.stateOf i == .final

/-- A gang is ready (R136). -/
def Mach.gangSettled (m : Mach) (g : Gang) : Bool :=
  g.pending.isEmpty && g.inPlace.isEmpty && g.view.all (fun v => m.viewSettled g v.1 v.2)

/-- Views that held a discarded version move to the newest older one that is not discarded (R136). -/
def Mach.moveViews (m : Mach) (key i : Nat) : Mach :=
  let upd := fun (_ : Nat) (g : Gang) =>
    if g.unretired && tfind g.view key == some i && !(g.viewWrite.contains key) then
      { g with view := tput g.view key ((m.dev.plot key).newestBelow i) }
    else g
  { m with dev := { m.dev with gangs := tmap upd m.dev.gangs } }

/-- An unretired gang's view holds a version. -/
def Dev.viewHolds (d : Dev) (key i : Nat) : Bool := d.gangs.any (fun g => g.2.unretired && tfind g.2.view key == some i)

/-- An access that has been issued and is not performed yet was translated into a run of physical bytes (R108). -/
def Dev.pendingAt (d : Dev) (pa n : Nat) : Bool :=
  d.banks.any (fun e => e.2.task.isSome && [Seq.K, .L, .X, .D].any (fun q => (e.2.seq q).accs.any (fun a =>
    !a.kind.isMark && a.kind != .rinv && a.kind != .pin && !a.sent && decide (a.pa < pa + n) && decide (pa < a.pa + a.n))))

/-- Freeing the versions of a plot that R138 frees: their frames return to the version map, once the host holds no line of it
(R342) and no access is on its way to them (R108). -/
def Mach.freeVersions (m : Mach) (key : Nat) : Mach :=
  if m.mapsHeld (plotPart key) then m else
  (List.range (m.dev.plot key).versions.length).foldl (fun m i =>
    let p := m.dev.plot key
    match p.versions[i]? with
    | none => m
    | some v =>
      if !v.freed && i != p.published && (v.state == .discarded || decide (i < p.published)) && !(m.dev.viewHolds key i) && !(m.dev.pendingAt v.frame plotBytes) then
        (m.returnFrame (plotPart key) 1 v.frame 4).setPlot key (p.modify i (fun v => { v with freed := true }))
      else m) m

/-- The list of a plot that no unretired gang names and that has one version is forgotten (R135). -/
def Mach.tidyPlot (m : Mach) (key : Nat) : Mach :=
  let m1 := m.freeVersions key
  let p := m1.dev.plot key
  if p.live ≤ 1 && !(m1.dev.gangs.any (fun g => g.2.names key)) then
    { m1 with dev := { m1.dev with plots := tdel m1.dev.plots key } }
  else m1

/-- The versions that a gang created, as plot and index. -/
def Dev.versionsBy (d : Dev) (gk : Nat) : List (Nat × Nat) :=
  d.plots.flatMap (fun p => (List.range p.2.versions.length).filterMap (fun i =>
    match p.2.versions[i]? with
    | some v => if v.writer = some gk ∧ v.state = .provisional then some (p.1, i) else none
    | none => none))

/-- The gate decides (R140): the gang's provisional versions become final, or are discarded. -/
def Mach.decideVersions (m : Mach) (gk : Nat) (accept : Bool) : Mach :=
  (m.dev.versionsBy gk).foldl (fun m v =>
    let m1 := m.setPlot v.1 ((m.dev.plot v.1).modify v.2 (fun x => { x with state := if accept then .final else .discarded }))
    if accept then m1 else m1.moveViews v.1 v.2) m

/-- Tidying every plot of a gang's sets. -/
def Mach.tidyGang (m : Mach) (g : Gang) : Mach := g.view.foldl (fun m v => m.tidyPlot v.1) m

/-! ## Retirement of members -/

/-- The lowest-ranked member retired by a fault, with its cause (R51). -/
def Gang.firstFailed (g : Gang) : Option (Nat × Cause) :=
  g.members.findSome? (fun t => t.2.failed.map (fun c => (t.1, c)))

/-- Every member has retired. -/
def Gang.allRetired (g : Gang) : Bool := g.members.all (fun t => t.2.loc == .retired)

/-- A member of a gang has retired, by a fault or not: the last one settles the gang (R50, R51, R140). -/
def Mach.memberGone (m : Mach) (gk rank : Nat) (failed : Option Cause) : Mach :=
  let m1 := m.modGang gk (fun g =>
    match tfind g.members rank with
    | some t => { g with members := tput g.members rank { t with loc := .retired, failed := failed } }
    | none => g)
  match tfind m1.dev.gangs gk with
  | none => m1
  | some g =>
    if !g.allRetired then m1
    else
      let m2 := m1.modGang gk (fun g => { g with stage := .retired })
      let m3 := if g.gated && g.firstFailed.isNone then m2 else m2.decideVersions gk g.firstFailed.isNone
      m3.tidyGang g

/-- Clearing every trace of a task in the TLBs (R137). -/
def Mach.dropTaskTlb (m : Mach) (part taskId : Nat) : Mach :=
  { m with dev := { m.dev with cores := tmap (fun _ k =>
      { k with tlb := k.tlb.filter (fun e => !(e.part == part && e.task == some taskId)),
               utlb := k.utlb.filter (fun e => !(e.part == part && e.task == some taskId)) }) m.dev.cores } }

/-- Park slots of a bank are freed (R167). -/
def Mach.dropParks (m : Mach) (b : Nat) : Mach :=
  { m with dev := { m.dev with slices := tmap (fun _ s => { s with parks := s.parks.filter (fun e => e.2.bank != b) }) m.dev.slices } }

end Sys2Proof.Machine
end

