-- ==== Sys2Proof/Machine/Faults.lean ====
section
/-! DEFINITION. Faults: the partition fault queue (R179, R351), the fault answer word (R180), the answers CONT and RETIRE
(R170, R176, R178), and Ranger's placements (R176, R177). -/

namespace Sys2Proof.Machine

/-! ## Finding a task -/

/-- The bank that holds a task's context: it is bound there, and no restore of it is in progress. -/
def Mach.bankOf (m : Mach) (part taskId : Nat) : Option Nat :=
  (m.dev.banks.find? (fun b => match b.2.task with
    | some t => t.part == part && t.taskId == taskId && b.2.savePa.isNone
    | none => false)).map (fun b => b.1)

/-- The bank that loads a task's overlay (R40, R182). -/
def Mach.loadingOf (m : Mach) (part taskId : Nat) : Option Nat :=
  (m.dev.banks.find? (fun b => b.2.status == .loading && (match b.2.task with
    | some t => t.part == part && t.taskId == taskId
    | none => false))).map (fun b => b.1)

/-- A record of the overlay loader (R40). -/
def FaultRec.isLoad (r : FaultRec) : Bool := r.queue.isNone && r.src % 8 == 5

/-- The bank that a record concerns. -/
def Mach.recordBank (m : Mach) (part : Nat) (r : FaultRec) : Option Nat :=
  if r.isLoad then m.loadingOf part r.taskId else m.bankOf part r.taskId

/-- The save area that holds a task (R181). -/
def Mach.savedOf (m : Mach) (part taskId : Nat) : Option (Nat × Saved) :=
  m.dev.pkg.saved.find? (fun p => p.2.task.part == part && p.2.task.taskId == taskId)

/-! ## Writing records -/

/-- The queue of a bank that awaits an answer carries the record's number (R178). -/
def Bank.engineSeq (k : Bank) (queue : Nat) (v : Option Nat) : Bank :=
  if queue < 4 then { k with copyq := tput k.copyq queue { k.copy queue with fault := v } }
  else { k with trails := tput k.trails (queue - 4) { k.trail (queue - 4) with fault := v } }

/-- The awaited answer is named by the record's SEQ (R180). -/
def Mach.awaitAnswer (m : Mach) (r : FaultRec) (part seq : Nat) : Mach :=
  let upd : Bank → Bank := fun k => match r.queue with
    | some q => k.engineSeq q (some seq)
    | none => if r.bank.isSome then { k with answerSeq := some seq } else k
  let m1 := m.modPart part (fun p => { p with awaiting := tput p.awaiting seq r })
  match m1.recordBank part r, m1.savedOf part r.taskId with
  | some b, _ => m1.modBank b upd
  | none, some (pa, sv) => m1.modPkg (fun p => { p with saved := tput p.saved pa { sv with bank := upd sv.bank } })
  | none, none => m1

/-- Dropping the first record that awaits no answer: it is lost, and OVF counts it (R351). -/
def dropRecord : List FaultRec → Option (FaultRec × List FaultRec)
  | [] => none
  | r :: rs => if bitOf r.flags 0 then (dropRecord rs).map (fun t => (t.1, r :: t.2)) else some (r, rs)

/-- From this key on stand the records that the ring never holds. -/
def ownKey : Nat := 2 ^ 64

/-- A record of a migrating page, which is never sent to the host: Ranger keeps it (R111; log 99). -/
def FaultRec.keptBack (r : FaultRec) : Bool := bitOf r.flags 0 && bitOf r.flags 2

/-- Ranger takes a record that the ring never holds. -/
def Mach.keepBack (m : Mach) (part : Nat) (r : FaultRec) : Mach :=
  let o := m.nextOrd
  o.2.awaitAnswer r part (ownKey + o.1)

/-- Ranger is asked for a page that an access of the device's own waits for (R378): once for an address. -/
def Mach.askRanger (m : Mach) (part die va access gangId flags : Nat) : Mach :=
  if (m.dev.part part).awaiting.any (fun e => decide (ownKey ≤ e.1) && e.2.va == va && e.2.taskId == 0) then m
  else m.keepBack part { FaultRec.plain Cause.page.code 6 va gangId with
    access := access, flags := 1 + flags, core := die * 2 ^ 14 }

/-- The next record of a partition is written (R351): its slot, then HEAD, then vector 0 where the ring held none. -/
def Mach.faultWrite (m : Mach) (part : Nat) : Mach :=
  let p := m.dev.part part
  let q := p.fq
  match p.records with
  | [] => m
  | r :: rs =>
    if r.keptBack then (m.modPart part (fun t => { t with records := rs })).keepBack part r
    else if q.en && !(q.full 16) then
      let seq := q.head.toNat
      if m.writeHeld (q.base + 64 * (seq % q.slots 16)) 64 then m else
      let m1 := (m.writeOwn (q.base + 64 * (seq % q.slots 16)) (r.bytes seq)).modPart part (fun t =>
        { t with records := rs, fq := { t.fq with head := t.fq.head + 1 } })
      let m2 := if q.used = 0 then m1.sendVector part 0 else m1
      let m3 := match r.vec with | some v => m2.sendVector part v | none => m2
      if bitOf r.flags 0 then m3.awaitAnswer r part seq else m3
    else
      match dropRecord p.records with
      | some (lost, rest) =>
        let m1 := m.modPart part (fun t =>
          { t with records := rest, fq := { t.fq with ovf := Nat.min (t.fq.ovf + 1) (2 ^ 32 - 1) } })
        match lost.vec with
        | some v => m1.sendVector part v
        | none => m1
      | none => m

/-- FAULT_RECORD_WRITE (R351). -/
def execFaultRecordWrite (part : Nat) (s : State) : Host.Outcome State Fault Refusal :=
  commit s ((Mach.of s).faultWrite part)

/-! ## Answers -/

/-- The cause that an awaited record names: BKPT for a Hold record, else PAGE (R180). -/
def FaultRec.answerCause (r : FaultRec) : Cause := if r.cause = Cause.bkpt.code then .bkpt else .page

/-- CONT for a bank: a bank at rest becomes ready, an overlay load resumes, an engine queue goes on (R176, R178). -/
def Bank.goOn (r : FaultRec) (k : Bank) : Bank :=
  match r.queue with
  | some q => k.engineSeq q none
  | none => { k with answerSeq := none, why := .none }

/-- CONT (R176, R178, R183). -/
def Mach.answerCont (m : Mach) (part : Nat) (r : FaultRec) : Mach :=
  match m.recordBank part r, m.savedOf part r.taskId with
  | some b, _ =>
    if r.queue.isSome || (m.bank b).status == .loading then m.modBank b (Bank.goOn r)
    else if (m.bank b).answerSeq.isSome then m.comeBack b
    else m
  | none, some (pa, sv) =>
    let k := if r.queue.isSome then Bank.goOn r sv.bank
      else
        (sv.bank.mapSeqs (fun q s =>
          if sv.bank.onCont.contains q then
            { s with loops := (loopAdvance s.pos s.loops).1, pos := (loopAdvance s.pos s.loops).2 } else s))
    let k' := if r.queue.isSome then k
      else { k with status := .ready, why := .none, answerSeq := none, onCont := [] }
    if r.isLoad then m else m.modPkg (fun p => { p with saved := tput p.saved pa { sv with bank := k' } })
  | none, none => m

/-- The record that a retirement writes for an answered record: the cause and the Retire flag, the other fields those of the
fault (R174; log 49). -/
def FaultRec.retired (r : FaultRec) : FaultRec :=
  { r with flags := 2, bank := none, queue := none, submission := none, vec := none }

/-- A saved task leaves every hamper, the bank that a restore had taken for it, and its save. -/
def Mach.forgetSaved (m : Mach) (pa taskId gang : Nat) : Mach :=
  { m with dev := { m.dev with
      banks := tmap (fun _ k => if k.savePa = some pa then Bank.empty else k) m.dev.banks,
      hampers := tmap (fun _ l => l.filter (fun e => !(e.gang == gang && e.saved == some taskId))) m.dev.hampers,
      pkg := { m.dev.pkg with saved := tdel m.dev.pkg.saved pa } } }

/-- A restore that a bank had begun is given up: its save is dropped. -/
def Mach.dropRestore (m : Mach) (b : Nat) : Mach :=
  match (m.bank b).savePa with
  | some key => (m.modPkg (fun p => { p with saved := tdel p.saved key })).modBank b (fun k => { k with savePa := none })
  | none => m

/-- RETIRE (R176, R178, R180): the task is retired with the cause that the record names. -/
def Mach.answerRetire (m : Mach) (part : Nat) (r : FaultRec) : Mach :=
  match m.recordBank part r, m.savedOf part r.taskId with
  | some b, _ =>
    if (m.bank b).status == .retiring then m
    else (((m.dropRestore b).addRecord part r.retired).modBank b (fun k =>
      { k with trec0 := word (r.cause + r.src * 2 ^ 8 + r.pos * 2 ^ 16), trec1 := word r.va })).beginRetire b r.answerCause
  | none, some (pa, sv) =>
    ((m.addRecord part r.retired).memberGone (gangKey part sv.task.gangId) sv.task.rank (some r.answerCause)).forgetSaved pa r.taskId
      (gangKey part sv.task.gangId)
  | none, none => m

/-- The submission that a record concerns may be read again, or is given up: its die retries it or refuses it with PAGE
(R132; RETIRE for a submission is the model's, log 20). -/
def Mach.answerSubmission (m : Mach) (sub : Submission) (die : Nat) (retire : Bool) : Mach :=
  let upd := fun (x : Submission) => if x = { sub with waits := true } then { x with waits := false, given := retire } else x
  m.modDie die (fun d => { d with submits := d.submits.map upd, graphReqs := d.graphReqs.map upd })

/-- The awaited record that a word names, by SEQ[31:0] (R180). -/
def Part.awaited (p : Part) (aseq : Nat) : Option (Nat × FaultRec) :=
  p.awaiting.find? (fun e => decide (e.1 < ownKey) && e.1 % 2 ^ 32 == aseq)

/-- An answer takes effect. -/
def Mach.answerNow (m : Mach) (part : Nat) (r : FaultRec) (retire : Bool) : Mach :=
  match r.submission with
  | some sub => m.answerSubmission sub sub.die retire
  | none => if retire then m.answerRetire part r else m.answerCont part r

/-- The bank that a record concerns is being saved: the answer takes effect once the save has completed (R183). -/
def Mach.answerWaits (m : Mach) (part : Nat) (r : FaultRec) : Bool :=
  r.submission.isNone && (match m.recordBank part r with
    | some b => m.dev.saving b
    | none => false)

/-- An answer to a record: it is answered once (R180). -/
def Mach.answer (m : Mach) (part seq : Nat) (r : FaultRec) (retire : Bool) : Mach :=
  let m1 := m.modPart part (fun p => { p with awaiting := tdel p.awaiting seq })
  if m.answerWaits part r then m1.modPart part (fun p => { p with deferred := p.deferred ++ [(r, retire)] })
  else m1.answerNow part r retire

/-- The answers that a save held back take effect (R183). -/
def Mach.giveDeferred (m : Mach) (part taskId : Nat) : Mach :=
  let mine := fun (x : FaultRec × Bool) => x.1.taskId == taskId
  match (m.dev.part part).deferred.filter mine with
  | [] => m
  | l => l.foldl (fun m x => m.answerNow part x.1 x.2)
    (m.modPart part (fun p => { p with deferred := p.deferred.filter (fun x => !(mine x)) }))

/-- A write of the fault answer word (R180). -/
def Mach.fans (m : Mach) (part : Nat) (v : Word) : Mach :=
  let n := v.toNat
  let code := fld n 32 2
  let clr := bitOf n 34
  let m1 := if clr then m.modPart part (fun p => { p with aerr := false }) else m
  if clr && code == 0 then m1
  else
    match (m1.dev.part part).awaited (fld n 0 32) with
    | some (seq, r) =>
      if code = 1 ∨ code = 2 then
        (m1.modPart part (fun p => { p with aseq := BitVec.ofNat 32 n, acode := BitVec.ofNat 2 code })).answer part seq r
          (code == 2)
      else m1.modPart part (fun p => { p with aerr := true })
    | none => m1.modPart part (fun p => { p with aerr := true })

/-- A value of the answer word with the given ACODE. -/
def fansValue (v : Word) (code : Nat) : Word := word (v.toNat % 2 ^ 32 + code * 2 ^ 32 + b2n (bitOf v.toNat 34) * 2 ^ 34)

/-- FANS_CONT (R176, R180): a write of the answer word with ACODE CONT. -/
def execFansCont (part : Nat) (value : Word) (s : State) : Host.Outcome State Fault Refusal :=
  commit s ((Mach.of s).fans part (fansValue value 1))

/-- FANS_RETIRE (R174, R180): a write with ACODE RETIRE. -/
def execFansRetire (part : Nat) (value : Word) (s : State) : Host.Outcome State Fault Refusal :=
  commit s ((Mach.of s).fans part (fansValue value 2))

/-- FANS_AERR_CLEAR (R180): a write with bit 34 set and ACODE 0 clears AERR. -/
def execFansAerrClear (part : Nat) (value : Word) (s : State) : Host.Outcome State Fault Refusal :=
  commit s ((Mach.of s).fans part (word (value.toNat % 2 ^ 32 + 2 ^ 34)))

/-! ## Leaves of a whole tree -/

/-- Where bytes other than 0 may stand: listed memory, and written bytes that home slices hold for a partition. -/
def Mach.places (m : Mach) (part : Nat) : List Nat :=
  m.mem.map (fun c => c.1) ++ (m.dev.dirtyLines (some part)).flatMap (fun l =>
    (List.range 64).filterMap (fun i => if l.2.dirty.getD i false then some (l.1 * 64 + i) else none))

/-- The entries of a table whose first byte, with V, may be other than 0: every other entry has V = 0. -/
def listedEntries (tbl : Nat) (places : List Nat) : List Nat :=
  (places.filterMap (fun a =>
    if tbl ≤ a ∧ a < tbl + 16384 ∧ (a - tbl) % 8 = 0 then some ((a - tbl) / 8) else none)).eraseDups

/-- The leaves below a table: the address each describes, its entry's address and its word (R104). -/
def Mach.leavesBelow (m : Mach) (part : Nat) : List Nat → Nat → Nat → List (Nat × Nat × Nat)
  | [], _, _ => []
  | l :: ls, tbl, va =>
    (listedEntries tbl (m.places part)).flatMap (fun i =>
      let e := m.tableEntry part (tbl + 8 * i)
      let v := va + i * 2 ^ (12 + 11 * l)
      if !bitOf e 0 then []
      else if bitOf e 1 then (if leafMalformed e l then [] else [(v, tbl + 8 * i, e)])
      else if tableMalformed e l then []
      else Mach.leavesBelow m part ls (fld e 12 40 * 2 ^ 12) v)

/-- The leaves of a partition's tree. -/
def Mach.leavesAll (m : Mach) (part : Nat) : List (Nat × Nat × Nat) :=
  if (m.dev.part part).troot = 0 then [] else m.leavesBelow part [3, 2, 1, 0] (m.dev.part part).troot 0

/-- A version that is still provisional. -/
def Version.isProvisional (v : Version) : Bool := v.state == .provisional

/-- The plots of a page that the dependence unit knows (R135). -/
def Dev.plotsIn (d : Dev) (part va size : Nat) : List Plot :=
  (d.plots.filter (fun p => decide (plotKey part va ≤ p.1) &&
    decide (p.1 ≤ plotKey part (va + size - 1)))).map (fun p => p.2)

/-- A resident page that Ranger could evict to make room, of whatever size (R177): in HBM, not pinned, no plot with a provisional
version, and not the page of the access itself. -/
def Mach.evictable (m : Mach) (part va : Nat) : Bool :=
  (m.leavesAll part).any (fun l =>
    let size := pageBytes (fld l.2.2 8 4)
    isHbm (leafFrame l.2.2) && !bitOf l.2.2 5 && l.1 / size != va / size &&
      !((m.dev.plotsIn part (l.1 / size * size) size).any (fun p => p.versions.any Version.isProvisional)))

/-- The entry of a level at which an address's leaf stands, through the tables present. -/
def Mach.entrySlot (m : Mach) (part va level : Nat) : List Nat → Nat → Option Nat
  | [], _ => none
  | l :: ls, tbl =>
    let ea := tbl + 8 * fld va (12 + 11 * l) 11
    if l = level then some ea
    else
      let e := m.tableEntry part ea
      if !bitOf e 0 || bitOf e 1 || tableMalformed e l then none
      else Mach.entrySlot m part va level ls (fld e 12 40 * 2 ^ 12)

/-- The registered page that holds an address: its base and its leaf entry (R176). -/
def Part.registeredPage (p : Part) (va : Nat) : Option (Nat × Nat) :=
  p.registered.find? (fun e => decide (e.1 ≤ va) && decide (va < e.1 + pageBytes (fld e.2 8 4)))

/-- The leaf entries that describe a page, through the tables present. -/
def Mach.pageSlots (m : Mach) (part base code : Nat) : List Nat :=
  let level := if code ≤ 6 then 0 else 1
  let span := if code ≤ 6 then 2 ^ 12 else 2 ^ 23
  (List.range (Nat.max 1 (pageBytes code / span))).filterMap (fun i =>
    m.entrySlot part (base + i * span) level [3, 2, 1, 0] (m.dev.part part).troot)

/-- The host holds a line that the mapping of a page touches: the mapping waits (R342). -/
def Mach.placeHeld (m : Mach) (part base e frame : Nat) : Bool :=
  let size := pageBytes (fld e 8 4)
  m.mapsHeld part || m.hostHolds frame size || m.hostHolds (leafFrame e) size || m.leavesHeld (m.pageSlots part base (fld e 8 4))

/-- Mapping a registered page in a frame: its bytes are copied with their poison, its entries are written, and a frame of HBM
that held it is released (R113, R176, R363). -/
def Mach.placePage (m : Mach) (part base e frame : Nat) : Mach :=
  let size := pageBytes (fld e 8 4)
  let old := leafFrame e
  let m1 := (m.takeFrame part frame (size / 4096)).copyFrame old frame size
  let m2 := (m.pageSlots part base (fld e 8 4)).foldl (fun m ea => m.writeLeaf ea (setFrame (setMigr e false) frame)) m1
  let m3 := if isHbm old then m2.returnFrame part 0 old (size / 4096) else m2
  m3.modPart part (fun p => { p with registered := tdel p.registered base })

/-- Ranger retires a task with FRAMEX (R177). -/
def Mach.framex (m : Mach) (part seq : Nat) (r : FaultRec) : Mach :=
  let m1 := m.modPart part (fun p => { p with awaiting := tdel p.awaiting seq })
  match m1.recordBank part r with
  | some b => (m1.dropRestore b).failTask b .framex 7 0 2 0 r.va 0
  | none =>
    match m1.savedOf part r.taskId with
    | some (pa, sv) =>
      ((m1.addRecord part { FaultRec.plain Cause.framex.code 7 r.va r.gangId with taskId := r.taskId, flags := 2 }).memberGone
        (gangKey part sv.task.gangId) sv.task.rank (some .framex)).forgetSaved pa r.taskId (gangKey part sv.task.gangId)
    | none => m1

/-- Ranger answers a record with CONT: by a write of the answer word (R176), which names a record of the ring; what the ring
never holds it answers of its own (R111, R378; log 99). -/
def Mach.rangerAnswer (m : Mach) (part seq : Nat) (r : FaultRec) : Mach :=
  if seq < ownKey then m.fans part (word (seq % 2 ^ 32 + 2 ^ 32)) else m.answer part seq r false

/-- Every fault of a page that Ranger has placed is answered (R176). -/
def Mach.answerPlaced (m : Mach) (part base size : Nat) : Mach :=
  ((m.dev.part part).awaiting.filter (fun x => x.2.cause == Cause.page.code && !bitOf x.2.flags 2 && !bitOf x.2.flags 3 &&
    decide (base ≤ x.2.va) && decide (x.2.va < base + size))).foldl (fun m x => m.rangerAnswer part x.1 x.2) m

/-- Ranger answers a migrating fault once the migration is over, and the fault of a page that the provider has registered with
it (R176, R177, R378). The die is that of the faulting access; while a page could be evicted the placement waits (log 21). -/
def Mach.rangerPlace (m : Mach) (part seq : Nat) : Mach :=
  let p := m.dev.part part
  match tfind p.awaiting seq with
  | none => m
  | some r =>
    if bitOf r.flags 2 then
      (match m.rawLeaf part r.va with
       | some (_, e) => if bitOf e 7 then m else m.rangerAnswer part seq r
       | none => m.rangerAnswer part seq r)
    else match p.registeredPage r.va with
    | none => if seq < ownKey then m else m.rangerAnswer part seq r
    | some (base, e) =>
      if r.cause != Cause.page.code || bitOf r.flags 3 then m
      else
        let die := match r.submission with | some sub => sub.die | none => r.core / 2 ^ 14
        match m.findFrame part 0 (pageBytes (fld e 8 4) / 4096) die with
        | some f => if m.placeHeld part base e f then m else (m.placePage part base e f).answerPlaced part base (pageBytes (fld e 8 4))
        | none => if m.evictable part r.va || r.submission.isSome || r.taskId == 0 then m else m.framex part seq r

/-- RANGER_PAGE_PLACE (R176, R177). -/
def execRangerPagePlace (part seq : Nat) (s : State) : Host.Outcome State Fault Refusal :=
  commit s ((Mach.of s).rangerPlace part seq)

end Sys2Proof.Machine
end

