-- ==== Sys2Proof/Machine/Hampers.lean ====
section
/-! DEFINITION. Hampers: hampers and baskets (R143, R144), where a task may be bound (R37, R147, R163), and binding
(R38, R39, R145, R182). -/

namespace Sys2Proof.Machine

/-! ## Hampers -/

/-- The key of a die's hamper, of a quad's and of a core's. -/
def dieHamper (d : Nat) : Nat := d
/-- The key of a quad's hamper. -/
def quadHamper (q : Nat) : Nat := 1000 + q
/-- The key of a core's hamper. -/
def coreHamper (c : Nat) : Nat := 2000 + c

/-- An entry stands before another: higher priority, then FIFO (R143). -/
def HampEnt.before (a b : HampEnt) : Bool := decide (b.prio < a.prio) || (a.prio == b.prio && decide (a.ord < b.ord))

/-- Inserting an entry in its order. -/
def hampInsert (e : HampEnt) : List HampEnt → List HampEnt
  | [] => [e]
  | x :: xs => if e.before x then e :: x :: xs else x :: hampInsert e xs

/-- An entry enters a hamper (R143). -/
def Mach.enter (m : Mach) (h : Nat) (e : HampEnt) : Mach := m.setHamper h (hampInsert e (m.dev.hamper h))

/-- Taking an entry out of a hamper. -/
def Mach.takeOut (m : Mach) (h : Nat) (e : HampEnt) : Mach := m.setHamper h ((m.dev.hamper h).filter (fun x => x != e))

/-- The entries a die hamper may hold (R143). -/
def dieCap : Nat := 1024

/-- The gang of an entry. -/
def Dev.gangOf (d : Dev) (e : HampEnt) : Option Gang := tfind d.gangs e.gang

/-! ## Where a task may run -/

/-- Every bank of a quad is free of its owner's tasks and held for no gang but, at most, the one that would use it: the quad is
idle (R149; DESIGN CHOICE, log 111). -/
def Dev.quadIdle (d : Dev) (owner q : Nat) (gang : Option Nat) : Bool :=
  (List.range 8).all (fun i =>
    let k := tget Bank.empty d.banks (8 * q + i)
    (k.held.isNone || k.held == gang) && (match k.task with | some t => t.part != owner | none => true))

/-- A partition may use a quad: it owns it, or borrows it from an owner that lends it while it is idle (R147, R149). -/
def Dev.mayUse (d : Dev) (part q : Nat) (gang : Option Nat) : Bool :=
  match d.quadOwner q with
  | none => false
  | some o => o == part || ((d.part o).lend && (d.part part).borrow && d.quadIdle o q gang)

/-- The quads to which a handler may go, as a set of quads of the die: QMASK among those that its partition may use, else
every quad of the partition (R163). -/
def Dev.handlerQuads (d : Dev) (part die qmask : Nat) : List Nat :=
  let inMask := (List.range 16).filter (fun q => bitOf qmask q && d.mayUse part (16 * die + q) none)
  if inMask.isEmpty then (List.range 16).filter (fun q => d.quadOwner (16 * die + q) == some part) else inMask

/-- Where the bound members of a gang are: rank and bank. -/
def Gang.boundAt (g : Gang) : List (Nat × Nat) :=
  g.members.filterMap (fun t => match t.2.loc with
    | .bound b => some (t.1, b)
    | _ => none)

/-- Binding a member of a rank to a bank keeps R37. -/
def Gang.placeOk (g : Gang) (rank bank : Nat) : Bool :=
  g.boundAt.all (fun x => x.1 == rank || (coreOf x.2 != coreOf bank && (x.1 / 4 != rank / 4 || quadOf x.2 == quadOf bank)))

/-- A saved task of a gang: its area and its context. -/
def Mach.savedTask (m : Mach) (gk taskId : Nat) : Option (Nat × Saved) :=
  m.dev.pkg.saved.find? (fun s => gangKey s.2.task.part s.2.task.gangId == gk && s.2.task.taskId == taskId)

/-- A saved context may be dispatched: no PAGE or BKPT of its sequencers awaits an answer (R183), and a chained one goes to
the quad from which it was saved (R314). -/
def Mach.savedOk (m : Mach) (g : Gang) (gk taskId bank : Nat) : Bool :=
  match m.savedTask gk taskId with
  | none => false
  | some (_, sv) =>
    sv.bank.answerSeq.isNone && sv.bank.why != .answer && g.placeOk sv.task.rank bank &&
      (!sv.bank.mat.chained || (match tfind g.members sv.task.rank with
        | some t => (match t.loc with | .saved _ q => q == quadOf bank | _ => true)
        | none => true))

/-- A hamper entry may be bound to a bank, or the bank held for it, at a level that holds gangs of `most` members at most (R143,
R145, R163). A gang that BIND records have begun to bind is left to them (R147). -/
def Mach.fits (m : Mach) (e : HampEnt) (bank most : Nat) : Bool :=
  match m.dev.gangOf e with
  | none => false
  | some g =>
    decide (e.n ≤ most) &&
      (!g.trig || (m.dev.handlerQuads g.part g.die g.qmask).contains (quadOf bank % 16)) &&
      (match e.saved with
       | some t => m.savedOk g e.gang t bank
       | none => g.boundAt.isEmpty)

/-- A resize of its owner is emptying a quad (step 4 of R355): its hampers take nothing. -/
def Dev.quadLeaving (d : Dev) (part quad : Nat) : Bool :=
  decide (4 < (d.part part).rstep) && !bitOf (d.part part).target.quads quad

/-- A hamper of a quad may hold an entry (R143, R144): its partition owns the quad, its gang has `most` members at most, and a
handler's targets include the quad. -/
def Mach.mayHold (m : Mach) (e : HampEnt) (quad most : Nat) : Bool :=
  m.dev.quadOwner quad == some e.part && !(m.dev.quadLeaving e.part quad) &&
    (match m.dev.gangOf e with
     | none => false
     | some g => decide (g.glast < most) && (!g.trig || (m.dev.handlerQuads g.part g.die g.qmask).contains (quad % 16)))

/-! ## Baskets (R144) -/

/-- The hamper of a level and unit, and the one above it. -/
def hamperKeys (quadLevel : Bool) (unit : Nat) : Nat × Nat :=
  if quadLevel then (quadHamper unit, dieHamper (unit / 16)) else (coreHamper unit, quadHamper (unit / 4))

/-- A hamper that holds more than it may sends up the eight entries of lowest priority, youngest first (R144). -/
def Mach.basketUp (m : Mach) (quadLevel : Bool) (unit : Nat) : Mach :=
  let k := hamperKeys quadLevel unit
  let l := m.dev.hamper k.1
  let cap := if quadLevel then 64 else 16
  if l.length ≤ cap then m
  else (l.drop (l.length - 8)).foldl (fun m e => m.enter k.2 e) (m.setHamper k.1 (l.take (l.length - 8)))

/-- BASKET_UP (R144). -/
def execBasketUp (quadLevel : Bool) (unit : Nat) (s : State) : Host.Outcome State Fault Refusal :=
  commit s ((Mach.of s).basketUp quadLevel unit)

/-- A hamper at its threshold takes up to eight entries from above: the highest-priority, oldest ones that it may hold
(R144). -/
def Mach.basketDown (m : Mach) (quadLevel : Bool) (unit : Nat) : Mach :=
  let k := hamperKeys quadLevel unit
  let threshold := if quadLevel then 16 else 4
  if threshold < (m.dev.hamper k.1).length then m
  else
    let quad := if quadLevel then unit else unit / 4
    let es := ((m.dev.hamper k.2).filter (fun e => m.mayHold e quad (if quadLevel then 4 else 1))).take 8
    es.foldl (fun m e => (m.takeOut k.2 e).enter k.1 e) m

/-- BASKET_DOWN (R144). -/
def execBasketDown (quadLevel : Bool) (unit : Nat) (s : State) : Host.Outcome State Fault Refusal :=
  commit s ((Mach.of s).basketDown quadLevel unit)

/-! ## Binding -/

/-- The boot mailbox of a member (R39, R160). -/
def Gang.mailbox (g : Gang) (rank taskId : Nat) : BitVec 256 :=
  BitVec.ofNat 256 (g.argbase % 2 ^ 64 + g.image % 2 ^ 32 * 2 ^ 64 + taskId % 2 ^ 32 * 2 ^ 96 + g.prio % 256 * 2 ^ 128 +
    rank % 64 * 2 ^ 136 + g.glast % 64 * 2 ^ 142 + g.part % 16 * 2 ^ 148 + b2n g.repro * 2 ^ 152 + b2n g.rename * 2 ^ 153 +
    b2n g.gated * 2 ^ 154 + b2n g.trig * 2 ^ 155 + b2n g.prov * 2 ^ 156 + g.gid % 2 ^ 32 * 2 ^ 160 +
    g.doneVa % 2 ^ 56 * 2 ^ 192)

/-- The identity of a member (R39). -/
def Gang.task (g : Gang) (rank taskId : Nat) : Task :=
  { part := g.part, taskId := taskId, gangId := g.gid, rank := rank, glast := g.glast, prio := g.prio, image := g.image,
    repro := g.repro, trig := g.trig, prov := g.prov, depth := 0, rply := bitOf g.pcapt.toNat 1 }

/-- Bytes of a plot as a member's view gives it (R369): a version's frame, or what the leaves of the plot map, page by page. -/
def Mach.viewBytes (m : Mach) (g : Gang) (key : Nat) : List Byte :=
  let p := m.dev.plot key
  let i := (tfind g.view key).getD p.published
  if i = p.published then m.peek g.part (plotVa key) plotBytes else m.bytes (m.versionFrame key i) plotBytes

/-- The plots of a gang's read set, entry by entry. -/
def Gang.inputPlots (g : Gang) : List (List Nat) :=
  (g.sets.filter (fun e => !e.write)).map (fun e => (List.range e.nplot).map (fun n => plotKey g.part (e.base + n * plotBytes)))

/-- The host holds bytes that the INPUT records of a gang take, so that its members are not dispatched yet (R342, R369). -/
def Mach.inputsHeld (m : Mach) (g : Gang) : Bool :=
  (bitOf g.pcapt.toNat 0 || bitOf g.pcapt.toNat 1) && g.inputPlots.any (fun l => l.any (fun key =>
    let p := m.dev.plot key
    let i := (tfind g.view key).getD p.published
    if i = p.published then m.peekHeld g.part (plotVa key) plotBytes else m.hostHolds (m.versionFrame key i) plotBytes))

/-- INPUT capture records at a member's dispatch, one for each read-set entry, and their comparison under replay (R369,
R371). -/
def Mach.captureInputs (m : Mach) (g : Gang) (bank : Nat) : Mach :=
  let pc := g.pcapt.toNat
  if !bitOf pc 0 && !bitOf pc 1 then m
  else
    (List.range g.inputPlots.length).foldl (fun m i =>
      let v := word (leNat (shake256 8 ((g.inputPlots.getD i []).flatMap (m.viewBytes g))))
      let m1 := if bitOf pc 1 then m.replayCompare bank 4 0 v else m
      if bitOf pc 0 then m1.capture g.part v i 4 0 (m.bank bank).taskId (coreId bank) 0 else m1) m

/-- Binding a member of a gang to an empty bank: dispatch writes the boot mailbox, and the overlay load follows (R38,
R39). -/
def Mach.bindMember (m : Mach) (gk rank bank : Nat) : Mach :=
  match tfind m.dev.gangs gk with
  | none => m
  | some g =>
    match tfind g.members rank with
    | none => m
    | some t =>
      let o := m.nextOrd
      let k : Bank := { Bank.empty with
        status := .loading, task := some (g.task rank t.taskId), mbox := g.mailbox rank t.taskId, dispatched := o.1 }
      let m1 := (o.2.setBank bank k).modGang gk (fun g =>
        { g with members := tput g.members rank { t with loc := .bound bank },
                 stage := if g.stage = .hamper then .bound else g.stage })
      m1.captureInputs g bank

/-- Binding a saved task: its bank takes the overlay load of the restore (R182). -/
def Mach.bindSaved (m : Mach) (gk taskId bank : Nat) : Mach :=
  match m.savedTask gk taskId with
  | none => m
  | some (pa, sv) =>
    let o := m.nextOrd
    let k : Bank := { Bank.empty with
      status := .loading, task := some sv.task, mbox := sv.mbox, savePa := some pa, dispatched := o.1 }
    (o.2.setBank bank k).modGang gk (fun g =>
      match tfind g.members sv.task.rank with
      | some t => { g with members := tput g.members sv.task.rank { t with loc := .bound bank } }
      | none => g)

/-- Banks held for a gang are free again. -/
def Mach.unhold (m : Mach) (gk : Nat) : Mach :=
  { m with dev := { m.dev with banks := tmap (fun _ k => if k.held = some gk then { k with held := none } else k) m.dev.banks } }

/-- The members of a gang that no bank holds, by rank. -/
def Gang.unbound (g : Gang) : List Nat := (g.members.filter (fun t => t.2.loc == .hamper)).map (fun t => t.1)

/-- The banks of a quad that are held for a gang, one on each core: the lower-numbered one (log 105). -/
def Mach.heldOn (m : Mach) (quad gk : Nat) : List Nat :=
  (List.range 4).filterMap (fun c => ((List.range 2).map (fun i => 8 * quad + 2 * c + i)).find? (fun b => (m.bank b).held == some gk))

/-- A head is bound to a bank: a single task or a saved one at once; for a gang of more members the bank is held, and once n
cores of the quad have a held bank the members are bound, ranks in ascending order of core (R145). -/
def Mach.takeHead (m : Mach) (h : Nat) (e : HampEnt) (bank : Nat) : Mach :=
  match e.saved with
  | some t => (m.takeOut h e).bindSaved e.gang t bank
  | none =>
    if e.n ≤ 1 then (m.takeOut h e).bindMember e.gang 0 bank
    else
      let m1 := m.modBank bank (fun k => { k with held := some e.gang })
      let held := m1.heldOn (quadOf bank) e.gang
      if held.length < e.n then m1
      else
        (List.range e.n).foldl (fun m r => m.bindMember e.gang r (held.getD r 0)) ((m1.takeOut h e).unhold e.gang)

/-! ## Dispatch -/

/-- The pending record of a bank's slot, RESERVE or DRAIN keeps hampers from the bank (R145, R147). -/
def Dev.slotBlocks (d : Dev) (bank : Nat) : Bool :=
  match tfind (d.die (dieOf bank)).slots (bank % 128) with
  | none => false
  | some r => (r.stat == 0 && r.op != 0) || (r.stat == 1 && (r.op == 3 || r.op == 4))

/-- Dropping a handler that has no target quad: PEND returns to 0, and a WATCHX record is written (R163). -/
def Mach.dropTrigger (m : Mach) (gk : Nat) (g : Gang) : Mach :=
  let gone := { m with dev := { m.dev with
      gangs := tdel m.dev.gangs gk, hampers := tmap (fun _ l => l.filter (fun e => e.gang != gk)) m.dev.hampers } }
  match m.dev.leads.find? (fun w => w.pend && w.gang == gk) with
  | some w =>
    let m1 := if w.cleared then gone.freeWatch w.leadh else gone.modWatch w.leadh (fun x => { x with pend := false })
    m1.watchRecord w
  | none => gone.addRecord g.part (FaultRec.plain Cause.watchx.code 6 0 0)

/-- Handlers in a die hamper that have no target quad are dropped when dispatch looks at them (R163; DEDUCED, log 112). -/
def Mach.dropTargetless (m : Mach) (die : Nat) : Mach :=
  (m.dev.hamper (dieHamper die)).foldl (fun m e =>
    match m.dev.gangOf e with
    | some g => if g.trig && e.saved.isNone && (m.dev.handlerQuads g.part die g.qmask).isEmpty then m.dropTrigger e.gang g else m
    | none => m) m

/-- The heads that a bank may take, lowest level first: hamper and entry (R145). Other partitions' entries come from the die
hamper alone, to a lent quad, where its owner has none (R149). -/
def Mach.heads (m : Mach) (bank : Nat) : List (Nat × HampEnt) :=
  let q := quadOf bank
  match m.dev.quadOwner q with
  | none => []
  | some o =>
    let at_ := fun (h most : Nat) (ok : HampEnt → Bool) =>
      (((m.dev.hamper h).find? (fun e => ok e && m.fits e bank most)).map (fun e => (h, e))).toList
    let own := fun (e : HampEnt) => e.part == o
    let mine := at_ (coreHamper (coreOf bank)) 1 own ++ at_ (quadHamper q) 4 own ++ at_ (dieHamper (dieOf bank)) 4 own
    if mine.isEmpty then at_ (dieHamper (dieOf bank)) 4 (fun e => m.dev.mayUse e.part q (some e.gang)) else mine

/-- The highest-priority head, the lowest level on equal priority (R145). -/
def bestHead : List (Nat × HampEnt) → Option (Nat × HampEnt)
  | [] => none
  | h :: hs => some (hs.foldl (fun a b => if a.2.prio < b.2.prio then b else a) h)

/-- An empty bank takes a head, or is held for it (R145). -/
def Mach.dispatch (m0 : Mach) (bank : Nat) : Mach :=
  let m := m0.dropTargetless (dieOf bank)
  let k := m.bank bank
  if k.status != .empty || k.held.isSome || m.dev.slotBlocks bank then m
  else
    match bestHead (m.heads bank) with
    | some (h, e) =>
      if (m.dev.gangOf e).any (fun g => e.saved.isNone && m.inputsHeld g) then m else m.takeHead h e bank
    | none => m

/-- DISPATCH (R145). -/
def execDispatch (bank : Nat) (s : State) : Host.Outcome State Fault Refusal := commit s ((Mach.of s).dispatch bank)

end Sys2Proof.Machine
end

