-- ==== Sys2Proof/Machine/Lookout.lean ====
section
/-! DEFINITION. Lookout: counted writes at the lead entry, triggers, runaways and closes (R133, R157 to R163). -/

namespace Sys2Proof.Machine

/-! ## Numbers of tasks and gangs -/

/-- The number after one, modulo 2^32, without 0 (R133). -/
def nextNumber (n : Nat) : Nat := if (n + 1) % 2 ^ 32 = 0 then 1 else (n + 1) % 2 ^ 32

/-- The partition's next `n` TASKIDs, in rank order (R133). -/
def takeTasks : Nat → Nat → List Nat × Nat
  | 0, t => ([], t)
  | n + 1, t => ((t :: (takeTasks n (nextNumber t)).1), (takeTasks n (nextNumber t)).2)

/-- Taking the next GANGID and `n` TASKIDs of a partition: the GANGID and the TASKIDs (R133). -/
def Mach.takeNumbers (m : Mach) (part n : Nat) : Mach × Nat × List Nat :=
  let p := m.dev.part part
  (m.modPart part (fun p => { p with nextTask := (takeTasks n p.nextTask).2, nextGang := nextNumber p.nextGang }),
    p.nextGang, (takeTasks n p.nextTask).1)

/-! ## Triggers -/

/-- A runaway (R161): every entry of the watch is disarmed, a pending trigger stays, and a RUNAWAY record is written.
`kind` is 1 by depth, 2 by rate. -/
def Mach.runaway (m : Mach) (w : Watch) (kind addr depth : Nat) : Mach :=
  (m.modWatch w.leadh (fun x => { x with arm := false })).addRecord w.part
    { FaultRec.plain Cause.runaway.code 6 (w.vbase + addr) 0 with
      detail := w.leadh % 2 ^ 16 + kind * 2 ^ 16 + depth % 2 ^ 8 * 2 ^ 24 }

/-- The gang of a handler task (R160). -/
def handlerGang (w : Watch) (die gid task order : Nat) (pcapt : Word) : Gang :=
  { part := w.part, gid := gid, die := die, image := w.image, prio := w.prio, glast := 0, repro := w.repro, rename := false,
    gated := false, irq := false, prov := false, trig := true, argbase := w.uword.toNat, sets := [], gate := 0, doneVa := 0,
    tag := 0, vec := 0, stage := .ready, members := [(0, { taskId := task, loc := .hamper, failed := none, bars := 0 })],
    view := [], viewWrite := [], pending := [], inPlace := [], order := order, barriers := [], gateStatus := 0,
    gateCause := 0, gateLatch := none, watch := some w.leadh, depth := w.pdepth, qmask := w.qmask, node := none, pcapt := pcapt }

/-- A ready gang enters its die's hamper, unless that is full (R143, R144). -/
def Mach.intoHamper (m : Mach) (gk : Nat) : Mach :=
  match tfind m.dev.gangs gk with
  | none => m
  | some g =>
    if g.stage != .ready || decide (dieCap ≤ (m.dev.hamper (dieHamper g.die)).length) then m
    else
      let r := m.nextOrd
      (r.2.enter (dieHamper g.die)
        { gang := gk, saved := none, prio := g.prio, ord := r.1, n := g.glast + 1, part := g.part }).modGang gk
        (fun g => { g with stage := .hamper })

/-- A trigger is created (R157, R160), or dropped where the handler has no target quad (R163); it takes its numbers once it
is known to run (log 27). -/
def Mach.createTrigger (m : Mach) (slice entry : Nat) (w : Watch) (first last count depth : Nat) : Mach :=
  let die := slice / 80
  let w1 : Watch := { w with pend := true, count := count, first := first, last := last, pdepth := depth, rused := w.rused + 1 }
  let set := fun (m : Mach) (x : Watch) => m.modSlice slice (fun s => { s with watches := tput s.watches entry x })
  if (m.dev.handlerQuads w.part die w.qmask).isEmpty then (set m { w1 with pend := false }).watchRecord w
  else
    let r := m.takeNumbers w.part 1
    let o := r.1.nextOrd
    let gk := gangKey w.part r.2.1
    let m1 := set o.2 { w1 with gang := gk }
    let g := handlerGang w1 die r.2.1 (r.2.2.getD 0 0) o.1 (m.dev.part w.part).pcaptRun
    Mach.intoHamper { m1 with dev := { m1.dev with gangs := tput m1.dev.gangs gk g } } gk

/-- A counted write at the lead entry: the rows of R157 in their order. -/
def Mach.countWrite (m : Mach) (slice entry : Nat) (w : Watch) (a : CountedWrite) : Mach :=
  if !w.arm then m
  else if w.dlim < a.depth then m.runaway w 1 a.addr a.depth
  else if !w.pend && w.rused == w.rbud then m.runaway w 2 a.addr a.depth
  else if !w.pend then m.createTrigger slice entry w a.addr a.addr 1 a.depth
  else
    let w1 : Watch := { w with count := Nat.min (w.count + 1) 0xFFFF, last := a.addr, pdepth := Nat.max w.pdepth a.depth }
    m.modSlice slice (fun s => { s with watches := tput s.watches entry w1 })

/-- The oldest counted write on its way to a slice's lead entries is acted on. -/
def Mach.takeArrival (m : Mach) (a : CountedWrite) : Mach :=
  match m.dev.leadOf a.handle with
  | none => m
  | some (sl, entry, w) => m.countWrite sl entry w a

/-- The watch that the replay source's next record triggers, where that record is a TRIGGER (R371): the ring slot, and the
handle it names. -/
def Mach.nextTrigger (m : Mach) (part pcapt : Nat) : Option (Nat × Nat) :=
  match (List.range (replaySlots pcapt)).find? (fun i =>
    let kind := m.le (replaySlot pcapt i + 15) 1
    (tfind (m.dev.part part).replayed i).isNone && decide (3 ≤ kind) && decide (kind ≤ 8)) with
  | none => none
  | some i => if m.le (replaySlot pcapt i + 15) 1 = 5 then some (i, m.le (replaySlot pcapt i + 8) 2) else none

/-- Under replay a TRIGGER record creates its handler task; the record holds no depth (R371; log 14). -/
def Mach.replayTrigger (m : Mach) (slice : Nat) (entry : Nat) (w : Watch) : Mach :=
  let pc := (m.dev.part w.part).pcaptRun.toNat
  match m.nextTrigger w.part pc with
  | none => m
  | some (i, h) =>
    if h != w.leadh || w.pend then m
    else
      let at_ := replaySlot pc i
      (m.consume w.part i).createTrigger slice entry { w with rused := Nat.min w.rused (w.rbud - 1) } (m.le at_ 8 - w.vbase) (m.le (at_ + 26) 2) (m.le (at_ + 10) 2)
        (1 + Config.freeNat m.dev.ticks % 15)

/-- The lead entries of a slice whose partition replays. -/
def Mach.replayedLeads (m : Mach) (slice : Nat) : List (Nat × Watch) :=
  (m.slice slice).watches.filter (fun e => e.2.lead && bitOf (m.dev.part e.2.part).pcaptRun.toNat 1)

/-- LEAD_ENTRY_WRITE_ARRIVAL (R157): the counted writes of all slices come to the lead entry in the order in which they were
performed, where R157 fixes the order only among those of one slice (DESIGN CHOICE, log 104). The slice's oldest arrival is acted on; where there is none, the next TRIGGER record of
a partition that replays (R371). -/
def Mach.arrival (m : Mach) (slice : Nat) : Mach :=
  match (m.slice slice).arrivals with
  | a :: as => (m.modSlice slice (fun s => { s with arrivals := as })).takeArrival a
  | [] => (m.replayedLeads slice).foldl (fun m e => m.replayTrigger slice e.1 e.2) m

/-- LEAD_ENTRY_WRITE_ARRIVAL (R157). -/
def execLeadEntryWriteArrival (die slice : Nat) (s : State) : Host.Outcome State Fault Refusal :=
  commit s ((Mach.of s).arrival (80 * die + slice))

/-! ## The close -/

/-- The Lookout record (R159). -/
def Watch.lookoutRecord (w : Watch) : List Byte :=
  leBytes 8 (w.vbase + w.first) ++ leBytes 8 (w.vbase + w.last) ++ leBytes 8 w.uword.toNat ++ leBytes 2 w.leadh ++
    leBytes 2 w.count ++ leBytes 1 w.pdepth ++ leBytes 1 (b2n w.queued) ++ leBytes 2 0

/-- Every counted write on its way to a watch is acted on (R158). -/
def Mach.takeAllArrivals (m : Mach) (h slice : Nat) : Mach :=
  let mine := (m.slice slice).arrivals.filter (fun a => a.handle == h)
  mine.foldl (fun m a => m.takeArrival a)
    (m.modSlice slice (fun s => { s with arrivals := s.arrivals.filter (fun a => a.handle != h) }))

/-- The watch once its trigger has closed: PEND is 0, ONCE mode disarms it, and a cleared watch is freed (R159, R161,
R162). -/
def Mach.endTrigger (m : Mach) (w : Watch) : Mach :=
  if w.cleared then m.freeWatch w.leadh
  else m.modWatch w.leadh (fun x => { x with pend := false, arm := x.arm && x.queued })

/-- K's first word may issue: its own clock starts here (R42, R47). -/
def Mach.releaseK (m : Mach) (b : Nat) : Mach := m.modBank b (fun k => { k with k := k.k.release 0 k.clk })

/-- The close of a trigger, on the clock on which the handler's first K word is about to issue (R158, R159, R369). -/
def Mach.closeTrigger (m : Mach) (b : Nat) : Mach :=
  let k := m.bank b
  if k.status != .running || k.k.released then m
  else
    match k.gang.bind (fun gk => (tfind m.dev.gangs gk).bind (fun g => g.watch.map (fun h => (g, h)))) with
    | none => m
    | some (g, h) =>
      match m.dev.leadOf h with
      | none => m.releaseK b
      | some (sl, _, _) =>
        let m1 := m.takeAllArrivals h sl
        match m1.dev.leadOf h with
        | none => m1.releaseK b
        | some (_, _, w) =>
          let m2 := (m1.endTrigger w).modBank b (fun k =>
            { k with lookout := w.lookoutRecord, task := k.task.map (fun t => { t with depth := w.pdepth }) })
          let m3 := if bitOf g.pcapt.toNat 0 then
              m2.capture g.part (word (w.vbase + w.first)) (w.leadh % 2 ^ 16 + w.count % 2 ^ 16 * 2 ^ 16) 5 0 k.taskId (coreId b)
                (w.last % 2 ^ 16)
            else m2
          m3.releaseK b

/-- TRIGGER_CLOSE (R158). -/
def execTriggerClose (bank : Nat) (s : State) : Host.Outcome State Fault Refusal := commit s ((Mach.of s).closeTrigger bank)

/-! ## The rate window -/

/-- The slice's local count reaches the next multiple of 256, the shortest window: RUSED returns to 0 in every lead entry
whose window it ends (R157). -/
def Mach.rateWindow (m : Mach) (slice : Nat) : Mach :=
  m.modSlice slice (fun s =>
    let n := (s.count / 256 + 1) * 256
    { s with count := n, watches := tmap (fun _ w => if w.lead && n % 2 ^ Nat.max w.rwin 8 == 0 then { w with rused := 0 } else w) s.watches })

/-- RATE_WINDOW_RESET (R157). -/
def execRateWindowReset (die slice : Nat) (s : State) : Host.Outcome State Fault Refusal :=
  commit s ((Mach.of s).rateWindow (80 * die + slice))

end Sys2Proof.Machine
end

