-- ==== Sys2Proof/Machine/Own.lean ====
section
/-! DEFINITION. Own: the accesses that the device makes for a partition on its own: reads of descriptors, arrays and
condition words, the completion word and the gate word (R51, R132, R141, R378), and the arrivals of a graph (R142). -/

namespace Sys2Proof.Machine

/-! ## Reads -/

/-- What a read of the device's own finds. -/
inductive OwnRead where
  /-- The host holds a line of it (R342): the read is made later. -/
  | wait
  /-- The translation or the sector refuses it, with the address concerned. -/
  | err (va : Nat) (e : TransErr)
  | ok (bs : List Byte)
  deriving Repr

/-- The cause of a refusal (R105, R363); a walk that waits for the host is no refusal. -/
def TransErr.cause : TransErr → Cause
  | .page _ _ => .page
  | .prot => .prot
  | .eccu _ => .eccu
  | .held => .prot

/-- FLAGS bits 2 to 4 and PA of a refusal's record (R179). -/
def TransErr.flags : TransErr → Nat
  | .page mg mf => b2n mg * 4 + b2n mf * 8
  | .eccu _ => 16
  | _ => 0

/-- PA of a refusal's record. -/
def TransErr.pa : TransErr → Nat
  | .eccu pa => pa
  | _ => 0

/-- One piece of a read, within a sector. The peer window is reached by the accesses that R359 lists alone, so the device's
own refuse there with PROT (DEDUCED, log 17). -/
def Mach.ownPiece (m : Mach) (part va n : Nat) (kind : Kind) : Mach × OwnRead :=
  match m.translateLeaf part va kind with
  | .error .held => (m, .wait)
  | .error e => (m, .err va e)
  | .ok x =>
    if isPeer x.pa then (m, .err va .prot)
    else if m.hostHolds x.pa n then (m, .wait)
    else
      match (if isHbm x.pa then m.poisoned x.pa n else none) with
      | some sec => (m, .err va (.eccu (sec * 32)))
      | none =>
        let r := m.readPhys { By.device with part := some part } x.ca x.pa n
        (r.1, .ok r.2)

/-- A read of bytes through a partition's tree, sector by sector. -/
def Mach.ownReadGo (kind : Kind) (part : Nat) : Nat → Mach → Nat → Nat → Mach × OwnRead
  | 0, m, _, _ => (m, .ok [])
  | fuel + 1, m, va, n =>
    if n = 0 then (m, .ok [])
    else
      let k := Nat.min n (32 - va % 32)
      match m.ownPiece part va k kind with
      | (m1, .ok bs) =>
        match Mach.ownReadGo kind part fuel m1 (va + k) (n - k) with
        | (m2, .ok cs) => (m2, .ok (bs ++ cs))
        | r => r
      | r => r

/-- A read of bytes through a partition's tree. -/
def Mach.ownRead (m : Mach) (part va n : Nat) : Mach × OwnRead := m.ownReadGo .read part (n + 1) va n

/-! ## The completion word -/

/-- STATUS, CAUSE, RANK and TAG (R51). -/
def doneWord (status cause rank tag : Nat) : Nat := status + cause % 2 ^ 8 * 2 ^ 8 + rank % 2 ^ 6 * 2 ^ 16 + tag % 2 ^ 32 * 2 ^ 32

/-- A PAGE of the device's own access is waited for: the page is migrating, or registered with Ranger (R378). -/
def Mach.pageWaits (m : Mach) (part va : Nat) : TransErr → Bool
  | .page mg _ => mg || ((m.dev.part part).registeredPage va).isSome
  | _ => false

/-- Sending the vector that a launch asked for. -/
def Mach.sendIf (m : Mach) (part : Nat) (vec : Option Nat) : Mach :=
  match vec with
  | some v => m.sendVector part v
  | none => m

/-- The write of a completion word is dropped, and its record brings the vector after it (R378, R51). -/
def Mach.dropDone (m : Mach) (part va gangId : Nat) (e : TransErr) (vec : Option Nat) : Mach :=
  m.addRecord part { FaultRec.plain e.cause.code 6 va gangId with access := 1, flags := e.flags, pa := e.pa, vec := vec }

/-- Writing a completion word, and then its vector (R51, R378). `none`: the write waits, for its page or for the host. -/
def Mach.writeDone (m : Mach) (part va word gangId : Nat) (vec : Option Nat) : Option Mach :=
  if va = 0 then some (m.sendIf part vec)
  else
    match m.translateLeaf part va .write with
    | .error .held => none
    | .error e => if m.pageWaits part va e then none else some (m.dropDone part va gangId e vec)
    | .ok x =>
      if isPeer x.pa then some (m.dropDone part va gangId .prot vec)
      else if m.writeHeld x.pa 8 then none
      else
        match (if isHbm x.pa then m.poisoned x.pa 8 else none) with
        | some sec => some (m.dropDone part va gangId (.eccu (sec * 32)) vec)
        | none =>
          some ((m.writePhys { By.device with part := some part } x.ca 5 x.pa (leBytes 8 word)).sendIf part vec)

/-- What a completion word's write waits for is asked of Ranger (R378). -/
def Mach.askDone (m : Mach) (part die va gangId : Nat) : Mach :=
  match (if va = 0 then .error .held else m.translateLeaf part va .write) with
  | .error e => if m.pageWaits part va e then m.askRanger part die va 1 gangId e.flags else m
  | .ok _ => m

/-! ## Arrivals at the nodes of a graph (R142) -/

/-- A node of a graph. -/
def Graph.node (g : Graph) (i : Nat) : GNode :=
  (g.nodes[i]?).getD { kind := 0, npred := 0, s0 := 0, n0 := 0, s1 := 0, n1 := 0, addr := 0, bfirst := 0, blast := 0 }

/-- A node that nothing has reached. -/
def NodeSt.start : NodeSt := { dones := 0, skips := 0, loc := .waiting, ord := 0 }

/-- A node's progress. -/
def Graph.at (g : Graph) (i : Nat) : NodeSt := tget .start g.st i

/-- List 0 or list 1 of a node. -/
def Graph.list (g : Graph) (i : Nat) (one : Bool) : List Nat :=
  let n := g.node i
  if one then (g.succs.drop n.s1).take n.n1 else (g.succs.drop n.s0).take n.n0

/-- An arrival: with the last of its NPRED, a node that has a done arrival becomes ready. -/
def Graph.arrive (g : Graph) (i : Nat) (done : Bool) : Graph :=
  let t := g.at i
  let t1 : NodeSt := { t with dones := t.dones + b2n done, skips := t.skips + b2n (!done) }
  let ready := t1.dones + t1.skips == (g.node i).npred && decide (0 < t1.dones)
  if ready then { g with st := tput g.st i { t1 with loc := .ready, ord := g.nextReady }, nextReady := g.nextReady + 1 }
  else { g with st := tput g.st i t1 }

/-- Arrivals at every node of a list. -/
def Graph.arriveAll (g : Graph) (l : List Nat) (done : Bool) : Graph := l.foldl (fun g i => g.arrive i done) g

/-- Moving a node. -/
def Graph.move (g : Graph) (i : Nat) (loc : NodeAt) : Graph := { g with st := tput g.st i { g.at i with loc := loc } }

/-- Every arrival of a node was a skip (R142). -/
def Graph.skipped (g : Graph) (i : Nat) : Bool :=
  (g.at i).loc == .waiting && (g.node i).npred != 0 && (g.at i).dones == 0 && (g.at i).skips == (g.node i).npred

/-- Changing a graph: nodes that become ready take the device's next order numbers (R133). -/
def Mach.modGraph (m : Mach) (k : Nat) (f : Graph → Graph) : Mach :=
  match tfind m.dev.graphs k with
  | some g =>
    let g' := f { g with nextReady := m.dev.nextOrd }
    { m with dev := { m.dev with graphs := tput m.dev.graphs k g', nextOrd := g'.nextReady } }
  | none => m

/-- A TASK node's gang has its completion word, or its submission was refused: it sends done to list 0 (R142; for a refused
one DEDUCED, log 15). -/
def Mach.nodeDone (m : Mach) (node : Option (Nat × Nat)) (faulted : Bool) : Mach :=
  match node with
  | none => m
  | some (k, i) => m.modGraph k (fun g =>
      let g1 := { g with faulted := g.faulted || faulted }
      let g2 := if (g1.at i).loc == .running then g1.move i .finished else g1
      g2.arriveAll (g2.list i false) true)

end Sys2Proof.Machine
end

