-- ==== Sys2Proof/Machine/Launch.lean ====
section
/-! DEFINITION. Launch: launch queues (R348 to R350), task descriptors and their refusals (R130 to R133, R148), the
acceptance of a gang (R136, R369), copies of versions, and gangs that become ready (R136, R139, R143). -/

namespace Sys2Proof.Machine

/-! ## Launch queues -/

/-- The launch queue of a partition, or its provider launch queue (R350). -/
def Part.launchQ (p : Part) (prov : Bool) : Ring := if prov then p.plq else p.lq

/-- Changing a launch queue. -/
def Part.modLaunchQ (p : Part) (prov : Bool) (f : Ring → Ring) : Part :=
  if prov then { p with plq := f p.plq } else { p with lq := f p.lq }

/-- A write of TAIL: one that would pass more than the ring holds is ignored and sets TERR (R350). -/
def Ring.writeTail (r : Ring) (v : Nat) : Ring :=
  if r.slots 16 < (v % 2 ^ 32 + 2 ^ 32 - r.head.toNat % 2 ^ 32) % 2 ^ 32 then { r with terr := true }
  else { r with tail := BitVec.ofNat 32 v }

/-- LQ_TAIL_WRITE (R349, R350): over a port with no trained module no launch reaches the device (R343). -/
def execLqTailWrite (part : Nat) (prov : Bool) (value : Word) (s : State) : Host.Outcome State Fault Refusal :=
  commit s ((Mach.of s).fromHost (fun m =>
    m.modPart part (fun p => p.modLaunchQ prov (fun r => r.writeTail (value.toNat % 2 ^ 32)))))

/-- HEAD of a launch queue advances (R350). -/
def Mach.advanceHead (m : Mach) (part : Nat) (prov : Bool) : Mach :=
  m.modPart part (fun p => p.modLaunchQ prov (fun r => { r with head := r.head + 1 }))

/-- The entry at HEAD has been handed to a dependence unit or graph walker, which has not accepted it yet. -/
def Dev.entryPending (d : Dev) (part : Nat) (prov : Bool) : Bool :=
  d.dies.any (fun e => (e.2.submits ++ e.2.graphReqs).any (fun x => x.queue && x.part == part && x.prov == prov))

/-- The lowest die on which a partition owns a quad. -/
def Dev.lowestDie (d : Dev) (part : Nat) : Option Nat := (List.range 4).find? (fun i => d.ownsQuadOn part i)

/-- An entry that R350 refuses. -/
def Dev.entryRefused (d : Dev) (part kind die vec tag : Nat) : Bool :=
  match kind with
  | 1 => die != 0 || vec != 0 || tag != 0
  | 2 =>
    vec == 1 || decide (63 < vec) ||
      (if die = 0xFF then (d.lowestDie part).isNone else decide (3 < die) || !(d.ownsQuadOn part die))
  | _ => true

/-- The die at which a descriptor is read: the one it names, where it can be read and names one. -/
def Mach.firstDie (m : Mach) (part addr : Nat) : Nat :=
  match (m.ownRead part (addr + 46) 1).2 with
  | .ok [b] => if b.toNat < 4 then b.toNat else (m.dev.lowestDie part).getD 0
  | _ => (m.dev.lowestDie part).getD 0

/-- The entry at HEAD is read (R350). -/
def Mach.launchEntry (m : Mach) (part : Nat) (prov : Bool) : Mach :=
  let q := (m.dev.part part).launchQ prov
  if !q.en || q.head.setWidth 32 == q.tail || m.dev.entryPending part prov then m
  else
    let pa := q.base + 16 * (q.head.toNat % q.slots 16)
    if m.hostHolds pa 16 then m
    else
      let v := m.le pa 16
      let addr := fld v 0 64
      let kind := fld v 64 8
      let die := fld v 72 8
      let vec := fld v 80 16
      let tag := fld v 96 32
      if m.dev.entryRefused part kind die vec tag then
        (m.addRecord part (FaultRec.plain Cause.illegal.code 6 addr 0)).advanceHead part prov
      else
        let dest := if kind = 1 then m.firstDie part addr else if die = 0xFF then (m.dev.lowestDie part).getD 0 else die
        let sub : Submission :=
          { die := dest, part := part, prov := prov, addr := addr, node := none, queue := true,
            graph := if kind = 1 then none else some (tag, vec), waits := false, given := false }
        if kind = 1 then m.modDie dest (fun d => { d with submits := d.submits ++ [sub] })
        else m.modDie dest (fun d => { d with graphReqs := d.graphReqs ++ [sub] })

/-- LAUNCH_ENTRY_READ (R350). -/
def execLaunchEntryRead (part : Nat) (prov : Bool) (s : State) : Host.Outcome State Fault Refusal :=
  commit s ((Mach.of s).launchEntry part prov)

/-! ## Descriptors -/

/-- A task descriptor (R130). `okFields` says that every reserved bit is 0. -/
structure Descr where
  image : Nat
  prio : Nat
  glast : Nat
  repro : Bool
  rename : Bool
  gated : Bool
  irq : Bool
  nrd : Nat
  nwr : Nat
  argbase : Nat
  sets : Nat
  gate : Nat
  doneVa : Nat
  tag : Nat
  vec : Nat
  die : Nat
  okFields : Bool
  deriving Repr

/-- Reading the fields of a descriptor's 64 bytes (R130). -/
def descr (bs : List Byte) : Descr :=
  let v := leNat bs
  { image := fld v 0 32, prio := fld v 32 8, glast := fld v 40 6, repro := bitOf v 48, rename := bitOf v 49,
    gated := bitOf v 50, irq := bitOf v 51, nrd := fld v 52 4, nwr := fld v 56 3, argbase := fld v 64 64,
    sets := fld v 128 64, gate := fld v 192 64, doneVa := fld v 256 64, tag := fld v 320 32, vec := fld v 352 16,
    die := fld v 368 8,
    okFields := fld v 46 2 == 0 && fld v 59 5 == 0 && fld v 376 136 == 0 && (decide (fld v 368 8 < 4) || fld v 368 8 == 0xFF) }

/-- The fields of a descriptor that R132 and R350 refuse with ILLEGAL. -/
def Descr.illegal (d : Descr) : Bool :=
  !d.okFields || (d.gate != 0 && !d.gated) || decide (8 < d.nrd) || decide (4 < d.nwr) || d.sets % 16 != 0 ||
    (d.irq && (decide (d.vec < 2) || decide (63 < d.vec)))

/-- The vector to be sent for a descriptor. -/
def Descr.vector (d : Descr) : Option Nat := if d.irq && decide (2 ≤ d.vec) && decide (d.vec ≤ 63) then some d.vec else none

/-- A set entry of 16 bytes (R131); `none` where it is refused. -/
def setEntry (write : Bool) (bs : List Byte) : Option SetEnt :=
  let v := leNat bs
  let base := fld v 0 64
  let n := fld v 64 32
  if base % 2 ^ 14 != 0 || base / 2 ^ 56 != 0 || n == 0 || decide (2 ^ 20 < n) || fld v 97 7 != 0 || (bitOf v 96 && !write) ||
      fld v 104 24 != 0 then none
  else some { base := base, nplot := n, whole := bitOf v 96, write := write }

/-- A refusal: its cause and address, and PA and FLAGS of poison. -/
structure SubErr where
  cause : Cause
  va : Nat
  flags : Nat
  pa : Nat
  deriving Repr

/-- What reading a submission comes to. -/
inductive SubRead (α : Type) where
  | wait
  | page (va : Nat) (e : TransErr)
  | refuse (e : SubErr)
  | ok (v : α)

/-- A refused read of the dependence unit: a PAGE is answered as for a task (R132). A poisoned sector refuses the submission with
ECCU, its PA and FLAGS bit 4 (DESIGN CHOICE, log 107). -/
def OwnRead.sub {α : Type} (f : List Byte → SubRead α) (at_ : Option Nat) : OwnRead → SubRead α
  | .wait => .wait
  | .err va (.page mg mf) => .page va (.page mg mf)
  | .err va e => .refuse { cause := e.cause, va := at_.getD va, flags := e.flags, pa := e.pa }
  | .ok bs => f bs

/-- Reading the set entries (R131): a fault of one names its address. -/
def Mach.readSets (part sets nrd : Nat) : Nat → Nat → Mach → Mach × SubRead (List SetEnt)
  | 0, _, m => (m, .ok [])
  | n + 1, i, m =>
    let va := sets + 16 * i
    let r := m.ownRead part va 16
    match r.2.sub (fun bs => match setEntry (decide (nrd ≤ i)) bs with
        | some e => .ok e
        | none => .refuse { cause := .illegal, va := va, flags := 0, pa := 0 }) (some va) with
    | .wait => (r.1, .wait)
    | .page v e => (r.1, .page v e)
    | .refuse e => (r.1, .refuse e)
    | .ok e =>
      match Mach.readSets part sets nrd n (i + 1) r.1 with
      | (m2, .ok es) => (m2, .ok (e :: es))
      | x => x

/-- One plot more of a set: a plot of a write entry is written, and WHOLE holds only where every write entry has it (R131). -/
def addPlot (e : SetEnt) (t : Table (Bool × Bool)) (key : Nat) : Table (Bool × Bool) :=
  match tfind t key with
  | none => tput t key (e.write, e.write && e.whole)
  | some (w, wh) => tput t key (w || e.write, if e.write then e.whole && (!w || wh) else wh)

/-- The plots that the sets name, in address order. -/
def plotsOf (es : List SetEnt) : List PlotReq :=
  let t := es.foldl (fun t e => (List.range e.nplot).foldl (fun t i => addPlot e t (e.base / 2 ^ 14 + i)) t) ([] : Table (Bool × Bool))
  t.map (fun p => { va := p.1 * 2 ^ 14, write := p.2.1, whole := p.2.2 })

/-- The 4 KiB frames of the plots on the stacks of a die (R148). -/
def Mach.framesOn (m : Mach) (part : Nat) (ps : List PlotReq) (die : Nat) : Nat :=
  ((ps.flatMap (fun p => (List.range 4).map (fun i => p.va + 4096 * i))).filter (fun va => match m.rawLeaf part va with
    | some (_, e) => isHbm (leafFrame e) && hbmDie (leafFrame e + va % pageBytes (fld e 8 4)) == die
    | none => false)).length

/-- The die of a descriptor: the one named, or the one whose stacks hold the most frames of its plots (R148), among the dies on
which the partition owns a quad (DESIGN CHOICE, log 102). -/
def Mach.chooseDie (m : Mach) (part : Nat) (d : Descr) (ps : List PlotReq) : Option Nat :=
  if d.die = 0xFF then
    match (List.range 4).filter (fun i => m.dev.ownsQuadOn part i) with
    | [] => none
    | x :: xs => some (xs.foldl (fun a b => if m.framesOn part ps a < m.framesOn part ps b then b else a) x)
  else if m.dev.ownsQuadOn part d.die then some d.die
  else none

/-- The conditions of GATED (R132). -/
def Mach.gateBad (m : Mach) (part : Nat) (d : Descr) (ps : List PlotReq) : Bool :=
  d.gated && (!d.rename || d.gate == 0 || d.gate % 8 != 0 ||
    ps.any (fun p => p.write && (p.va / 2 ^ 14 == d.gate / 2 ^ 14 || !(m.renamable (plotKey part p.va)))))

/-- A descriptor that is read and not refused, with what it names. -/
structure Accepted where
  raw : List Byte
  d : Descr
  sets : List SetEnt
  plots : List PlotReq
  die : Nat

/-- Reading a submission: the checks of R132 and R148 in the order in which what they concern is read (log 18). -/
def Mach.readSubmission (m : Mach) (sub : Submission) : Mach × Option Descr × SubRead Accepted :=
  let no := fun (c : Cause) (va : Nat) => SubRead.refuse (α := Accepted) { cause := c, va := va, flags := 0, pa := 0 }
  if sub.addr % 64 != 0 then (m, none, no .illegal sub.addr)
  else
    let r := m.ownRead sub.part sub.addr 64
    match r.2.sub (fun bs => .ok bs) (some sub.addr) with
    | .wait => (r.1, none, .wait)
    | .page va e => (r.1, none, .page va e)
    | .refuse e => (r.1, none, .refuse e)
    | .ok bs =>
      let d := descr bs
      if d.illegal then (r.1, some d, no .illegal sub.addr)
      else
        match Mach.readSets sub.part d.sets d.nrd (d.nrd + d.nwr) 0 r.1 with
        | (m2, .wait) => (m2, some d, .wait)
        | (m2, .page va e) => (m2, some d, .page va e)
        | (m2, .refuse e) => (m2, some d, .refuse e)
        | (m2, .ok es) =>
          let ps := plotsOf es
          if (tfind (m2.dev.part sub.part).images d.image).isNone then (m2, some d, no .prot sub.addr)
          else
            match m2.chooseDie sub.part d ps with
            | none => (m2, some d, no .prot sub.addr)
            | some die =>
              if m2.gateBad sub.part d ps then (m2, some d, no .gate d.gate)
              else (m2, some d, .ok { raw := bs, d := d, sets := es, plots := ps, die := die })

/-! ## Acceptance -/

/-- A submission leaves its die; the launch queue's HEAD advances (R350). -/
def Mach.dropSubmission (m : Mach) (sub : Submission) : Mach :=
  let m1 := m.modDie sub.die (fun d =>
    { d with submits := d.submits.filter (fun x => x != sub), graphReqs := d.graphReqs.filter (fun x => x != sub) })
  if sub.queue then m1.advanceHead sub.part sub.prov else m1

/-- A refused submission (R132): a record, then the completion word and the vector where the descriptor was read. -/
def Mach.refuseSubmission (m : Mach) (sub : Submission) (d : Option Descr) (e : SubErr) : Option Mach :=
  let m1 := (m.addRecord sub.part { FaultRec.plain e.cause.code 6 e.va 0 with flags := e.flags, pa := e.pa }).dropSubmission sub
  match d with
  | none => some (m1.nodeDone sub.node true)
  | some d => (m1.writeDone sub.part d.doneVa (doneWord 3 e.cause.code 0 d.tag) 0 d.vector).map (fun m => m.nodeDone sub.node true)

/-- A PAGE fault of a submission: a record that awaits its answer (R132, R179). -/
def Mach.pageSubmission (m : Mach) (sub : Submission) (va : Nat) (e : TransErr) : Mach :=
  let m1 := m.addRecord sub.part
    { FaultRec.plain Cause.page.code 6 va 0 with flags := 1 + e.flags, submission := some sub }
  let upd := fun (x : Submission) => if x = sub then { x with waits := true } else x
  m1.modDie sub.die (fun d => { d with submits := d.submits.map upd, graphReqs := d.graphReqs.map upd })

/-- The argument block of an image's task: ARGSIZE bytes at ARGBASE (R22, R369). -/
def Mach.argBlock (m : Mach) (part image argbase : Nat) : List Byte :=
  match tfind (m.dev.part part).images image with
  | none => []
  | some i => m.peek part argbase (leNat (m.peek part (i.va + 8) 4))

/-- The host holds bytes that the LAUNCH record of a gang takes, so that the gang is not accepted yet (R342, R369). -/
def Mach.launchHeld (m : Mach) (sub : Submission) (a : Accepted) : Bool :=
  let pcapt := (m.dev.part sub.part).pcapt.toNat
  (bitOf pcapt 0 || bitOf pcapt 1) &&
    (m.peekHeld sub.part a.d.sets (16 * (a.d.nrd + a.d.nwr)) ||
      (match tfind (m.dev.part sub.part).images a.d.image with
       | none => false
       | some i => m.peekHeld sub.part (i.va + 8) 4 || m.peekHeld sub.part a.d.argbase (leNat (m.peek sub.part (i.va + 8) 4))))

/-- The LAUNCH record of an accepted gang, and its comparison under replay (R369, R371). -/
def Mach.captureLaunch (m : Mach) (part pcapt gid task : Nat) (v : Word) : Mach :=
  let m1 :=
    if !bitOf pcapt 1 then m
    else
      match (List.range (replaySlots pcapt)).find? (fun i =>
          (tfind (m.dev.part part).replayed i).isNone && m.le (replaySlot pcapt i + 15) 1 == 3 &&
            m.le (replaySlot pcapt i + 8) 4 == gid) with
      | none => m.capture part v 3 9 0 task 0 0
      | some i =>
        let m' := m.consume part i
        if m.le (replaySlot pcapt i) 8 = v.toNat then m' else m'.capture part v 3 9 0 task 0 0
  if bitOf pcapt 0 then m1.capture part v gid 3 0 task 0 0 else m1

/-- Gangs that the dependence unit of a die holds (R132). -/
def Dev.gangsOn (d : Dev) (die : Nat) : Nat := (d.gangs.filter (fun g => g.2.die == die && !g.2.trig)).length

/-- The gang of an accepted descriptor, before its plots are handled. -/
def Accepted.gang (a : Accepted) (sub : Submission) (gid order : Nat) (tasks : List Nat) (pcapt : Word) : Gang :=
  { part := sub.part, gid := gid, die := a.die, image := a.d.image, prio := a.d.prio, glast := a.d.glast, repro := a.d.repro,
    rename := a.d.rename, gated := a.d.gated, irq := a.d.irq, prov := sub.prov, trig := false, argbase := a.d.argbase,
    sets := a.sets, gate := a.d.gate, doneVa := a.d.doneVa, tag := a.d.tag, vec := a.d.vec, stage := .ordering,
    members := (List.range (a.d.glast + 1)).map (fun r =>
      (r, { taskId := tasks.getD r 0, loc := .hamper, failed := none, bars := 0 })),
    view := [], viewWrite := [], pending := a.plots, inPlace := [], order := order, barriers := [], gateStatus := 0,
    gateCause := 0, gateLatch := none, watch := none, depth := 0, qmask := 0, node := sub.node, pcapt := pcapt }

/-- Setting a gang. -/
def Mach.setGang (m : Mach) (gk : Nat) (g : Gang) : Mach := { m with dev := { m.dev with gangs := tput m.dev.gangs gk g } }

/-- The dependence unit accepts a gang: its numbers, its LAUNCH record, and the plots of its sets (R133, R136, R369). -/
def Mach.acceptGang (m : Mach) (sub : Submission) (a : Accepted) : Mach :=
  let r := (m.dropSubmission sub).takeNumbers sub.part (a.d.glast + 1)
  let o := (r.1.modPart sub.part (fun p => { p with pcaptRun := p.pcapt })).nextOrd
  let pcapt := (r.1.dev.part sub.part).pcapt
  let gk := gangKey sub.part r.2.1
  let g := a.gang sub r.2.1 o.1 r.2.2 pcapt
  let blob := a.raw ++ o.2.peek sub.part a.d.sets (16 * (a.d.nrd + a.d.nwr)) ++ o.2.argBlock sub.part a.d.image a.d.argbase
  let m1 := if bitOf pcapt.toNat 0 || bitOf pcapt.toNat 1 then
      o.2.captureLaunch sub.part pcapt.toNat r.2.1 (r.2.2.getD 0 0) (word (leNat (shake256 8 blob)))
    else o.2
  let h := (m1.setGang gk g).handlePlots gk a.plots g
  h.1.setGang gk h.2

/-- The submission of a die that is next: the first that waits for no answer, and a TASK node's only where no earlier one waits
(R133), as `held` says. -/
def nextSubmission (held : Bool) : List Submission → Option Submission
  | [] => none
  | x :: xs =>
    if x.waits then nextSubmission (held || x.node.isSome) xs
    else if held && x.node.isSome then nextSubmission held xs
    else some x

/-- The first submission of a die that waits for no answer is read, and accepted or refused (R132, R133); it goes on to the
die that its descriptor names or Ranger chooses (R148). -/
def Mach.submission (m : Mach) (die : Nat) : Mach :=
  match nextSubmission false (m.dev.die die).submits with
  | none => m
  | some sub =>
    let r := m.readSubmission sub
    if sub.given then
      (match r.2.2 with
       | .page va _ => (r.1.refuseSubmission sub r.2.1 { cause := .page, va := va, flags := 0, pa := 0 }).getD m
       | _ => m.modDie die (fun d => { d with submits := d.submits.map (fun x => if x = sub then { x with given := false } else x) }))
    else
      match r.2.2 with
      | .wait => m
      | .page va e => r.1.pageSubmission sub va e
      | .refuse e => (r.1.refuseSubmission sub r.2.1 e).getD m
      | .ok a =>
        if a.die != die then
          (r.1.modDie die (fun d => { d with submits := d.submits.filter (fun x => x != sub) })).modDie a.die (fun d =>
            { d with submits := d.submits ++ [{ sub with die := a.die }] })
        else if decide (8192 ≤ m.dev.gangsOn die) || m.launchHeld sub a then m
        else r.1.acceptGang sub a

/-- GANG_SUBMISSION (R132, R136). -/
def execGangSubmission (die : Nat) (s : State) : Host.Outcome State Fault Refusal := commit s ((Mach.of s).submission die)

/-! ## Copies and readiness -/

/-- The copy with which a version begins: from the newest version before it, once that one is final (R136). Poison
is copied unchanged, as a migration does it (DESIGN CHOICE, log 98). -/
def Mach.copyVersion (m : Mach) (key i : Nat) : Mach :=
  let p := m.dev.plot key
  match p.versions[i]? with
  | none => m
  | some v =>
    let src := p.newestBelow i
    let from_ := m.versionFrame key src
    if v.copied || v.freed || v.state == .discarded || p.stateOf src != .final || m.hostHolds from_ plotBytes ||
        m.writeHeld v.frame plotBytes || m.copyHeld (key / 2 ^ 42) from_ v.frame then m
    else (m.copyAcross (key / 2 ^ 42) from_ v.frame plotBytes).setPlot key (p.modify i (fun v => { v with copied := true }))

/-- VERSION_COPY_COMPLETE (R136). -/
def execVersionCopyComplete (part plot version : Nat) (s : State) : Host.Outcome State Fault Refusal :=
  commit s ((Mach.of s).copyVersion (part * 2 ^ 42 + plot % 2 ^ 42) version)

/-- A gang's plots are handled as far as they can be, and a gang whose orderings and copies are complete is ready (R136). -/
def Mach.settleGang (m : Mach) (gk : Nat) : Mach :=
  match tfind m.dev.gangs gk with
  | none => m
  | some g =>
    if g.stage != .ordering then m
    else
      let h := m.handlePlots gk g.pending g
      let g2 := h.1.fixInPlace h.2
      h.1.setGang gk (if h.1.gangSettled g2 then { g2 with stage := .ready } else g2)

/-- The ready gang of a die that was submitted first (R144). -/
def Dev.firstReady (d : Dev) (die : Nat) : Option Nat :=
  (d.gangs.foldl (fun (b : Option (Nat × Nat)) g =>
    if g.2.die == die && g.2.stage == .ready then
      (match b with
       | some (_, o) => if g.2.order < o then some (g.1, g.2.order) else b
       | none => some (g.1, g.2.order))
    else b) none).map (fun b => b.1)

/-- GANG_READY: a gang whose orderings are satisfied enters the die hamper; ready gangs enter in submission order while the
hamper has room (R136, R143, R144). -/
def Mach.gangReady (m : Mach) (gk : Nat) : Mach :=
  let m1 := m.settleGang gk
  match tfind m1.dev.gangs gk with
  | none => m1
  | some g =>
    match (if g.stage == .ready then m1.dev.firstReady g.die else none) with
    | some k => m1.intoHamper k
    | none => m1

/-- GANG_READY (R136, R143). -/
def execGangReady (gang : Nat) (s : State) : Host.Outcome State Fault Refusal := commit s ((Mach.of s).gangReady gang)

end Sys2Proof.Machine
end

