-- ==== Sys2Proof/Machine/Special.lean ====
section
/-! DEFINITION. Special: the special functions of R285 to binary fixed point far beyond every format, and the choice of one
value within the stated bound (R286). Every approximation is within 2^-150 of an ulp of the exact result, far below any
distance that decides which values lie within the bound. -/

namespace Sys2Proof.Machine

/-- Fraction bits of the fixed-point numbers of this file: enough for the exact range reduction of F64 (R285). -/
def fxW : Nat := 1600

/-- One. -/
def fxOne : Nat := 2 ^ fxW

/-- atan(1/q) by its alternating series, from a term t = 1/q^(2i+1) on. -/
def atanInv (q : Nat) : Nat → Nat → Nat → Int
  | 0, _, _ => 0
  | n + 1, i, t => ((t / (2 * i + 1) : Nat) : Int) * (if i % 2 = 0 then 1 else -1) + atanInv q n (i + 1) (t / (q * q))

/-- π. -/
def fxPi : Nat := (16 * atanInv 5 400 0 (fxOne / 5) - 4 * atanInv 239 150 0 (fxOne / 239)).toNat

/-- atanh of z < 1/2 by its series, from a term on. -/
def atanhGo (z2 : Nat) : Nat → Nat → Nat → Nat
  | 0, _, _ => 0
  | n + 1, i, t => t / (2 * i + 1) + atanhGo z2 n (i + 1) (t * z2 / fxOne)

/-- atanh of a fixed-point z. -/
def fxAtanh (z : Nat) : Nat := atanhGo (z * z / fxOne) 560 0 z

/-- ln 2. -/
def fxLn2 : Nat := 2 * fxAtanh (fxOne / 3)

/-- The sum of x^i/i! for i from `i` on; `t` is the term before. -/
def expGo (x : Nat) : Nat → Nat → Nat → Nat
  | 0, _, _ => 0
  | n + 1, i, t => t * x / fxOne / i + expGo x n (i + 1) (t * x / fxOne / i)

/-- e^x - 1 for 0 ≤ x < 1. -/
def fxExpm1 (x : Nat) : Nat := expGo x 300 1 fxOne

/-- The alternating series of sine (`i` odd first term x) and cosine: t - t·x²/((i+1)(i+2)) + ... -/
def sinGo (x2 : Nat) : Nat → Nat → Nat → Int
  | 0, _, _ => 0
  | n + 1, i, t => (t : Int) - sinGo x2 n (i + 2) (t * x2 / fxOne / ((i + 1) * (i + 2)))

/-- sin x for 0 ≤ x ≤ 1. -/
def fxSin (x : Nat) : Nat := (sinGo (x * x / fxOne) 160 1 x).toNat

/-- cos x for 0 ≤ x ≤ 1; below 1 for x above 0. -/
def fxCos (x : Nat) : Nat :=
  let c := (sinGo (x * x / fxOne) 160 0 fxOne).toNat
  if x ≠ 0 ∧ fxOne ≤ c then fxOne - 1 else c

/-- n · 2^(-k) in fixed point, rounded down. -/
def toFx (n k : Nat) : Nat := if k ≤ fxW then n * 2 ^ (fxW - k) else n / 2 ^ (k - fxW)

/-- A fixed-point number as a value. -/
def fxVal (n : Int) : Val := .fin n fxW

/-- 1/√a. -/
def hpRsq (n k : Nat) : Val :=
  let n' := if k % 2 = 0 then n else 2 * n
  let k' := if k % 2 = 0 then k else k + 1
  let l := Nat.log2 n' / 2 + 600
  .scaled ((2 ^ (512 + l) / isqrt (n' * 2 ^ 1024) : Nat)) ((k' / 2 : Nat) - (l : Int))

/-- 2^a for a = n · 2^(-k) that is no integer. -/
def hpExp2 (n : Int) (k : Nat) : Val :=
  let i := n / 2 ^ k
  let f := (n % 2 ^ k).toNat
  let e := fxOne + Nat.max 1 (fxExpm1 (toFx f k * fxLn2 / fxOne))
  Val.scaled e (i - fxW)

/-- log2 a for a = n · 2^(-k) that is no power of two. -/
def hpLog2 (n k : Nat) : Val :=
  let l := Nat.log2 n
  let m := toFx n l
  let z := (m - fxOne) * fxOne / (m + fxOne)
  fxVal (((l : Int) - k) * fxOne + (2 * fxAtanh z * fxOne / fxLn2 : Nat))

/-- The quadrant of |a| and its distance into it, folded to at most π/4 (sine and cosine of an arbitrary a). -/
def fxQuad (n k : Nat) : Nat × Nat :=
  let x := if k ≤ fxW then n * 2 ^ (fxW - k) else n / 2 ^ (k - fxW)
  let half := fxPi / 2
  (x / half % 4, x % half)

/-- sin and cos of the part of a quadrant, 0 ≤ r < π/2: the folded series. -/
def fxSinCos (r : Nat) : Nat × Nat :=
  let half := fxPi / 2
  if 2 * r ≤ half then (fxSin r, fxCos r) else (fxCos (half - r), fxSin (half - r))

/-- A value so small that its sine and its hyperbolic tangent are the value itself but for a sliver. -/
def isTiny (n k : Nat) : Bool := decide (n * 2 ^ 500 < 2 ^ k)

/-- A value less a sliver of it. -/
def lessSliver (n : Int) (k : Nat) : Val := .fin (n * (2 ^ 300 - 1)) (k + 300)

/-- sin a. -/
def hpSin (n : Int) (k : Nat) : Val :=
  if isTiny n.natAbs k then lessSliver n k
  else
  let q := fxQuad n.natAbs k
  let sc := fxSinCos q.2
  let m : Int := match q.1 with
    | 0 => sc.1
    | 1 => sc.2
    | 2 => -(sc.1 : Int)
    | _ => -(sc.2 : Int)
  fxVal (if n < 0 then -m else m)

/-- cos a. -/
def hpCos (n : Int) (k : Nat) : Val :=
  let q := fxQuad n.natAbs k
  let sc := fxSinCos q.2
  let m : Int := match q.1 with
    | 0 => sc.2
    | 1 => -(sc.1 : Int)
    | 2 => -(sc.2 : Int)
    | _ => sc.1
  fxVal m

/-- tanh |a|: 1 less a sliver from 64 on. -/
def fxTanh (n k : Nat) : Nat :=
  if 64 * 2 ^ k ≤ n then fxOne - 2 ^ (fxW - 150)
  else
    let x := toFx (2 * n) k
    let i := x / fxLn2
    let e := fxExpm1 (x % fxLn2)
    let em := if i = 0 then e else (fxOne + e) * 2 ^ i - fxOne
    em * fxOne / (em + 2 * fxOne)

/-- tanh a. -/
def hpTanh (n : Int) (k : Nat) : Val :=
  if isTiny n.natAbs k then lessSliver n k
  else
  let t : Int := fxTanh n.natAbs k
  fxVal (if n < 0 then -t else t)

/-! ## Values within a bound -/

/-- The finite codes of a format near a value, as signed magnitudes. -/
def nearCodes (f : Fmt) (v : Val) : List Int :=
  match v with
  | .fin n k =>
    let c : Int := f.roundMag .rne (decide (n < 0)) n.natAbs (2 ^ k) 0
    let z := if n < 0 then -c else c
    ((List.range 13).map (fun (i : Nat) => z + (i : Int) - 6)).filter (fun z => decide (z.natAbs ≤ f.maxCode))
  | _ => []

/-- Twice the ulp of a format at a value, in halves: the exponent of the ulp (R285). -/
def ulpExp (f : Fmt) (v : Val) : Int := max (v.ilog - f.mb) (1 - (f.bias : Int) - f.mb)

/-- A code lies within `b` ulps of the exact result. -/
def withinUlps (f : Fmt) (b : Nat) (v : Val) (z : Int) : Bool :=
  ((f.mag z.natAbs (decide (z < 0))).add v.neg).abs.le (.scaled b (ulpExp f v))

/-- The codes within the bound, no magnitude above 1 where `unit` asks for it. -/
def boundCodes (f : Fmt) (b : Nat) (unit : Bool) (v : Val) : List Int :=
  (nearCodes f v).filter (fun z => withinUlps f b v z &&
    (!unit || (f.mag z.natAbs false).le (.ofInt 1)))

/-- One value within the bound: a fixed function of the function's number, the type and the operand's bits (R286). The
result zero carries the sign of the exact result. -/
def pickWithin (t : Ty) (fn b : Nat) (unit : Bool) (bits : Nat) (v : Val) : Nat :=
  match tyFmt t with
  | none => 0
  | some f =>
    let cs := boundCodes f b unit v
    let z := cs.getD (Config.specPick fn t.code bits % Nat.max 1 cs.length) 0
    let neg := decide (z < 0) || (z == 0 && v.lt .zero)
    z.natAbs + f.signBit neg

/-- The exact value of largest finite magnitude of a format. -/
def Fmt.big (f : Fmt) : Val := f.mag f.maxCode false

/-! ## The functions (R285) -/

/-- The special functions of R285. -/
inductive SpecFn where
  | rcp | rsq | sqrt | exp2 | log2 | sin | cos | tanh
  deriving DecidableEq, Repr

/-- The number that names a function to Config.specPick. -/
def SpecFn.num : SpecFn → Nat
  | .rcp => 0
  | .rsq => 1
  | .sqrt => 2
  | .exp2 => 3
  | .log2 => 4
  | .sin => 5
  | .cos => 6
  | .tanh => 7

/-- Whether n · 2^(-k) is an integer. -/
def isInteger (n : Int) (k : Nat) : Bool := n % 2 ^ k == 0

/-- Whether a positive n is a power of two. -/
def isPowerOfTwo (n : Nat) : Bool := 2 ^ Nat.log2 n == n

/-- 2^a (R285). -/
def exp2Code (t : Ty) (f : Fmt) (bits : Nat) (n : Int) (k : Nat) : Nat :=
  let a := n / 2 ^ k
  if 2048 ≤ a then roundInf t false false
  else if a < -4096 then pickWithin t 3 2 false bits (.scaled 1 (-4096))
  else if isInteger n k then
    let v := Val.scaled 1 a
    let c := roundQ t .rtz false false (2 ^ a.toNat) (2 ^ (-a).toNat) 0
    if f.big.lt v then roundInf t false false
    else if (tyValue t c).numEq v then c
    else pickWithin t 3 2 false bits v
  else
    let v := hpExp2 n k
    if f.big.lt v then roundInf t false false else pickWithin t 3 2 false bits v

/-- A special function of an element of a floating type (R285, R286). `m` and `h` serve the two that round correctly. -/
def specCode (fn : SpecFn) (t : Ty) (m : Rnd) (h : Nat) (bits : Nat) : Nat :=
  match tyFmt t with
  | none => 0
  | some f =>
    let neg := bitOf bits (f.eb + f.mb)
    let nan := nanCode t
    let signedZero := f.signBit neg
    match f.value bits with
    | .nan => nan
    | .inf s =>
      match fn with
      | .rcp => f.signBit s
      | .rsq => if s then nan else 0
      | .sqrt => if s then nan else roundInf t false false
      | .exp2 => if s then 0 else roundInf t false false
      | .log2 => if s then nan else roundInf t false false
      | .sin => nan
      | .cos => nan
      | .tanh => round t .rne false 0 (.ofInt (if s then -1 else 1))
    | .fin n k =>
      if n = 0 then
        match fn with
        | .rcp => roundInf t false neg
        | .rsq => roundInf t false neg
        | .sqrt => signedZero
        | .exp2 => round t .rne false 0 (.ofInt 1)
        | .log2 => roundInf t false true
        | .sin => signedZero
        | .cos => round t .rne false 0 (.ofInt 1)
        | .tanh => signedZero
      else
        match fn with
        | .rcp => roundDiv t m false h (.ofInt 1) (.fin n k)
        | .rsq => if n < 0 then nan else pickWithin t 1 1 false bits (hpRsq n.natAbs k)
        | .sqrt => roundSqrt t m false h (.fin n k)
        | .exp2 => exp2Code t f bits n k
        | .log2 =>
          if n < 0 then nan
          else if isPowerOfTwo n.natAbs then round t .rne false 0 (.ofInt ((Nat.log2 n.natAbs : Int) - k))
          else pickWithin t 4 2 false bits (hpLog2 n.natAbs k)
        | .sin => pickWithin t 5 2 true bits (hpSin n k)
        | .cos => pickWithin t 6 2 true bits (hpCos n k)
        | .tanh => pickWithin t 7 2 true bits (hpTanh n k)

end Sys2Proof.Machine
end

