-- ==== Sys2Proof/Machine/Elem.lean ====
section
/-! DEFINITION. Elem: tiles and masks by element (R63, R269, R270, R273), the operations on one element (R275, R276, R284,
R285), and the interlock of tiles, masks and witnesses (R44, R271, R300). -/

namespace Sys2Proof.Machine

/-! ## Elements -/

/-- Elements per row of a type (R269). -/
def tyElems (t : Ty) : Nat := 2048 / tyBits t

/-- A tile register: 16 rows of 64 cells, zero at the start (R41). -/
def VecState.tile (v : VecState) (t : Nat) : List Cell32 := tget (List.replicate 1024 0) v.tiles t

/-- A mask register: 1,024 bytes (R270). -/
def VecState.mask (v : VecState) (n : Nat) : List Byte := tget (List.replicate 1024 0) v.masks n

/-- Setting a tile. -/
def VecState.setTile (v : VecState) (t : Nat) (c : List Cell32) : VecState := { v with tiles := tput v.tiles t c }

/-- Setting a mask. -/
def VecState.setMask (v : VecState) (n : Nat) (c : List Byte) : VecState := { v with masks := tput v.masks n c }

/-- A cell of a tile. -/
def cellOfTile (c : List Cell32) (i j : Nat) : Nat := (c.getD (64 * i + j) 0).toNat

/-- Element e of row i (R63, R269). -/
def elemAt (t : Ty) (c : List Cell32) (i e : Nat) : Nat :=
  let w := tyBits t
  if w = 64 then cellOfTile c i (2 * e) + cellOfTile c i (2 * e + 1) * 2 ^ 32
  else fld (cellOfTile c i (e * w / 32)) (e * w % 32) w

/-- The cell at (i, j) of a tile whose elements are given (R63, R269). -/
def cellFrom (t : Ty) (f : Nat → Nat → Nat) (i j : Nat) : Cell32 :=
  let w := tyBits t
  if w = 64 then BitVec.ofNat 32 (f i (j / 2) / 2 ^ (32 * (j % 2)))
  else
    let n := 32 / w
    BitVec.ofNat 32 ((List.range n).foldl (fun a k => a + f i (j * n + k) % 2 ^ w * 2 ^ (w * k)) 0)

/-- A tile of given elements. -/
def tileFrom (t : Ty) (f : Nat → Nat → Nat) : List Cell32 :=
  (List.range 1024).map (fun x => cellFrom t f (x / 64) (x % 64))

/-- The value of element e of row i, a block type's from the pair of registers (R66 to R68, R273). -/
def VecState.value (v : VecState) (t : Ty) (n i e : Nat) : Val :=
  let code := elemAt t (v.tile n) i e
  match t with
  | .kb4 => blockValue .kb4 (elemAt .i16 (v.tile (n + 1)) i (e / 8)) (e % 8) code
  | .kb8 => blockValue .kb8 (elemAt .n8 (v.tile (n + 1)) i (e / 8)) (e % 8) code
  | t => tyValue t code

/-! ## Masks -/

/-- The byte and the lowest bit of a mask that an element owns, and how many bits it owns of that byte (R270). -/
def maskPlace (t : Ty) (i e : Nat) : Nat × Nat × Nat :=
  let w := tyBits t
  if w = 64 then (64 * i + 2 * e, 0, 8) else (64 * i + e * w / 32, e * w % 32 * 8 / 32, 8 * w / 32)

/-- Reading a mask element (R270). -/
def maskBit (m : List Byte) (t : Ty) (i e : Nat) : Bool :=
  bitOf (m.getD (maskPlace t i e).1 0).toNat (maskPlace t i e).2.1

/-- An element of TD is written under a write mask (R270). -/
def VecState.written (v : VecState) (mk : Nat) (t : Ty) (i e : Nat) : Bool := mk == 0 || maskBit (v.mask mk) t i e

/-- A mask byte with the results of the elements that own its bits; `none` keeps them (R270). -/
def maskByte (t : Ty) (old : Byte) (f : Nat → Nat → Option Bool) (i j : Nat) : Byte :=
  let w := tyBits t
  if w = 64 then
    match f i (j / 2) with
    | some b => if b then 0xFF else 0
    | none => old
  else
    let n := 32 / w
    BitVec.ofNat 8 ((List.range n).foldl (fun a k =>
      let bits := 2 ^ (8 / n) - 1
      a + (match f i (j * n + k) with
        | some b => if b then bits * 2 ^ (k * 8 / n) else 0
        | none => fld old.toNat (k * 8 / n) (8 / n) * 2 ^ (k * 8 / n))) 0)

/-- Writing a mask by elements. -/
def maskFrom (t : Ty) (old : List Byte) (f : Nat → Nat → Option Bool) : List Byte :=
  (List.range 1024).map (fun x => maskByte t (old.getD x 0) f (x / 64) (x % 64))

/-! ## Operations on one element -/

/-- The element-wise operations (R274, R285). -/
inductive ElemOp where
  | add | sub | mul | fma | min | max | abs | neg | and | or | xor | shl | shr | sra | sadd | ssub
  | spec (f : SpecFn)
  deriving DecidableEq, Repr

/-- The sign bit of a floating code. -/
def codeNeg (t : Ty) (c : Nat) : Bool := bitOf c (tyBits t - 1)

/-- a lies below b: numbers by value with -0 below +0 (R272). -/
def elemLt (t : Ty) (a b : Nat) : Bool :=
  let x := tyValue t a
  let y := tyValue t b
  x.lt y || ((tyFmt t).isSome && x.isZero && y.isZero && codeNeg t a && !codeNeg t b)

/-- Whether a code is NaN. -/
def elemNan (t : Ty) (a : Nat) : Bool := (tyFmt t).isSome && (tyValue t a).isNan

/-- The lesser of two codes, NaN where either is (R275). -/
def elemMin (t : Ty) (a b : Nat) : Nat :=
  if elemNan t a || elemNan t b then nanCode t else if elemLt t b a then b else a

/-- The greater of two codes. -/
def elemMax (t : Ty) (a b : Nat) : Nat :=
  if elemNan t a || elemNan t b then nanCode t else if elemLt t a b then b else a

/-- A floating operation on codes (R275). -/
def floatOp (op : ElemOp) (t : Ty) (m : Rnd) (h a b c : Nat) : Nat :=
  let x := tyValue t a
  let y := tyValue t b
  let z := tyValue t c
  let w := tyBits t
  match op with
  | .add => round t m false h (x.add y)
  | .sub => round t m false h (x.add y.neg)
  | .mul => round t m false h (x.mul y)
  | .fma => round t m false h ((x.mul y).add z)
  | .min => elemMin t a b
  | .max => elemMax t a b
  | .abs => if x.isNan then nanCode t else a % 2 ^ (w - 1)
  | .neg => if x.isNan then nanCode t else if codeNeg t a then a - 2 ^ (w - 1) else a + 2 ^ (w - 1)
  | .spec f => specCode f t m h a
  | _ => 0

/-- Clamping an exact integer to the range of an integer type (R62). -/
def clampInt (t : Ty) (n : Int) : Nat := readOutInt t true n

/-- An integer operation on codes (R275). -/
def intOp (op : ElemOp) (t : Ty) (a b c : Nat) : Nat :=
  let w := tyBits t
  let signed := match tyInt t with | some (_, s) => s | none => false
  let x : Int := if signed then sext w a else (a : Nat)
  let y : Int := if signed then sext w b else (b : Nat)
  let z : Int := if signed then sext w c else (c : Nat)
  let sh := b % w
  match op with
  | .add => wrapInt w (x + y)
  | .sub => wrapInt w (x - y)
  | .mul => wrapInt w (x * y)
  | .fma => wrapInt w (x * y + z)
  | .min => elemMin t a b
  | .max => elemMax t a b
  | .abs => wrapInt w x.natAbs
  | .neg => wrapInt w (-x)
  | .shl => wrapInt w (x * 2 ^ sh)
  | .shr => a / 2 ^ sh
  | .sra => wrapInt w (sext w a / 2 ^ sh)
  | .sadd => clampInt t (x + y)
  | .ssub => clampInt t (x - y)
  | _ => 0

/-- An element-wise operation on codes of width w (R275, R285). -/
def elemOp (op : ElemOp) (t : Ty) (m : Rnd) (h a b c : Nat) : Nat :=
  match op with
  | .and => Nat.land a b
  | .or => Nat.lor a b
  | .xor => Nat.xor a b
  | op => if (tyFmt t).isSome then floatOp op t m h a b c else intOp op t a b c

/-- The conditions of VCMP (R276). -/
def elemCond (t : Ty) (cond a b : Nat) : Bool :=
  let x := tyValue t a
  let y := tyValue t b
  let un := elemNan t a || elemNan t b
  match cond with
  | 0 => x.numEq y
  | 1 => !(x.numEq y)
  | 2 => x.lt y
  | 3 => x.le y
  | 4 => y.lt x
  | 5 => y.le x
  | 6 => un
  | _ => !un

/-- VCLAMP on one element (R284). -/
def elemClamp (t : Ty) (a lo hi : Nat) : Nat :=
  if elemNan t a || elemNan t lo || elemNan t hi then nanCode t
  else if elemLt t hi a then hi else if elemLt t a lo then lo else a

/-- The sum of a set in a type (R288): floating rounded once, integers wrapped or clamped. -/
def elemSum (t : Ty) (m : Rnd) (sat : Bool) (h : Nat) (cs : List Nat) : Nat :=
  let v := Val.sum (cs.map (tyValue t))
  if (tyFmt t).isSome then round t m false h v else readOutInt t sat (v.atScale 0)

/-- The greatest or least member of a set. -/
def elemBest (t : Ty) (greatest : Bool) (cs : List Nat) : Nat :=
  match cs with
  | [] => 0
  | c :: cs => cs.foldl (fun a b => if greatest then elemMax t a b else elemMin t a b)
      (if elemNan t c then nanCode t else c)

/-- A reduction by function code: SUM, MAX, MIN (R288). -/
def elemReduce (t : Ty) (fn : Nat) (m : Rnd) (sat : Bool) (h : Nat) (cs : List Nat) : Nat :=
  if fn = 0 then elemSum t m sat h cs else elemBest t (fn == 1) cs

/-- Converting one element (R89, R280). -/
def elemCvt (dst : Ty) (m : Rnd) (sat : Bool) (h : Nat) (v : Val) : Nat := round dst m sat h v

/-- Whether a value is NaN or an infinity (R283). -/
def Val.nonFinite (v : Val) : Bool := !v.isFin

/-! ## Interlock -/

/-- The registers of a run of tiles. -/
def tileRun (t n : Nat) : List Nat := (List.range n).map (fun i => t + i)

/-- KB4 and KB8. -/
def isBlockTy : Ty → Bool
  | .kb4 => true
  | .kb8 => true
  | _ => false

/-- Tiles that a matrix entry reads at its start (R306, R308, R318). -/
def MEnt.reads (e : MEnt) : List Nat :=
  if e.started then []
  else
    match e.word with
    | .mldw f => if f.fn = 0 then tileRun f.ts.toNat (if isBlockTy (Ty.ofCode f.ty.toNat) then 8 else 4) else []
    | .mmul f =>
      if f.sq || bitOf f.hn.toNat 3 then []
      else
        let g := (f.fn.toNat + 16) / 16
        tileRun f.ts.toNat (if isBlockTy (Ty.ofCode f.ty.toNat) then 2 * g else g)
    | .mmode f => if !f.sq && bitOf f.fn.toNat 3 then [f.ts.toNat] else []
    | _ => []

/-- Tiles that a matrix entry writes (R316, R320, R323). -/
def MEnt.writes (e : MEnt) : List Nat :=
  match e.word with
  | .mrd f => tileRun f.ts.toNat (if isBlockTy (Ty.ofCode f.ty.toNat) then 2 else 1)
  | .kgen f => [f.ts.toNat]
  | .mstat f => [f.ts.toNat]
  | _ => []

/-- The keys of masks and witnesses beside tiles. -/
def maskKey (n : Nat) : Nat := 32 + n
/-- The key of a witness register. -/
def witKey (n : Nat) : Nat := 40 + n

/-- The write mask as a key to read. -/
def mkKeys (mk : BitVec 3) : List Nat := if mk = 0 then [] else [maskKey mk.toNat]

/-- No register of a list awaits an older write, of a vector word or of a queued matrix entry (R44). -/
def Bank.regsIn (k : Bank) (regs : List Nat) : Bool :=
  regs.all (fun t => decide (tget 0 k.vec.avail t ≤ k.clk) && !(k.mat.queue.any (fun e => e.writes.contains t)))

/-- The registers of a vector word are in place (R44): every older write is in, and no queued entry still reads one that is
written (R300). -/
def Bank.vecReady (k : Bank) (reads writes : List Nat) : Bool :=
  k.regsIn (reads ++ writes) && writes.all (fun t => !(k.mat.queue.any (fun e => e.reads.contains t)))

/-- Noting when written registers may be named (R271). -/
def VecState.later (v : VecState) (clk lat : Nat) (writes : List Nat) : VecState :=
  { v with avail := writes.foldl (fun t w => tput t w (clk + lat)) v.avail }

/-- The rounding mode of a word's MOD (R200). -/
def modRnd (md : BitVec 2) (rmode : BitVec 3) : Rnd :=
  match md.toNat with
  | 0 => Rnd.ofCode rmode.toNat
  | 1 => .rne
  | 2 => .rtz
  | _ => .rdh

/-- The dither hash of an element (R70, R272). -/
def VecState.hash (v : VecState) (m : Rnd) (i e : Nat) : Nat :=
  if m = .rdh then ditherHash v.dseed.toNat v.vseq.toNat i e else 0

end Sys2Proof.Machine
end

