-- ==== Sys2Proof/Machine/Collect.lean ====
section
/-! DEFINITION. Collect: planes and A rows (R302), exact collection (R75 to R80), read-out (R81 to R86, R316) and check
sampling (R87, R88). -/

namespace Sys2Proof.Machine

/-! ## Rows -/

/-- A row of zero bytes (R314). -/
def ARow.zero : ARow := { bytes := List.replicate 256 0, hdr := List.replicate 128 0 }

/-- Integer class (R302). -/
def isIntTy (t : Ty) : Bool := (tyInt t).isSome

/-- The class of a type (R302). -/
def tyClass (t : Ty) : RowClass := if isIntTy t then .integer else .floating

/-- Header bytes of a row of a type (R302, R308). -/
def hdrBytes : Ty → Nat
  | .kb4 => 128
  | .kb8 => 32
  | _ => 0

/-- Row time T (R302). -/
def rowTime : Ty → Nat
  | .f64 => 8
  | .f32 => 2
  | _ => 1

/-- The code of element e of a row of bytes (R63). -/
def rowCode (t : Ty) (bs : List Byte) (e : Nat) : Nat :=
  let w := tyBits t
  if w < 8 then fld (bs.getD (e / 2) 0).toNat (e % 2 * 4) 4 else leNat ((bs.drop (e * (w / 8))).take (w / 8))

/-- The header of block b of a row (R65, R68, R302). -/
def rowHdr (t : Ty) (hdr : List Byte) (b : Nat) : Nat :=
  if t = .kb4 then leNat ((hdr.drop (2 * b)).take 2) else (hdr.getD b 0).toNat

/-- The values of a row: Kd elements (R302). -/
def rowValues (t : Ty) (r : ARow) : List Val :=
  (List.range (tyElems t)).map (fun e =>
    if isBlockTy t then blockValue t (rowHdr t r.hdr (e / 8)) (e % 8) (rowCode t r.bytes e)
    else tyValue t (rowCode t r.bytes e))

/-- Row j of a plane (R301, R302). -/
def Plane.row (p : Plane) (j : Nat) : ARow :=
  { bytes := tget (List.replicate 256 0) p.rows j, hdr := tget (List.replicate 128 0) p.hdrs j }

/-- A plane of given rows. -/
def Plane.ofRows (t : Ty) (rs : List ARow) : Plane :=
  { rows := (List.range 64).map (fun j => (j, (rs.getD j .zero).bytes)),
    hdrs := (List.range 64).map (fun j => (j, (rs.getD j .zero).hdr)), ty := t }

/-- Four runs of 16 rows read through the skewed banks: cell 16k + c of row 16b + i is cell 16k + i of row 16b + c
(R308). -/
def transposeRows (rs : List ARow) : List ARow :=
  (List.range rs.length).map (fun r =>
    { bytes := (List.range 256).map (fun y =>
        let cell := y / 4
        let from_ := rs.getD (r / 16 * 16 + cell % 16) .zero
        from_.bytes.getD (4 * (cell / 16 * 16 + r % 16) + y % 4) 0), hdr := [] })

/-! ## Collection -/

/-- The contributions of one A row to one entry: the products, or the block sums (R78, R313). -/
def contributions (t : Ty) (a b : List Val) : List Val :=
  let ps := List.zipWith Val.mul a b
  if isBlockTy t then (List.range (ps.length / 8)).map (fun n => Val.sum ((ps.drop (8 * n)).take 8)) else ps

/-- Narrow types have no residue (R78). -/
def isNarrow : Ty → Bool
  | .e2m1 | .e4m3 | .e5m2 | .i4 | .i8 | .n8 => true
  | _ => false

/-- A is the largest exponent of the finite non-zero contributions (R79). -/
def anchor (ps : List Val) : Option Int :=
  ps.foldl (fun a p => if p.isFin && !p.isZero then
    (match a with | some x => some (max x p.ilog) | none => some p.ilog) else a) none

/-- A value is no multiple of 2^e. -/
def hasResidue (e : Int) : Val → Bool
  | .fin n k => n != 0 && decide (e + k > 0) && n % 2 ^ (e + k).toNat != 0
  | _ => false

/-- res(i, j) (R79). -/
def residues (t : Ty) (ps : List Val) : Nat :=
  if isNarrow t then 0
  else
    match anchor ps with
    | some a => (ps.filter (hasResidue (a - 119))).length
    | none => 0

/-- One row of R80: clocks so far and the residue queues of the 64 columns. -/
def residueRow (tt : Nat) (st : Nat × List Nat) (res : List Nat) : Nat × List Nat :=
  let q := st.2.map (fun x => x - tt)
  let need := (List.zipWith (fun a b => a + b - 64) q res).foldl Nat.max 0
  (st.1 + tt + need, List.zipWith (fun a b => a - need + b) q res)

/-- t of R80: the clocks of an entry whose rows have these residues. -/
def mmulClocks (tt : Nat) (res : List (List Nat)) : Nat :=
  let r := res.foldl (residueRow tt) (0, List.replicate 64 0)
  r.1 + r.2.foldl Nat.max 0

/-- A floating entry in its one form, a multiple of 2^(-2200) (R75). -/
def canonFloat (v : Val) : Val :=
  match v with
  | .fin n k => if n = 0 then .zero else .fin ((Val.fin n k).atScale 2200) 2200
  | w => w

/-- An integer entry: a sum of magnitude 2^96 or more is kept modulo 2^96 (R76). -/
def canonInt (v : Val) : Val :=
  let n := v.atScale 0
  if 2 ^ 96 ≤ n.natAbs then .ofInt (sext 96 (wrapInt 96 n)) else .ofInt n

/-- The value of an entry where it is read: a finite part of 2^2200 or more is an infinity (R76). -/
def readEntry (v : Val) : Val :=
  match v with
  | .fin n k => if 2 ^ (2200 + k) ≤ n.natAbs then .inf (decide (n < 0)) else .fin n k
  | w => w

/-- A collector at the start: exact zeros, rows unset, no tag (R301). -/
def Collector.start : Collector := { rows := [], cls := [], tag := none }

/-- Row i of a collector. -/
def Collector.row (c : Collector) (i : Nat) : List CEntry := tget (List.replicate 64 .zero) c.rows i

/-- The class of a row. -/
def Collector.classOf (c : Collector) (i : Nat) : RowClass := tget .unset c.cls i

/-- Adding one A row to collector row i (R76, R77, R313). -/
def Collector.addRow (c : Collector) (t : Ty) (i : Nat) (cs : List (List Val)) : Collector :=
  { c with
    rows := tput c.rows i (List.zipWith (fun old ps =>
      let v := Val.sum (old :: ps)
      if isIntTy t then canonInt v else canonFloat v) (c.row i) cs)
    cls := tput c.cls i (tyClass t), tag := none }

/-- The contributions of every A row to every column. -/
def allContributions (t : Ty) (plane : Plane) (rows : List ARow) : List (List (List Val)) :=
  let cols := (List.range 64).map (fun j => rowValues t (plane.row j))
  rows.map (fun r => let a := rowValues t r
                     cols.map (contributions t a))

/-- MMUL and MCHAIN on a collector (R313). -/
def Collector.mmul (c : Collector) (t : Ty) (g : Nat) (all : List (List (List Val))) : Collector :=
  (List.range all.length).foldl (fun c i => c.addRow t (16 * g + i) (all.getD i [])) c

/-- The entry count of R80. -/
def mmulTime (t : Ty) (all : List (List (List Val))) : Nat := mmulClocks (rowTime t) (all.map (fun r => r.map (residues t)))

/-! ## Read-out -/

/-- One row read out: the codes, the block headers, the count of non-finite blocks. -/
structure RowOut where
  codes : List Nat
  hdrs : List Nat
  bad : Nat
  deriving DecidableEq, Repr

/-- Reading out the entries of one row (R81 to R86, R316); `hs` gives the dither hash of an element. -/
def readRow (t : Ty) (m : Rnd) (sat : Bool) (hs : Nat → Nat) (k : Int) (cls : RowClass) (vs : List Val) : RowOut :=
  if isBlockTy t then
    let bs := (List.range (vs.length / 8)).map (fun b =>
      quantBlock t m (fun i => hs (8 * b + i)) (((vs.drop (8 * b)).take 8).map (fun v => v.scale k)))
    { codes := bs.flatMap (fun b => b.codes), hdrs := bs.map (fun b => b.hdr), bad := (bs.filter (fun b => b.bad)).length }
  else if isIntTy t && cls != .floating then
    { codes := vs.map (fun v => readOutInt t sat (v.atScale 0)), hdrs := [], bad := 0 }
  else
    { codes := (List.range vs.length).map (fun e => readOut t m sat (hs e) k (vs.getD e .zero)), hdrs := [], bad := 0 }

/-- The columns that a read-out selects: 32 from HI for MRD to F64, else all (R316, R317). -/
def readCols (f64Half : Option Nat) : List Nat :=
  match f64Half with
  | some hi => (List.range 32).map (fun e => 32 * hi + e)
  | none => List.range 64

/-- The exact values of one row of a group (R76, R316). -/
def Collector.values (c : Collector) (i : Nat) (cols : List Nat) : List Val :=
  cols.map (fun j => readEntry ((c.row i).getD j .zero))

/-- A read-out: its rows and its exact values. -/
def Collector.readOut (c : Collector) (t : Ty) (m : Rnd) (sat : Bool) (seed s g : Nat) (k : Int) (cols : List Nat) :
    List RowOut :=
  (List.range 16).map (fun i =>
    readRow t m sat (fun e => if m = .rdh then ditherHash seed s (16 * g + i) e else 0) k (c.classOf (16 * g + i))
      (c.values (16 * g + i) cols))

/-- The tiles an MRD writes: the codes, and for a block type the headers (R273, R316). -/
def outTiles (t : Ty) (rs : List RowOut) : List (List Cell32) :=
  let row := fun i => rs.getD i { codes := [], hdrs := [], bad := 0 }
  tileFrom t (fun i e => (row i).codes.getD e 0) ::
    (if isBlockTy t then [tileFrom (if t = .kb4 then .i16 else .n8) (fun i e => (row i).hdrs.getD e 0)] else [])

/-- Packing codes of w bits into 64-bit elements, lowest first (R317). -/
def packWords (w : Nat) (codes : List Nat) : List Word :=
  let n := 64 / w
  (List.range (codes.length / n)).map (fun i =>
    word ((List.range n).foldl (fun a j => a + codes.getD (n * i + j) 0 % 2 ^ w * 2 ^ (w * j)) 0))

/-- The elements an MRDQ pushes (R317). -/
def outWords (t : Ty) (rs : List RowOut) : List Word :=
  rs.flatMap (fun r => packWords (tyBits t) r.codes ++
    (if t = .kb4 then packWords 16 r.hdrs else if t = .kb8 then packWords 8 r.hdrs else []))

/-! ## Check sampling -/

/-- The decoded values of a row as written (R87). -/
def RowOut.values (t : Ty) (r : RowOut) : List Val :=
  (List.range r.codes.length).map (fun e =>
    if isBlockTy t then blockValue t (r.hdrs.getD (e / 8) 0) (e % 8) (r.codes.getD e 0) else tyValue t (r.codes.getD e 0))

/-- The largest differences so far: the absolute one, the relative one as a rational, and whether a relative one was
infinite (R87). -/
structure Diffs where
  dabs : Val
  num : Nat
  den : Nat
  inf : Bool
  deriving DecidableEq, Repr

/-- Comparing one element (R87). -/
def Diffs.compare (d : Diffs) (ref out : Val) : Diffs :=
  match ref, out with
  | .fin rn rk, .fin _ _ =>
    let da := (ref.add out.neg).abs
    let d1 := { d with dabs := d.dabs.larger da }
    if rn = 0 then { d1 with inf := d.inf || !out.isZero }
    else
      match da with
      | .fin n k =>
        let num := n.natAbs * 2 ^ rk
        let den := rn.natAbs * 2 ^ k
        if d.num * den < num * d.den then { d1 with num := num, den := den } else d1
      | _ => d1
  | _, _ => d

/-- The differences of a read-out (R87): `exact` holds the values after the scale step. -/
def sampleDiffs (pairs : List (Val × Val)) : Diffs :=
  pairs.foldl (fun d p => d.compare (fmtF32.value (round .f32 .rne false 0 p.1)) p.2) { dabs := .zero, num := 0, den := 1, inf := false }

/-- MAXREL as an F32 code (R87). -/
def Diffs.relCode (d : Diffs) : Nat :=
  if d.inf then roundInf .f32 false false else roundQ .f32 .rup false false d.num d.den 0

/-- The sampling record without its SEQ (R88). -/
def sampleRecord (t : Ty) (m : Rnd) (sat : Bool) (s pos taskId core : Nat) (exact : List (List Val)) (rs : List RowOut) :
    List Byte :=
  let outs := rs.map (RowOut.values t)
  let d := sampleDiffs (exact.flatten.zip outs.flatten)
  let nfc := if isBlockTy t then rs.foldl (fun n r => n + r.bad) 0 else (outs.flatten.filter Val.nonFinite).length
  leBytes 4 (round .f32 .rup false 0 d.dabs) ++ leBytes 4 d.relCode ++ leBytes 4 s ++ leBytes 2 (Nat.min nfc 0xFFFF) ++
    leBytes 1 (t.code + (if sat then 16 else 0) + m.code * 32) ++ [1] ++ leBytes 4 pos ++ leBytes 4 taskId ++
    leBytes 2 core ++ [0, 0]

/-- A read-out is sampled (R87). -/
def isSampled (period s : Nat) : Bool := period != 0 && (s + 1) % period == 0

end Sys2Proof.Machine
end

