-- ==== Sys2Proof/Machine/Kettle.lean ====
section
/-! DEFINITION. Kettle: kernels (R15, R24, R321), the entries of implicit matrices (R322) and the fixed-iteration solver
(R324 to R328). -/

namespace Sys2Proof.Machine

/-! ## Kernel words -/

/-- A step of a kernel. -/
inductive KStep where
  | op (o : ElemOp) (td ta tb tc : Nat)
  | cmp (md ta tb cond : Nat)
  | sel (td ta tb mc : Nat)
  | halt
  deriving DecidableEq, Repr

/-- The fields that a kernel word must leave 0, and its type (R321). -/
def kernelPlain (f : VF) (ty : Nat) : Bool :=
  f.h.idle == 0 && f.h.pred == 0 && !f.h.pneg && f.sm == 0 && f.sx == 0 && f.si == 0 && f.msk == 0 && f.md == 0 &&
    f.ty.toNat == ty

/-- A step of one source, with TC unused. -/
def kernel1 (o : ElemOp) (f : VF) (ty : Nat) : Option KStep :=
  if kernelPlain f ty && f.tb == 0 && f.tc == 0 then some (.op o f.td.toNat f.ta.toNat 0 0) else none

/-- A step of two sources. -/
def kernel2 (o : ElemOp) (f : VF) (ty : Nat) : Option KStep :=
  if kernelPlain f ty && f.tc == 0 then some (.op o f.td.toNat f.ta.toNat f.tb.toNat 0) else none

/-- The step of a decoded word of the kernel set (R15). -/
def kernelStep (ty : Nat) : Instr → Option KStep
  | .vadd f => kernel2 .add f ty
  | .vsub f => kernel2 .sub f ty
  | .vmul f => kernel2 .mul f ty
  | .vfma f => if kernelPlain f ty then some (.op .fma f.td.toNat f.ta.toNat f.tb.toNat f.tc.toNat) else none
  | .vmin f => kernel2 .min f ty
  | .vmax f => kernel2 .max f ty
  | .vabs f => kernel1 .abs f ty
  | .vneg f => kernel1 .neg f ty
  | .vrcp f => kernel1 (.spec .rcp) f ty
  | .vrsq f => kernel1 (.spec .rsq) f ty
  | .vsqrt f => kernel1 (.spec .sqrt) f ty
  | .vexp2 f => kernel1 (.spec .exp2) f ty
  | .vlog2 f => kernel1 (.spec .log2) f ty
  | .vsin f => kernel1 (.spec .sin) f ty
  | .vcos f => kernel1 (.spec .cos) f ty
  | .vtanh f => kernel1 (.spec .tanh) f ty
  | .vcmp f => if kernelPlain f ty then some (.cmp f.td.toNat f.ta.toNat f.tb.toNat f.tc.toNat) else none
  | .vsel f => if kernelPlain f ty then some (.sel f.td.toNat f.ta.toNat f.tb.toNat f.tc.toNat) else none
  | .halt f => if f.h.idle == 0 && f.h.pred == 0 && !f.h.pneg then some .halt else none
  | _ => none

/-- A source of a kernel of D dimensions (R321). -/
def kernelSrc (d t : Nat) : Bool := decide (t < d) || (decide (8 ≤ t) && decide (t < 8 + d)) || decide (16 ≤ t)

/-- A destination (R321). -/
def kernelDst (t : Nat) : Bool := (decide (16 ≤ t) && decide (t ≤ 27)) || t == 31

/-- The sources and the destination of a step are allowed (R321). -/
def KStep.ok (d : Nat) : KStep → Bool
  | .op o td ta tb tc =>
    kernelDst td && kernelSrc d ta &&
      (match o with
       | .abs | .neg | .spec _ => true
       | .fma => kernelSrc d tb && kernelSrc d tc
       | _ => kernelSrc d tb)
  | .cmp _ ta tb _ => kernelSrc d ta && kernelSrc d tb
  | .sel td ta tb _ => kernelDst td && kernelSrc d ta && kernelSrc d tb
  | .halt => true

/-- The step of a word. -/
def kernelWord (ty : Nat) (w : Word) : Option KStep :=
  match decodeWord w with
  | .ok i => kernelStep ty i
  | .error _ => none

/-- The words of a kernel as steps up to its HALT; `none` where KBIND refuses them (R321). -/
def kernelSteps (ty d : Nat) (ws : List Word) : Option (List KStep) :=
  let ss := ws.map (kernelWord ty)
  if decide (32 < ws.length) || !(ss.all (fun s => match s with | some k => k.ok d | none => false)) then none
  else if ss.contains (some .halt) then some ((ss.takeWhile (· != some .halt)).filterMap id) else none

/-- L: the kernel length, HALT excluded, 0 counted as 1 (R307). -/
def Binding.len (b : Binding) : Nat := Nat.max 1 (b.words.length - 1)

/-- w of R307. -/
def Binding.w (b : Binding) : Nat := if b.ty = .f64 then 4 else 1

/-- Bytes of a value of F32 or F64. -/
def valBytes (t : Ty) : Nat := tyBits t / 8

/-- A kernel that KBIND accepts (R24, R321). -/
def Kernel.accepted (k : Kernel) (ty : Ty) : Bool :=
  let b := fun i => (k.hdr.getD i 0).toNat
  decide (1 ≤ b 2) && decide (b 2 ≤ 8) && (k.hdr.drop 4).all (· == 0) && (kernelSteps ty.code (b 2) k.words).isSome

/-! ## Entries -/

/-- A lane: tile registers and masks of its own (R322). -/
structure Lane where
  t : Table Nat
  m : Table Bool
  deriving DecidableEq, Repr

/-- One kernel step on a lane, rounding RNE (R322). -/
def Lane.run (ty : Ty) (l : Lane) : KStep → Lane
  | .op o td ta tb tc => { l with t := tput l.t td (elemOp o ty .rne 0 (tget 0 l.t ta) (tget 0 l.t tb) (tget 0 l.t tc)) }
  | .cmp md ta tb cond => { l with m := tput l.m md (elemCond ty cond (tget 0 l.t ta) (tget 0 l.t tb)) }
  | .sel td ta tb mc => { l with t := tput l.t td (if tget false l.m mc then tget 0 l.t ta else tget 0 l.t tb) }
  | .halt => l

/-- Coordinate d of a point's bytes (R322). -/
def coordAt (t : Ty) (bs : List Byte) (d : Nat) : Nat := leNat ((bs.drop (valBytes t * d)).take (valBytes t))

/-- The lane before its first step (R322). -/
def Binding.lane (b : Binding) (row col : List Byte) : Lane :=
  { t := (List.range b.d).map (fun d => (d, coordAt b.ty row d)) ++
      (List.range b.d).map (fun d => (8 + d, coordAt b.ty col d)) ++
      (List.range 3).map (fun n => (28 + n, (b.consts.getD n 0).toNat)), m := [] }

/-- Entry of R322 at tensor rows I and J, whose points' bytes are given: a code of the binding's type. -/
def Binding.entry (b : Binding) (i j : Nat) (row col : List Byte) : Nat :=
  if b.nr ≤ i ∨ b.nc ≤ j then 0
  else if b.override ∧ b.same ∧ i = j then b.overrideVal.toNat
  else
    let steps := (kernelSteps b.ty.code b.d b.words).getD []
    tget 0 (steps.foldl (Lane.run b.ty) (b.lane row col)).t 31

/-- The entry as a value. -/
def Binding.value (b : Binding) (i j : Nat) (row col : List Byte) : Val := tyValue b.ty (b.entry i j row col)

/-- The codes of a plane from a handle: B(e, j) for e below Kd (R311). -/
def Binding.planeRow (b : Binding) (ty : Ty) (m : Rnd) (sat : Bool) (i0 j0 : Nat) (rows cols : List ARow) (j : Nat) :
    List Nat :=
  (List.range (tyElems ty)).map (fun e =>
    round ty m sat 0 (b.value (i0 + e) (j0 + j) (rows.getD e .zero).bytes (cols.getD j .zero).bytes))

/-- The bytes of a row of codes of at least 8 bits. -/
def codeBytes (t : Ty) (cs : List Nat) : List Byte := cs.flatMap (fun c => leBytes (tyBits t / 8) c)

/-- KNF: how many codes decode non-finite (R311, R323). -/
def countNonFinite (t : Ty) (cs : List Nat) : Nat := (cs.filter (fun c => (tyValue t c).nonFinite)).length

/-- KNF and KNFT after an entry (R311, R320, R323). -/
def MStat.kernels (s : MStat) (knf : Nat) : MStat := { s with knf := knf, knft := Nat.min (s.knft + knf) (2 ^ 32 - 1) }

/-! ## MSOLVE -/

/-- Quot of R325: a tag gives NaN; 0 over 0 gives NaN (DEDUCED, log 25). -/
def quot (t : Ty) (p q : Val) : Nat :=
  if p.isFin && q.isFin then roundDiv t .rne false 0 p q else nanCode t

/-- One right-hand side in progress: codes of x, r and p, and rz exact (R325). -/
structure Cg where
  x : List Nat
  r : List Nat
  p : List Nat
  rz : Val
  deriving DecidableEq, Repr

/-- Values of a list of codes. -/
def valsOf (t : Ty) (cs : List Nat) : List Val := cs.map (tyValue t)

/-- An exact dot product (R325). -/
def dot (a b : List Val) : Val := Val.sum (List.zipWith Val.mul a b)

/-- Round into TY under RNE (R325). -/
def rne (t : Ty) (v : Val) : Nat := round t .rne false 0 v

/-- The state before the first iteration (R325). -/
def cgStart (t : Ty) (a : List (List Val)) (d b : List Val) (x : List Nat) : Cg :=
  let xs := valsOf t x
  let r := List.zipWith (fun row bi => rne t (bi.add (dot row xs).neg)) a b
  let z := List.zipWith (fun ri di => quot t (tyValue t ri) di) r d
  { x := x, r := r, p := z, rz := dot (valsOf t r) (valsOf t z) }

/-- One iteration (R325). -/
def cgStep (t : Ty) (a : List (List Val)) (d : List Val) (s : Cg) : Cg :=
  let ps := valsOf t s.p
  let q := valsOf t (a.map (fun row => rne t (dot row ps)))
  let pq := dot ps q
  let al := if pq.isZero then Val.zero else tyValue t (quot t s.rz pq)
  let x := List.zipWith (fun xi pi => rne t (xi.add (al.mul pi))) (valsOf t s.x) ps
  let r := List.zipWith (fun ri qi => rne t (ri.add (al.mul qi).neg)) (valsOf t s.r) q
  let z := List.zipWith (fun ri di => quot t (tyValue t ri) di) r d
  let rz := dot (valsOf t r) (valsOf t z)
  let be := if s.rz.isZero then Val.zero else tyValue t (quot t rz s.rz)
  { x := x, r := r, p := List.zipWith (fun zi pi => rne t (zi.add (be.mul pi))) (valsOf t z) ps, rz := rz }

/-- I iterations. -/
def cgRun (t : Ty) (a : List (List Val)) (d : List Val) : Nat → Cg → Cg
  | 0, s => s
  | n + 1, s => cgRun t a d n (cgStep t a d s)

/-- The matrix A of R325 in TY: off the diagonal the entries rounded, on it the entry and lambda rounded once. -/
def solveMatrix (t : Ty) (h : Binding) (i0 j0 n : Nat) (rows cols : List ARow) : List (List Val) :=
  (List.range n).map (fun i => (List.range n).map (fun j =>
    let v := h.value (i0 + i) (j0 + j) (rows.getD i .zero).bytes (cols.getD j .zero).bytes
    tyValue t (rne t (if i = j then v.add (tyValue h.ty h.lam.toNat) else v))))

/-- The diagonal with zeros replaced by 1, and SDZ (R325). -/
def solveDiag (a : List (List Val)) : List Val × Bool :=
  let d := (List.range a.length).map (fun i => (a.getD i []).getD i .zero)
  (d.map (fun v => if v.isZero then .ofInt 1 else v), d.any Val.isZero)

/-- SIG of R326. -/
def solveSig (h : Binding) (n : Nat) (rows cols : List ARow) : Nat :=
  let pt := fun (r : ARow) => r.bytes.take (h.d * valBytes h.ty)
  leNat (shake256 4 (h.words.flatMap (fun w => leBytes 8 w.toNat) ++ [if h.override then 1 else 0] ++
    leBytes (valBytes h.ty) h.overrideVal.toNat ++ (rows.take n).flatMap pt ++ (cols.take n).flatMap pt))

/-- The collectors that hold a solution: entry (i mod 64, c) of collector ⌊i/64⌋ is x(i, c), every other entry zero, every
row floating (R327). -/
def solutionColl (t : Ty) (xs : List (List Nat)) (b : Nat) (tag : STag) : Collector :=
  { rows := (List.range 64).map (fun r => (r, (List.range 64).map (fun c =>
      canonFloat (tyValue t ((xs.getD c []).getD (64 * b + r) 0))))),
    cls := (List.range 64).map (fun r => (r, .floating)), tag := some tag }

/-- C of R328. -/
def solveClocks (h : Binding) (t : Ty) (n m iters : Nat) : Nat :=
  let nb := (n + 63) / 64
  let mb := (m + 15) / 16
  let mm := (n * n * h.len * h.w + 255) / 256 + 32
  let v := 24 * nb * mb * (if t = .f32 then 1 else 2) + 48
  96 + (iters + 1) * mm + iters * v

end Sys2Proof.Machine
end

