-- ==== Sys2Proof/Machine/Matrix.lean ====
section
/-! DEFINITION. Matrix: the matrix words of X: their checks on the tracked state and their entry into the matrix queue
(R303 to R324). -/

namespace Sys2Proof.Machine

/-! ## The tracked state -/

/-- What the checks of an entry read, as it will stand when the entry starts (R304). `cls` is keyed by 64·collector + row. -/
structure Tracked where
  stationary : Ty
  shadow : Ty
  cls : Table RowClass
  handles : Table Binding
  mode : Rnd
  deriving DecidableEq, Repr

/-- Setting the class of rows of a collector. -/
def Tracked.setRows (t : Tracked) (c first n : Nat) (v : RowClass) : Tracked :=
  { t with cls := (List.range n).foldl (fun a r => tput a (64 * c + first + r) v) t.cls }

/-- The class of a row. -/
def Tracked.row (t : Tracked) (c r : Nat) : RowClass := tget .unset t.cls (64 * c + r)

/-- The type of an entry. -/
def xtype (f : XF) : Ty := Ty.ofCode f.ty.toNat

/-- The row count of MMUL and MCHAIN. -/
def xrows (f : XF) : Nat := f.fn.toNat + 1

/-- The row group g. -/
def xgroup (f : XF) : Nat := fld f.hn.toNat 0 2

/-- The tracked state after an entry has taken effect. -/
def Tracked.after (t : Tracked) (e : MEnt) : Tracked :=
  match e.word with
  | .mldw f => { t with shadow := xtype f }
  | .mswap _ => { t with stationary := t.shadow, shadow := t.stationary }
  | .mmul f => t.setRows f.ct.toNat (16 * xgroup f) (xrows f) (tyClass (xtype f))
  | .mchain f => t.setRows f.ct.toNat (16 * xgroup f) (xrows f) (tyClass (xtype f))
  | .mzero f => t.setRows f.ct.toNat 0 64 .unset
  | .msolve f =>
    match e.binding with
    | some b => (List.range ((b.nr + 63) / 64)).foldl (fun t n => t.setRows (f.ct.toNat + n) 0 64 .floating) t
    | none => t
  | .mmode f => { t with mode := Rnd.ofCode (fld f.fn.toNat 0 3) }
  | .kbind f =>
    match e.binding with
    | some b => { t with handles := tput t.handles f.hn.toNat b }
    | none => t
  | .krel f => { t with handles := tdel t.handles f.hn.toNat }
  | _ => t

/-- The tracked state behind every queued entry (R304). -/
def MatState.tracked (m : MatState) : Tracked :=
  m.queue.foldl Tracked.after
    { stationary := m.stationary.ty, shadow := m.shadow.ty,
      cls := m.coll.flatMap (fun c => c.2.cls.map (fun r => (64 * c.1 + r.1, r.2))), handles := m.handles, mode := m.mode }

/-- The binding of a handle in the tracked state. -/
def Tracked.handle (t : Tracked) (h : Nat) : Option Binding := tfind t.handles h

/-! ## Trail operands -/

/-- The setting of a trail as an input trail (R306, R308). -/
def Bank.inputTrail (k : Bank) (t : Nat) : Option TrailGen :=
  match k.trailNow t with
  | some g => if g.desc.dir = 0 then some g else none
  | none => none

/-- `n` window rows from row `first` on, as recorded at issue (R306). -/
def TrailGen.ref (g : TrailGen) (t first n : Nat) : RowRef :=
  { trail := t, uid := g.uid, first := g.oldest + first, count := n, desc := g.desc }

/-- Rows of two point trails, where RINGROWS suffices: `rmin` and `cmin` are what the checks demand (R311, R323, R324). -/
def Bank.pointRefs (k : Bank) (b : Binding) (rfirst rn cfirst cn rmin cmin : Nat) : Option (List RowRef) :=
  match k.inputTrail b.rowTrail, k.inputTrail b.colTrail with
  | some r, some c =>
    if r.desc.ringrows < rmin ∨ c.desc.ringrows < cmin then none
    else some [r.ref b.rowTrail rfirst rn, c.ref b.colTrail cfirst cn]
  | _, _ => none

/-! ## Entries -/

/-- The elements of an A row from a stream register (R308). -/
def streamRowWords (t : Ty) : Nat := 32 + hdrBytes t / 8

/-- A queue entry of a word (R304). -/
def Ctx.entry (c : Ctx) (i : Instr) (refs : List RowRef) (b : Option Binding) (params : List Word) : MEnt :=
  { word := i, pos := c.s.pos, ord := c.k.nextId, mode := c.k.mat.tracked.mode, seed := 0, period := 0, refs := refs,
    binding := b, params := params, started := false, src := [], buf := [], out := [], rowsDone := 0,
    startClk := 0, held := 0, tseq := 0 }

/-- Whether an entry sends its rows east, or takes them from the west (R314). -/
def isChained : Instr → Bool
  | .mmul f => f.chn == 1
  | .mchain _ => true
  | _ => false

/-- Queueing an entry, with occupancy 1 (R304). -/
def Ctx.queueEntry (c : Ctx) (m : Mach) (e : MEnt) : Act :=
  .done (m.modBank c.b (fun k =>
    { k with nextId := k.nextId + 1,
             mat := { k.mat with queue := k.mat.queue ++ [e], chained := k.mat.chained || isChained e.word } })) 1 none

/-- A matrix word: it stalls while the queue holds 16 entries or a tile that it reads or writes is not in place (R44, R304,
R306); `tiles` are those it reads on the issue clock. Its checks then answer a cause or its entry. -/
def matWord (i : Instr) (tiles : List Nat) (s : State) (check : Ctx → Except Cause MEnt) :
    Host.Outcome State Fault Refusal :=
  issueWord i s (fun c m =>
    let stub := c.entry i [] none []
    if 16 ≤ c.k.mat.queue.length || !(c.k.regsIn (tiles ++ stub.reads ++ stub.writes)) then .stall
    else
      match check c with
      | .error cause => .trap (c.trap cause)
      | .ok e => c.queueEntry m e)

/-- The source checks of MLDW and MMUL (R306, R308): `rows` rows of a type, from tiles, a stream register or a trail. Answers
the recorded rows. -/
def Ctx.sourceCheck (c : Ctx) (f : XF) (isTrail : Bool) (rows : Nat) (whole : Bool) : Except Cause (List RowRef) :=
  let t := xtype f
  let block := isBlockTy t
  let n := (rows + 15) / 16
  let ts := f.ts.toNat
  if isTrail then
    if f.t && (block || rows % 16 != 0) then .error .illegal
    else
      match c.k.inputTrail ts with
      | none => .error .trailx
      | some g =>
        if g.desc.ringrows < rows ∨ g.desc.rowlen < 256 + hdrBytes t then .error .trailx
        else .ok [g.ref ts 0 rows]
  else if f.sq then (if c.k.popRefused ts then .error .qovf else .ok [])
  else if block then (if ts % 2 ≠ 0 ∨ 31 < ts + 2 * n - 1 then .error .illegal else .ok [])
  else if (whole && ts % 4 != 0) || decide (31 < ts + n - 1) then .error .illegal
  else .ok []

/-- MLDW (R311). -/
def execMldw (f : XF) (s : State) : Host.Outcome State Fault Refusal :=
  matWord (.mldw f) [] s (fun c =>
    if f.fn = 3 then
      match c.k.mat.tracked.handle f.hn.toNat with
      | none => .error .kbind
      | some b =>
        let kd := tyElems (xtype f)
        match c.k.pointRefs b 0 kd 0 64 kd 64 with
        | none => .error .trailx
        | some refs => .ok (c.entry (.mldw f) refs (some b) [])
    else (c.sourceCheck f (f.fn == 2) 64 true).map (fun refs => c.entry (.mldw f) refs none []))

/-- MSWAP (R310). -/
def execMswap (f : XF) (s : State) : Host.Outcome State Fault Refusal :=
  matWord (.mswap f) [] s (fun c => .ok (c.entry (.mswap f) [] none []))

/-- A gang member's rank and GLAST (R314). -/
def Ctx.rank (c : Ctx) : Nat × Nat := match c.k.task with | some t => (t.rank, t.glast) | none => (0, 0)

/-- The target checks of MMUL and MCHAIN (R312), and CHN (R314). -/
def Ctx.targetCheck (c : Ctx) (f : XF) (west : Bool) : Option Cause :=
  let tr := c.k.mat.tracked
  let g := xgroup f
  let n := xrows f
  let other : RowClass := if tyClass (xtype f) = .integer then .floating else .integer
  if 64 < 16 * g + n || decide (xtype f ≠ tr.stationary) ||
      (List.range n).any (fun i => tr.row f.ct.toNat (16 * g + i) == other) ||
      (f.chn == 1 && (c.rank.1 == c.rank.2 || c.rank.1 % 4 == 3)) || (west && c.rank.1 % 4 == 0) then some .illegal
  else none

/-- MMUL (R312). -/
def execMmul (f : XF) (s : State) : Host.Outcome State Fault Refusal :=
  matWord (.mmul f) [] s (fun c =>
    match c.targetCheck f false with
    | some cause => .error cause
    | none => (c.sourceCheck f (bitOf f.hn.toNat 3) (xrows f) false).map (fun refs => c.entry (.mmul f) refs none []))

/-- MCHAIN (R312, R314). -/
def execMchain (f : XF) (s : State) : Host.Outcome State Fault Refusal :=
  matWord (.mchain f) [] s (fun c =>
    match c.targetCheck f true with
    | some cause => .error cause
    | none => .ok (c.entry (.mchain f) [] none []))

/-- MZERO (R309). -/
def execMzero (f : XF) (s : State) : Host.Outcome State Fault Refusal :=
  matWord (.mzero f) [] s (fun c => .ok (c.entry (.mzero f) [] none []))

/-- The scale exponent k, signed (R303). -/
def xscale (f : XF) : Int := f.fn.toInt

/-- The checks of MRD and MRDQ (R315). -/
def Ctx.readCheck (c : Ctx) (f : XF) (hi pair : Bool) : Bool :=
  let t := xtype f
  (f.fn == 0 || !((List.range 16).any (fun i => c.k.mat.tracked.row f.ct.toNat (16 * xgroup f + i) == .integer))) &&
    (!hi || t == .f64) && !(isBlockTy t && (f.sat || pair))

/-- The mode of a read-out: RNE with ACC, else the engine mode that stands for it (R315). -/
def Ctx.readEntry (c : Ctx) (i : Instr) (f : XF) : MEnt :=
  let e := c.entry i [] none []
  if f.acc then { e with mode := .rne } else e

/-- MRD (R315, R316). -/
def execMrd (f : XF) (s : State) : Host.Outcome State Fault Refusal :=
  matWord (.mrd f) [] s (fun c =>
    if c.readCheck f (bitOf f.hn.toNat 2) (f.ts.toNat % 2 == 1) then .ok (c.readEntry (.mrd f) f) else .error .illegal)

/-- MRDQ (R315, R317). -/
def execMrdq (f : XF) (s : State) : Host.Outcome State Fault Refusal :=
  matWord (.mrdq f) [] s (fun c =>
    if !(c.readCheck f false false) then .error .illegal
    else if c.k.pushRefused f.ts.toNat then .error .qovf
    else .ok (c.readEntry (.mrdq f) f))

/-- MMODE (R318): the mode stands for every younger entry. -/
def execMmode (f : XF) (s : State) : Host.Outcome State Fault Refusal :=
  matWord (.mmode f) [] s (fun c =>
    if f.sq && c.k.popRefused f.ts.toNat then .error .qovf else .ok (c.entry (.mmode f) [] none []))

/-- MSAMP (R319). -/
def execMsamp (f : XF) (s : State) : Host.Outcome State Fault Refusal :=
  matWord (.msamp f) [] s (fun c => .ok (c.entry (.msamp f) [] none []))

/-- MSTAT (R320). -/
def execMstat (f : XF) (s : State) : Host.Outcome State Fault Refusal :=
  matWord (.mstat f) [] s (fun c => .ok (c.entry (.mstat f) [] none []))

/-- SAME of R321: one trail number, or equal tensor base, STRIDE and ROWLEN. -/
def sameTrails (rt ct : Nat) (r c : TrailGen) : Bool :=
  rt == ct || (r.base == c.base && r.desc.stride == c.desc.stride && r.desc.rowlen == c.desc.rowlen)

/-- The binding that KBIND forms from a kernel and the constants in a tile (R321). -/
def Bank.bindingOf (k : Bank) (f : XF) (kn : Nat) (kern : Kernel) (r c : TrailGen) : Binding :=
  let t := xtype f
  let tc := k.vec.tile f.ts.toNat
  let el := fun e => word (elemAt t tc 0 e)
  let rt := (kern.hdr.getD 0 0).toNat
  let ct := (kern.hdr.getD 1 0).toNat
  { ty := t, kernel := kn, words := kern.words, d := (kern.hdr.getD 2 0).toNat, rowTrail := rt, colTrail := ct,
    consts := [el 0, el 1, el 2], lam := el 3, override := f.acc, overrideVal := el 4, nr := elemAt .n32 tc 1 0,
    nc := elemAt .n32 tc 1 1, same := sameTrails rt ct r c }

/-- KBIND (R321). -/
def execKbind (f : XF) (s : State) : Host.Outcome State Fault Refusal :=
  matWord (.kbind f) [f.ts.toNat] s (fun c =>
    let kn := fld f.fn.toNat 0 4
    let t := xtype f
    match tfind c.k.kernels kn with
    | none => .error .kbind
    | some kern =>
      let tc := c.k.vec.tile f.ts.toNat
      if !(kern.accepted t) || elemAt .n32 tc 1 0 == 0 || elemAt .n32 tc 1 1 == 0 then .error .kbind
      else
        match c.k.inputTrail (kern.hdr.getD 0 0).toNat, c.k.inputTrail (kern.hdr.getD 1 0).toNat with
        | some r, some l =>
          let need := valBytes t * (kern.hdr.getD 2 0).toNat
          if r.desc.rowlen < need ∨ l.desc.rowlen < need then .error .trailx
          else .ok (c.entry (.kbind f) [] (some (c.k.bindingOf f kn kern r l)) [])
        | _, _ => .error .trailx)

/-- KREL (R321). -/
def execKrel (f : XF) (s : State) : Host.Outcome State Fault Refusal :=
  matWord (.krel f) [] s (fun c => .ok (c.entry (.krel f) [] none []))

/-- KGEN (R323). -/
def execKgen (f : XF) (s : State) : Host.Outcome State Fault Refusal :=
  matWord (.kgen f) [] s (fun c =>
    let g := fld f.fn.toNat 0 2
    let hi := bitOf f.fn.toNat 2
    match c.k.mat.tracked.handle f.hn.toNat with
    | none => .error .kbind
    | some b =>
      let r := if xtype f = .f64 then c.k.pointRefs b (16 * g) 16 (if hi then 32 else 0) 32 (16 * g + 16) 64
        else c.k.pointRefs b (16 * g) 16 0 64 (16 * g + 16) 64
      match r with
      | none => .error .trailx
      | some refs =>
        if xtype f ≠ b.ty ∨ (hi ∧ xtype f ≠ .f64) then .error .illegal
        else .ok (c.entry (.kgen f) refs (some b) []))

/-- MSOLVE (R324). -/
def execMsolve (f : XF) (s : State) : Host.Outcome State Fault Refusal :=
  matWord (.msolve f) [f.ts.toNat] s (fun c =>
    let tp := c.k.vec.tile f.ts.toNat
    let iters := elemAt .n32 tp 0 0
    let mr := elemAt .n32 tp 0 1
    let bt := fld f.fn.toNat 0 4
    match c.k.mat.tracked.handle f.hn.toNat with
    | none => .error .kbind
    | some b =>
      let n := b.nr
      if iters < 1 ∨ 1023 < iters ∨ mr < 1 ∨ 64 < mr ∨ b.nr ≠ b.nc ∨ 1024 < n ∨ 16 < f.ct.toNat + (n + 63) / 64 then
        .error .illegal
      else
        match c.k.pointRefs b 0 n 0 n n n, c.k.inputTrail bt with
        | some refs, some g =>
          if g.desc.ringrows < n ∨ g.desc.rowlen < mr * valBytes (xtype f) then .error .trailx
          else .ok (c.entry (.msolve f) (refs ++ [g.ref bt 0 n]) (some b) [word iters, word mr])
        | _, _ => .error .trailx)

end Sys2Proof.Machine
end

