-- ==== Sys2Proof/Machine/MatrixEngine.lean ====
section
/-! DEFINITION. MatrixEngine: the start, progress and completion of matrix entries (R305 to R329). -/

namespace Sys2Proof.Machine

/-! ## Accessors -/

/-- Changing the matrix state of a bank. -/
def Mach.modMat (m : Mach) (b : Nat) (f : MatState → MatState) : Mach := m.modBank b (fun k => { k with mat := f k.mat })

/-- Changing an entry of the queue. -/
def Mach.modEnt (m : Mach) (b i : Nat) (f : MEnt → MEnt) : Mach :=
  m.modMat b (fun t => { t with queue := t.queue.modify i f })

/-- An entry of the queue. -/
def Mach.ent (m : Mach) (b i : Nat) : Option MEnt := (m.bank b).mat.queue[i]?

/-- The X fields of an entry. -/
def xf : Instr → XF
  | .mldw f | .mswap f | .mmul f | .mzero f | .mrd f | .mrdq f | .mmode f | .mchain f | .kbind f | .krel f | .kgen f
  | .msolve f | .mstat f | .msamp f => f
  | _ => { h := { idle := 0, pred := 0, pneg := false }, ew := 0, ep := 0, ts := 0, sq := false, ct := 0, hn := 0, fn := 0,
           ty := 0, t := false, acc := false, sat := false, chn := 0 }

/-- A row count where the entry takes A rows or plane rows (R308, R314). -/
def rowsNeeded : Instr → Nat
  | .mldw f => if f.fn = 3 then 0 else 64
  | .mmul f => xrows f
  | .mchain f => xrows f
  | _ => 0

/-- The stream register an entry pops, and the elements it needs of it (R306, R308, R318). -/
def popNeeds : Instr → Option (Nat × Nat)
  | .mldw f => if f.sq then some (f.ts.toNat, 64 * streamRowWords (xtype f)) else none
  | .mmul f => if f.sq then some (f.ts.toNat, xrows f * streamRowWords (xtype f)) else none
  | .mmode f => if f.sq then some (f.ts.toNat, 1) else none
  | _ => none

/-! ## Sources -/

/-- Row r of a tile source: bytes from the tile, a block type's headers from the odd register of the pair (R308). -/
def VecState.sourceRow (v : VecState) (t : Ty) (ts r : Nat) : ARow :=
  let rowBytes := fun (n : Nat) => (List.range 64).flatMap (fun j => leBytes 4 (cellOfTile (v.tile n) (r % 16) j))
  if isBlockTy t then
    { bytes := rowBytes (ts + 2 * (r / 16)), hdr := (rowBytes (ts + 2 * (r / 16) + 1)).take (hdrBytes t) }
  else { bytes := rowBytes (ts + r / 16), hdr := [] }

/-- An A row from its stream elements (R298, R308). -/
def rowOfWords (ws : List Word) : ARow :=
  let bs := ws.flatMap (fun w => leBytes 8 w.toNat)
  { bytes := bs.take 256, hdr := bs.drop 256 }

/-- The setting that a recorded run of rows belongs to. -/
def Bank.refGen (k : Bank) (r : RowRef) : Option TrailGen := (k.trail r.trail).gens.find? (fun g => g.uid == r.uid)

/-- Every recorded row has arrived (R306). -/
def Bank.refArrived (k : Bank) (r : RowRef) : Bool :=
  match k.refGen r with
  | some g => (List.range r.count).all (fun i => g.has (r.first + i))
  | none => false

/-- The bytes of a recorded row; bytes past its end have no value (R322, log 26). -/
def VecState.refRow (v : VecState) (r : RowRef) (i : Nat) : List Byte :=
  let o := r.desc.slotAt (r.first + i)
  v.lread o r.desc.rowlen ++ (List.range (64 - r.desc.rowlen)).map (fun x => Config.freeByte (o + r.desc.rowlen + x))

/-- An operand row of a trail: 256 bytes and its headers (R308). -/
def operandRow (t : Ty) (bs : List Byte) : ARow := { bytes := bs.take 256, hdr := (bs.drop 256).take (hdrBytes t) }

/-- The rows that an entry reads from its recorded rows (R308, R322). -/
def VecState.refRows (v : VecState) (e : MEnt) : List ARow :=
  let f := xf e.word
  let raw := e.refs.flatMap (fun r => (List.range r.count).map (v.refRow r))
  if rowsNeeded e.word = 0 then raw.map (fun bs => { bytes := bs, hdr := [] })
  else
    let rs := raw.map (operandRow (xtype f))
    if f.t then transposeRows rs else rs

/-- Reading the recorded rows once all have arrived: from here the trail may move on, and the count begins (R306). -/
def Mach.readRefs (m : Mach) (b i : Nat) : Mach :=
  let k := m.bank b
  match m.ent b i with
  | some e =>
    if !e.refs.isEmpty && e.refs.all k.refArrived then
      m.modEnt b i (fun e => { e with src := k.vec.refRows e, params := e.params ++ e.refs.map (fun r => word r.first),
                                      refs := [], startClk := k.clk, held := 0 })
    else m
  | none => m

/-- Popping up to `n` elements. -/
def popUpTo : Nat → Bank → Nat → List Word × Bank
  | 0, k, _ => ([], k)
  | n + 1, k, q =>
    match k.pop q with
    | none => ([], k)
    | some (v, k') =>
      let r := popUpTo n k' q
      (v :: r.1, r.2)

/-- Whole rows leave the popped elements. -/
def takeRows (per : Nat) : Nat → List ARow × List Word → List ARow × List Word
  | 0, s => s
  | n + 1, (rs, ws) => if ws.length < per then (rs, ws) else takeRows per n (rs ++ [rowOfWords (ws.take per)], ws.drop per)

/-- Popping what is there of what an entry still needs (R306). -/
def Mach.popEntry (m : Mach) (b i : Nat) : Mach :=
  match m.ent b i with
  | none => m
  | some e =>
    match popNeeds e.word with
    | none => m
    | some (q, n) =>
      let per := if rowsNeeded e.word = 0 then n else streamRowWords (xtype (xf e.word))
      let have_ := (if rowsNeeded e.word = 0 then 0 else e.src.length * per) + e.buf.length
      let r := popUpTo (n - have_) (m.bank b) q
      (m.setBank b r.2).modEnt b i (fun e =>
        if rowsNeeded e.word = 0 then { e with buf := e.buf ++ r.1 }
        else
          let s := takeRows per 64 (e.src, e.buf ++ r.1)
          { e with src := s.1, buf := s.2 })

/-- The gang of a bank's task. -/
def Mach.gangOfBank (m : Mach) (b : Nat) : Option Gang :=
  match (m.bank b).gang with
  | some g => tfind m.dev.gangs g
  | none => none

/-- Where the gang member of a rank is. -/
def Mach.memberAt (m : Mach) (b rank : Nat) : Option MemberAt :=
  match m.gangOfBank b with
  | some g => (tfind g.members rank).map (fun x => x.loc)
  | none => none

/-- The west member has retired (R314). -/
def Mach.westRetired (m : Mach) (b : Nat) : Bool :=
  match (m.bank b).task with
  | some t => decide (0 < t.rank) && m.memberAt b (t.rank - 1) == some .retired
  | none => false

/-- MCHAIN takes rows from the west buffer in arrival order; once the west member has retired, further rows are zero
(R314). -/
def Mach.takeWest (m : Mach) (b i : Nat) : Mach :=
  match m.ent b i with
  | some e =>
    match e.word with
    | .mchain f =>
      let need := xrows f - e.src.length
      let w := (m.bank b).mat.west
      let got := w.take need
      let zeros := if m.westRetired b then List.replicate (need - got.length) ARow.zero else []
      (m.modMat b (fun t => { t with west := w.drop got.length })).modEnt b i (fun e => { e with src := e.src ++ got ++ zeros })
    | _ => m
  | none => m

/-- The bank of the east member, where it is bound on a bank of the quad (R314). A saved member takes rows once its restore has
loaded its context (R329). -/
def Mach.eastBank (m : Mach) (b : Nat) : Option Nat :=
  match (m.bank b).task with
  | some t =>
    match m.memberAt b (t.rank + 1) with
    | some (.bound r) => if quadOf r = quadOf b && (m.bank r).savePa.isNone then some r else none
    | _ => none
  | none => none

/-- Sending rows east while the receiver's buffer of 16 has room (R314). -/
def Mach.sendEast (m : Mach) (b i : Nat) : Mach :=
  match m.ent b i with
  | none => m
  | some e =>
    if (xf e.word).chn != 1 || rowsNeeded e.word == 0 then m
    else
      match m.eastBank b with
      | none => m
      | some r =>
        let n := Nat.min (16 - (m.bank r).mat.west.length) (e.src.length - e.rowsDone)
        if n = 0 then m
        else (m.modMat r (fun t => { t with west := t.west ++ (e.src.drop e.rowsDone).take n, chained := true })).modEnt b i
          (fun e => { e with rowsDone := e.rowsDone + n })

/-- Pushing what a stream-register destination has room for (R306, R317). -/
def Mach.pushEntry (m : Mach) (b i : Nat) : Mach :=
  match m.ent b i with
  | none => m
  | some e =>
    match e.word with
    | .mrdq f =>
      let k := m.bank b
      let n := Nat.min (k.room f.ts.toNat) e.out.length
      (m.setBank b (k.pushAll f.ts.toNat k.clk (e.out.take n))).modEnt b i (fun e => { e with out := e.out.drop n })
    | _ => m

/-- The matrix engine acts on a running bank after the sequencers and before the other engines (R103, R305). -/
def Bank.matrixTurn (k : Bank) : Bool := k.status != .running || k.phase == .close

/-- A running entry goes on as far as it can. -/
def Mach.entryProgress (m : Mach) (b i : Nat) : Mach :=
  match m.ent b i with
  | some e =>
    if e.started && (m.bank b).matrixTurn then ((((m.readRefs b i).popEntry b i).takeWest b i).sendEast b i).pushEntry b i else m
  | none => m

/-! ## Start -/

/-- Entries that may start beside a running MLDW (R305). -/
def besideLoad : Instr → Bool
  | .mmul _ | .mchain _ | .mrd _ | .mrdq _ | .mzero _ | .mmode _ | .msamp _ => true
  | _ => false

/-- An MLDW. -/
def isLoad : Instr → Bool
  | .mldw _ => true
  | _ => false

/-- The next entry that may start, by position (R305): the head, or the one behind a running MLDW. -/
def MatState.nextStart (t : MatState) : Option Nat :=
  match t.queue with
  | [] => none
  | e :: es =>
    if !e.started then some 0
    else
      match es with
      | [] => none
      | e' :: _ => if isLoad e.word && !e'.started && besideLoad e'.word then some 1 else none

/-- MSTAT's row as it stands (R320). -/
def MatState.statRow (t : MatState) : List Word :=
  [word t.stat.knf, word t.stat.knft, word t.stat.sstat, word t.stat.ssig, word t.mseq, word t.stat.rstall, word t.period,
   word t.mode.code]

/-- The read-out of a queued MRD or MRDQ (R316). -/
def MatState.readOut (t : MatState) (e : MEnt) : List RowOut :=
  let f := xf e.word
  let hi := match e.word with
    | .mrd _ => if xtype f = .f64 then some (b2n (bitOf f.hn.toNat 2)) else none
    | _ => none
  (tget .start t.coll f.ct.toNat).readOut (xtype f) e.mode f.sat e.seed e.tseq (xgroup f) (xscale f) (readCols hi)

/-- What an entry takes at its start: its tile sources, the seed, the period and the sequence number (R306, R316, R318,
R320). -/
def MEnt.begin (e : MEnt) (k : Bank) : MEnt :=
  let f := xf e.word
  let e1 := { e with started := true, startClk := k.clk, seed := k.mat.seed, period := k.mat.period, tseq := k.mat.mseq }
  match e.word with
  | .mldw _ =>
    if f.fn = 0 then { e1 with src := (List.range 64).map (k.vec.sourceRow (xtype f) f.ts.toNat) } else e1
  | .mmul _ =>
    if f.sq || bitOf f.hn.toNat 3 then e1
    else { e1 with src := (List.range (xrows f)).map (k.vec.sourceRow (xtype f) f.ts.toNat) }
  | .mmode _ => if !f.sq && bitOf f.fn.toNat 3 then { e1 with buf := [Sys2Proof.word (elemAt .n32 (k.vec.tile f.ts.toNat) 0 0)] } else e1
  | .mrdq _ => { e1 with out := outWords (xtype f) (k.mat.readOut e1) }
  | .mstat _ => { e1 with buf := k.mat.statRow }
  | _ => e1

/-- What a start changes in the matrix state: a read-out takes its number, a binding or a release takes effect, MSTAT
clears KNFT (R316, R320, R321). -/
def MatState.startEffect (t : MatState) (e : MEnt) : MatState :=
  match e.word with
  | .mrd _ => { t with mseq := (t.mseq + 1) % 2 ^ 32 }
  | .mrdq _ => { t with mseq := (t.mseq + 1) % 2 ^ 32 }
  | .kbind f => match e.binding with
    | some b => { t with handles := tput t.handles f.hn.toNat b }
    | none => t
  | .krel f => { t with handles := tdel t.handles f.hn.toNat }
  | .mstat f => if f.acc then { t with stat := { t.stat with knft := 0 } } else t
  | _ => t

/-- The next entry starts where EW lets it; the queue is served after the sequencers' AWAITs of the clock (R305). -/
def Mach.startEntry (m : Mach) (b : Nat) : Mach :=
  let k := m.bank b
  match k.mat.nextStart with
  | none => m
  | some i =>
    match m.ent b i with
    | none => m
    | some e =>
      let ew := (xf e.word).ew.toNat
      if k.status != .running || k.phase != .close || (ew != 0 && k.event ew == 0) then m
      else
        (m.modBank b (fun k =>
          { k with events := if ew = 0 then k.events else tput k.events ew (k.event ew - 1),
                   mat := { k.mat.startEffect e with queue := k.mat.queue.set i (e.begin k) } })).entryProgress b i

/-- MATRIX_ENTRY_START (R305, R306): running entries go on, and the next one starts where it may. -/
def execMatrixEntryStart (bank : Nat) (s : State) : Host.Outcome State Fault Refusal :=
  commit s ((((Mach.of s).entryProgress bank 0).entryProgress bank 1).startEntry bank)

/-! ## Completion -/

/-- An entry has all that it reads, and has sent and pushed all that it must. -/
def MEnt.ready (e : MEnt) : Bool :=
  let f := xf e.word
  e.started && e.refs.isEmpty && e.out.isEmpty &&
    decide (rowsNeeded e.word ≤ e.src.length) &&
    (f.chn != 1 || decide (rowsNeeded e.word ≤ e.rowsDone)) &&
    (match e.word with
     | .mmode g => !g.sq || !e.buf.isEmpty
     | _ => true)

/-- A started entry has all its rows and still waits for a stream register or a chain buffer (R306, R307). -/
def MEnt.isHeld (e : MEnt) : Bool := e.started && e.refs.isEmpty && !e.ready

/-- A clock that holds an entry up adds one to its count (R307). -/
def MatState.tick (t : MatState) : MatState :=
  { t with queue := t.queue.map (fun e => if e.isHeld then { e with held := e.held + 1 } else e) }

/-- A started entry can go on: its rows have arrived, or there is an element to pop, a row to take or send, or room to push
(R306, R314). -/
def Mach.canMove (m : Mach) (b i : Nat) : Bool :=
  let k := m.bank b
  match m.ent b i with
  | none => false
  | some e =>
    e.started && ((!e.refs.isEmpty && e.refs.all k.refArrived) ||
      (e.refs.isEmpty && ((match popNeeds e.word with
        | some (q, n) =>
          let per := if rowsNeeded e.word = 0 then n else streamRowWords (xtype (xf e.word))
          decide ((if rowsNeeded e.word = 0 then 0 else e.src.length * per) + e.buf.length < n) && (k.pop q).isSome
        | none => false) ||
      (match e.word with
        | .mchain f => decide (e.src.length < xrows f) && (!k.mat.west.isEmpty || m.westRetired b)
        | .mrdq f => !e.out.isEmpty && decide (1 ≤ k.room f.ts.toNat)
        | _ => false) ||
      ((xf e.word).chn == 1 && rowsNeeded e.word != 0 && decide (e.rowsDone < e.src.length) &&
        (match m.eastBank b with
         | some r => decide ((m.bank r).mat.west.length < 16)
         | none => false)))))

/-- The next entry is due to start: both conditions of R305 hold on this clock. -/
def Bank.startDue (k : Bank) : Bool :=
  match k.mat.nextStart with
  | none => false
  | some i =>
    match k.mat.queue[i]? with
    | none => false
    | some e => (xf e.word).ew == 0 || k.event (xf e.word).ew.toNat != 0

/-- What the matrix engine still has to do on the clock (R305, R306). -/
def Mach.matrixDue (m : Mach) (b : Nat) : Bool := m.canMove b 0 || m.canMove b 1 || (m.bank b).startDue

/-- The rows of an entry's recorded runs, in order: `n` rows after `skip`. -/
def MEnt.rowRun (e : MEnt) (skip n : Nat) : List ARow := (e.src.drop skip).take n

/-- A recorded first row: parameter i. -/
def MEnt.param (e : MEnt) (i : Nat) : Nat := (e.params.getD i 0).toNat

/-- The contributions of an MMUL or MCHAIN. -/
def MatState.products (t : MatState) (e : MEnt) : List (List (List Val)) :=
  allContributions (xtype (xf e.word)) t.stationary (e.src.take (rowsNeeded e.word))

/-- The clocks of an entry (R307, R328). -/
def MatState.clocks (t : MatState) (e : MEnt) : Nat :=
  let f := xf e.word
  let ty := xtype f
  let up := fun (a b : Nat) => (a + b - 1) / b
  match e.word, e.binding with
  | .mzero _, _ => 16
  | .kbind _, _ => 4
  | .mstat _, _ => 4
  | .mldw _, some b => up (64 * tyElems ty * b.len * b.w) 256 + 16
  | .mldw _, none => if isBlockTy ty then 72 else 64
  | .mmul _, _ => mmulTime ty (t.products e)
  | .mchain _, _ => mmulTime ty (t.products e)
  | .mrd _, _ => if isBlockTy ty then 28 else if ty = .f64 then 36 else 20
  | .mrdq _, _ => if isBlockTy ty then 28 else if ty = .f64 then 36 else 20
  | .kgen _, some b => (if b.ty = .f64 then up (512 * b.len * 4) 256 else up (1024 * b.len) 256) + 8
  | .msolve _, some b => solveClocks b ty b.nr (e.param 1) (e.param 0)
  | _, _ => 1

/-- MMUL and MCHAIN take effect (R313, R320). -/
def MatState.mmulEffect (t : MatState) (e : MEnt) : MatState :=
  let f := xf e.word
  let ty := xtype f
  let all := t.products e
  let c := (tget .start t.coll f.ct.toNat).mmul ty (xgroup f) all
  { t with coll := tput t.coll f.ct.toNat c,
           stat := { t.stat with rstall := Nat.min (mmulTime ty all - xrows f * rowTime ty) (2 ^ 32 - 1) } }

/-- MLDW takes effect (R311). -/
def MatState.loadEffect (t : MatState) (e : MEnt) : MatState :=
  let f := xf e.word
  let ty := xtype f
  match e.binding with
  | none => { t with shadow := Plane.ofRows ty e.src }
  | some b =>
    let m := if e.mode = .rdh then .rne else e.mode
    let rows := e.rowRun 0 (tyElems ty)
    let cols := e.rowRun (tyElems ty) 64
    let codes := (List.range 64).map (b.planeRow ty m f.sat (e.param 0) (e.param 1) rows cols)
    { t with shadow := Plane.ofRows ty (codes.map (fun cs => { bytes := codeBytes ty cs, hdr := [] })),
             stat := t.stat.kernels (countNonFinite ty codes.flatten) }

/-- The codes that KGEN writes, row by row (R323). -/
def MEnt.generated (e : MEnt) (b : Binding) : List (List Nat) :=
  let n := if b.ty = .f64 then 32 else 64
  let rows := e.rowRun 0 16
  let cols := e.rowRun 16 n
  (List.range 16).map (fun i => (List.range n).map (fun j =>
    b.entry (e.param 0 + i) (e.param 1 + j) (rows.getD i .zero).bytes (cols.getD j .zero).bytes))

/-- KGEN takes effect (R323). -/
def Bank.kgenEffect (k : Bank) (e : MEnt) : Bank :=
  match e.binding with
  | none => k
  | some b =>
    let g := e.generated b
    { k with vec := k.vec.setTile (xf e.word).ts.toNat (tileFrom b.ty (fun i j => (g.getD i []).getD j 0)),
             mat := { k.mat with stat := k.mat.stat.kernels (countNonFinite b.ty g.flatten) } }

/-- The tag an MSOLVE forms (R326). -/
def MEnt.tag (e : MEnt) (b : Binding) : STag :=
  { ty := xtype (xf e.word), n := b.nr, m := e.param 1, lam := b.lam,
    sig := solveSig b b.nr (e.rowRun 0 b.nr) (e.rowRun b.nr b.nr) }

/-- Every collector of the solution holds the tag (R326). -/
def MatState.warm (t : MatState) (ct nb : Nat) (tag : STag) : Bool :=
  (List.range nb).all (fun i => (tget .start t.coll (ct + i)).tag == some tag)

/-- The starting x of a right-hand side (R326). -/
def MatState.startX (t : MatState) (warm : Bool) (ty : Ty) (ct n c : Nat) : List Nat :=
  (List.range n).map (fun i =>
    if warm then rne ty (readEntry (((tget Collector.start t.coll (ct + i / 64)).row (i % 64)).getD c .zero)) else 0)

/-- MSOLVE takes effect (R325 to R327). -/
def MatState.solveEffect (t : MatState) (e : MEnt) : MatState :=
  match e.binding with
  | none => t
  | some b =>
    let f := xf e.word
    let ty := xtype f
    let n := b.nr
    let mr := e.param 1
    let nb := (n + 63) / 64
    let tag := e.tag b
    let warm := f.acc && t.warm f.ct.toNat nb tag
    let a := solveMatrix ty b (e.param 2) (e.param 3) n (e.rowRun 0 n) (e.rowRun n n)
    let d := solveDiag a
    let brows := e.rowRun (2 * n) n
    let xs := (List.range mr).map (fun c =>
      let bv := (List.range n).map (fun i => tyValue ty (coordAt ty (brows.getD i .zero).bytes c))
      (cgRun ty a d.1 (e.param 0) (cgStart ty a d.1 bv (t.startX warm ty f.ct.toNat n c))).x)
    { t with
      coll := (List.range nb).foldl (fun cs i => tput cs (f.ct.toNat + i) (solutionColl ty xs i tag)) t.coll,
      stat := { t.stat with sstat := b2n d.2 + 2 * b2n (f.acc && !warm), ssig := tag.sig } }

/-- An entry's exact values after the scale step, row by row (R87). -/
def MatState.scaled (t : MatState) (e : MEnt) (cols : List Nat) : List (List Val) :=
  let f := xf e.word
  (List.range 16).map (fun i =>
    ((tget Collector.start t.coll f.ct.toNat).values (16 * xgroup f + i) cols).map (fun v => v.scale (xscale f)))

/-- The logbook record of a sampled read-out (R87, R88, R316). -/
def Mach.sampleOut (m : Mach) (b : Nat) (e : MEnt) : Mach :=
  let k := m.bank b
  let f := xf e.word
  if isSampled e.period e.tseq then
    let cols := match e.word with
      | .mrd _ => if xtype f = .f64 then readCols (some (b2n (bitOf f.hn.toNat 2))) else readCols none
      | _ => readCols none
    m.logWrite k.part false (sampleRecord (xtype f) e.mode f.sat e.tseq e.pos
      (fld k.mbox.toNat 96 32) (coreId b) (k.mat.scaled e cols) (k.mat.readOut e))
  else m

/-- What an entry does on completion. -/
def Mach.entryEffect (m : Mach) (b : Nat) (e : MEnt) : Mach :=
  let f := xf e.word
  match e.word with
  | .mldw _ => m.modMat b (fun t => t.loadEffect e)
  | .mswap _ => m.modMat b (fun t => { t with stationary := t.shadow, shadow := t.stationary })
  | .mmul _ => m.modMat b (fun t => t.mmulEffect e)
  | .mchain _ => m.modMat b (fun t => t.mmulEffect e)
  | .mzero _ => m.modMat b (fun t => { t with coll := tdel t.coll f.ct.toNat })
  | .mrd _ =>
    let m1 := m.sampleOut b e
    m1.modBank b (fun k =>
      let ts := outTiles (xtype f) (k.mat.readOut e)
      { k with vec := (List.range ts.length).foldl (fun v i => v.setTile (f.ts.toNat + i) (ts.getD i [])) k.vec })
  | .mrdq _ => m.sampleOut b e
  | .mmode _ => m.modMat b (fun t =>
      { t with mode := Rnd.ofCode (fld f.fn.toNat 0 3),
               seed := match e.buf with | [] => t.seed | v :: _ => v.toNat % 2 ^ 32 })
  | .msamp _ => m.modMat b (fun t => { t with period := if f.fn.toNat = 32 then 0 else 2 ^ f.fn.toNat })
  | .mstat _ => m.modBank b (fun k =>
      { k with vec := k.vec.setTile f.ts.toNat (tileFrom .n32 (fun i j => if i = 0 then (e.buf.getD j 0).toNat else 0)) })
  | .kgen _ => m.modBank b (fun k => k.kgenEffect e)
  | .msolve _ => m.modMat b (fun t => t.solveEffect e)
  | _ => m

/-- EP fits: the count with the POSTs in flight stays at 65,535 at most (R226). -/
def Bank.epFits (k : Bank) (ep : Nat) : Bool := ep == 0 || decide (k.event ep + k.postsTo ep + 1 ≤ 65535)

/-- The count of an entry has passed (R307): on a running bank the clocks of the entry and those that held it up have passed
since the count began; a bank at rest lets it complete in the engine's own time (R46). -/
def Bank.countPassed (k : Bank) (e : MEnt) : Bool :=
  k.status != .running || decide (e.startClk + k.mat.clocks e + e.held ≤ k.clk)

/-- An entry completes on this clock (R226, R307). -/
def Bank.completes (k : Bank) (e : MEnt) : Bool := e.ready && k.epFits (xf e.word).ep.toNat && k.countPassed e

/-- The entry's effects are made, EP is posted, and it leaves the queue (R305 to R307): with the clock's beginning, so that
its posting is counted before the AWAITs of the clock (R226), or on a bank at rest. -/
def Mach.completeEntry (m0 : Mach) (b i : Nat) : Mach :=
  let m := m0.entryProgress b i
  let k := m.bank b
  match m.ent b i with
  | none => m
  | some e =>
    let ep := (xf e.word).ep.toNat
    if !(k.completes e) || (k.status == .running && !k.between) then m
    else
      (m.entryEffect b e).modBank b (fun k =>
        { k with events := if ep = 0 then k.events else tput k.events ep (k.event ep + 1),
                 mat := { k.mat with queue := k.mat.queue.eraseIdx i } })

/-- MATRIX_ENTRY_COMPLETE (R305). -/
def execMatrixEntryComplete (bank entry : Nat) (s : State) : Host.Outcome State Fault Refusal :=
  commit s ((Mach.of s).completeEntry bank entry)

end Sys2Proof.Machine
end

