-- ==== Sys2Proof/Machine/Words.lean ====
section
/-! DEFINITION. Words: the control words (R333 to R338): reading one, and writing one (R331). -/

namespace Sys2Proof.Machine

/-! ## Values -/

/-- CNT (R334). -/
def Bank.cnt (k : Bank) : Word := word (k.ldc % 2 ^ 16 + k.stc % 2 ^ 16 * 2 ^ 16 + k.cpc % 2 ^ 16 * 2 ^ 32 + k.toc % 2 ^ 16 * 2 ^ 48)

/-- QSTATk (R257). -/
def Bank.qstat (k : Bank) (n : Nat) : Word :=
  let q := k.copy n
  word (q.crc.toNat + b2n q.cmpf * 2 ^ 32 + q.ncmp % 256 * 2 ^ 40 + q.cmds.length % 32 * 2 ^ 48)

/-- SCHED (R149). -/
def Mach.sched (m : Mach) (part : Nat) : Word :=
  let p := m.dev.part part
  word (b2n p.lend + b2n p.borrow * 2 + p.quant % 2 ^ 16 * 2 ^ 16 + m.pool part % 2 ^ 16 * 2 ^ 32 + p.preempts % 2 ^ 16 * 2 ^ 48)

/-- A ring's control word: enable, size, HEAD (R337, R349). -/
def Ring.ctl (r : Ring) : Word := word (b2n r.en + r.lsize % 32 * 2 + r.head.toNat % 2 ^ 32 * 2 ^ 32)

/-- The words that the device updates, as they stand (R332). -/
def Bank.snapshot (k : Bank) (log : Ring) : Before :=
  { vseq := k.vec.vseq.setWidth 64, mseq := word (k.mat.mseq % 2 ^ 32), cnt := k.cnt,
    qstat := (List.range 4).map k.qstat, logctl := log.ctl, logstat := word log.ovf }

/-- A partition word (R333). -/
def Mach.partWord (m : Mach) (part cw : Nat) : Word :=
  let p := m.dev.part part
  match cw with
  | 0x100 => word p.troot
  | 0x101 => m.sched part
  | 0x102 => word (p.aseq.toNat + p.acode.toNat * 2 ^ 32 + b2n p.aerr * 2 ^ 34)
  | 0x103 => word p.log.base
  | 0x104 => p.log.ctl
  | 0x105 => p.log.tail.setWidth 64
  | 0x106 => word p.log.ovf
  | 0x110 => word p.fmapb
  | 0x111 => word p.vmapb
  | 0x112 => p.freq
  | 0x113 => word (b2n p.fbusy + p.fres % 4 * 2 + b2n p.ferr * 8)
  | _ => 0

/-- A watch entry's 384 bits (R153). A non-lead entry holds VAL, ARM, SIZE, PBASE and LEADH alone. -/
def Watch.bits (w : Watch) : Nat :=
  1 + b2n w.arm * 2 + w.size % 16 * 2 ^ 60 + w.pbase % 2 ^ 47 * 2 ^ 64 + w.leadh % 2 ^ 16 * 2 ^ 112 +
  (if w.lead then
    b2n w.queued * 4 + b2n w.pend * 8 + 16 + b2n w.repro * 32 + w.dlim % 16 * 2 ^ 8 + w.pdepth % 16 * 2 ^ 12 +
      w.rwin % 32 * 2 ^ 16 + w.rbud % 256 * 2 ^ 24 + w.prio % 256 * 2 ^ 32 + w.qmask % 2 ^ 16 * 2 ^ 40 +
      w.part % 16 * 2 ^ 56 + w.vbase % 2 ^ 56 * 2 ^ 128 + w.image % 2 ^ 32 * 2 ^ 192 + w.uword.toNat * 2 ^ 224 +
      w.count % 2 ^ 16 * 2 ^ 288 + w.first % 2 ^ 16 * 2 ^ 304 + w.last % 2 ^ 16 * 2 ^ 320 + w.rused % 2 ^ 16 * 2 ^ 336
  else 0)

/-- The entry that WSEL selects, as six words; a SLICE above 79 and an entry not in use read as zeros (R153, R338). -/
def Mach.selectedWatch (m : Mach) (die : Nat) : List Word :=
  let v := (m.dev.die die).wsel.toNat
  let n := if 80 ≤ fld v 5 7 then 0
    else match tfind (m.slice (80 * die + fld v 5 7)).watches (fld v 0 5) with
      | some w => w.bits
      | none => 0
  (List.range 6).map (fun i => word (n / 2 ^ (64 * i)))

/-- HPT0 and HPT1 (R112). -/
def Die.hpt (d : Die) (hi : Bool) : Word :=
  if hi then word (d.verhot % 2 ^ 16 + d.nofrm % 2 ^ 16 * 2 ^ 16 + d.migs % 2 ^ 32 * 2 ^ 32)
  else word (b2n d.hen + d.hepoch % 256 * 2 ^ 8 + d.hthresh % 2 ^ 16 * 2 ^ 16 + d.pinhot % 2 ^ 16 * 2 ^ 32 + d.nmhot % 2 ^ 16 * 2 ^ 48)

/-- A die word (R333). WDAT1 to WDAT5 show the moment of the last read of WDAT0, else the present one (R338). -/
def Mach.dieWord (m : Mach) (die cw : Nat) : Word :=
  let d := m.dev.die die
  match cw with
  | 0x180 => d.hpt false
  | 0x181 => d.hpt true
  | 0x182 => d.wsel
  | 0x188 => (m.selectedWatch die).getD 0 0
  | _ =>
    if 0x189 ≤ cw ∧ cw ≤ 0x18D then (d.wdat.getD (m.selectedWatch die)).getD (cw - 0x188) 0 else 0

/-- A read of WDAT0 fixes the moment that the others show (R338). -/
def Mach.readDie (m : Mach) (die cw : Nat) : Mach :=
  if cw = 0x188 then m.modDie die (fun d => { d with wdat := some (m.selectedWatch die) }) else m

/-- A word of the sequencer or bank as it stood before the clock (R332, R334). X reads NF as its older VCHKs leave it
(R300). -/
def bankWord (b : Nat) (k : Bank) (q : Seq) (cw : Nat) : Word :=
  match cw with
  | 0x000 => (k.seq q).cyc
  | 0x001 => (k.seq q).wout.setWidth 64
  | 0x008 => k.vec.rmode.setWidth 64
  | 0x009 => word (b2n (k.vec.nf || (q == .X && !k.vec.nfAt.isEmpty)))
  | 0x00A => k.vec.dseed.setWidth 64
  | 0x00B => k.before.vseq
  | 0x00C => k.before.mseq
  | 0x00D => k.before.cnt
  | 0x00E => k.trec0
  | 0x00F => k.trec1
  | 0x010 => k.mbox.extractLsb' 0 64
  | 0x011 => k.mbox.extractLsb' 64 64
  | 0x012 => k.mbox.extractLsb' 128 64
  | 0x013 => k.mbox.extractLsb' 192 64
  | 0x014 => (k.mbox.extractLsb' 136 6).setWidth 64
  | 0x015 => word (coreId b)
  | _ => if 0x020 ≤ cw ∧ cw ≤ 0x023 then k.before.qstat.getD (cw - 0x020) 0 else 0

/-- The value of a control word in the view of a sequencer of a bank (R331). -/
def Mach.csrValue (m : Mach) (c : Ctx) (cw : Nat) : Word :=
  if cw < 0x100 then bankWord c.b c.k c.q cw
  else if cw = 0x104 then c.k.before.logctl
  else if cw = 0x106 then c.k.before.logstat
  else if cw < 0x180 then m.partWord c.k.part cw
  else m.dieWord (dieOf c.b) cw

/-! ## Writes -/

/-- Keeping the bits of a field: `n` bits from bit `lo`. -/
def keep (v : Word) (lo n : Nat) : Nat := fld v.toNat lo n * 2 ^ lo

/-- A counter under W1C: bit := bit AND NOT v (R331). -/
def w1c (old v : Nat) (n : Nat) : Nat := (BitVec.ofNat n old &&& ~~~(BitVec.ofNat n v)).toNat

/-- Writing a ring's base: ignored while the ring is enabled (R337, R349). -/
def Ring.writeBase (r : Ring) (v : Nat) : Ring := if r.en then r else { r with base := v }

/-- Writing a ring's control word: the size is ignored while the ring is enabled (R337, R349). -/
def Ring.writeCtl (r : Ring) (v : Nat) : Ring := { r with en := bitOf v 0, lsize := if r.en then r.lsize else fld v 1 5 }

/-- A write of a partition word: `how` is 1 for CSRW and for a write through the provider control space (R331, R346). -/
def Mach.partWrite (m : Mach) (part cw how : Nat) (v : Word) : Mach :=
  let new := csrNew how (m.partWord part cw) v
  let n := new.toNat
  match cw with
  | 0x100 => m.modPart part (fun p => { p with troot := keep new 14 38 })
  | 0x101 => m.modPart part (fun p =>
      { p with lend := bitOf n 0, borrow := bitOf n 1, quant := fld n 16 16, preempts := w1c p.preempts (fld v.toNat 48 16) 16 })
  | 0x102 => m.fans part (word (n % 2 ^ 34 + b2n (bitOf v.toNat 34) * 2 ^ 34))
  | 0x103 => m.modPart part (fun p => { p with log := p.log.writeBase (keep new 12 40) })
  | 0x104 => m.modPart part (fun p => { p with log := p.log.writeCtl n })
  | 0x105 => m.modPart part (fun p => { p with log := { p.log with tail := new.setWidth 32 } })
  | 0x106 => m.modPart part (fun p => { p with log := { p.log with ovf := w1c p.log.ovf (fld v.toNat 0 32) 32 } })
  | 0x110 => m.modPart part (fun p => { p with fmapb := keep new 25 27 })
  | 0x111 => m.modPart part (fun p => { p with vmapb := keep new 25 27 })
  | 0x112 => m.freqWrite part new
  | 0x113 => m.modPart part (fun p => { p with ferr := p.ferr && !bitOf v.toNat 3 })
  | _ => m

/-- A write of a die word (R112, R338). -/
def Mach.dieWrite (m : Mach) (die cw how : Nat) (v : Word) : Mach :=
  let new := csrNew how (m.dieWord die cw) v
  let n := new.toNat
  match cw with
  | 0x180 => m.modDie die (fun d =>
      { d with hen := bitOf n 0, hepoch := fld n 8 8, hthresh := fld n 16 16, pinhot := w1c d.pinhot (fld v.toNat 32 16) 16,
               nmhot := w1c d.nmhot (fld v.toNat 48 16) 16 })
  | 0x181 => m.modDie die (fun d =>
      { d with verhot := w1c d.verhot (fld v.toNat 0 16) 16, nofrm := w1c d.nofrm (fld v.toNat 16 16) 16,
               migs := w1c d.migs (fld v.toNat 32 32) 32 })
  | 0x182 => m.modDie die (fun d => { d with wsel := word (n % 2 ^ 12), wdat := none })
  | _ => m

/-- A write of CYC by K (R47, R334). -/
def Bank.writeCyc (k : Bank) (v : Word) : Bank :=
  if k.goDone then k.mapSeqs (fun _ s => { s with cyc := v }) else { k with k := { k.k with cyc := v } }

/-- A write of 64 bits of the boot mailbox (R333, R334). -/
def mboxWrite (mb : BitVec 256) (i : Nat) (v : Word) : BitVec 256 :=
  (mb &&& ~~~((0xFFFFFFFFFFFFFFFF : BitVec 256) <<< (64 * i))) ||| (v.setWidth 256 <<< (64 * i))

/-- The reserved bits of a boot word stay 0 (R8, R39). -/
def mboxMask (i : Nat) : Word :=
  if i = 2 then 0xFFFFFFFF1FFFFFFF else if i = 3 then 0x00FFFFFFFFFFFFFF else 0xFFFFFFFFFFFFFFFF

/-- A write of a sequencer's or bank's word, applied at the clock's end (R331, R334). -/
def Bank.csrWrite (prov : Bool) (k : Bank) (w : CsrWrite) : Bank :=
  let vis : Word → Word := fun old => csrNew w.how old w.v
  match w.cw with
  | 0x000 => if w.seq == .K then k.writeCyc (vis k.k.cyc) else k
  | 0x001 =>
    if prov then k.setSeq w.seq { k.seq w.seq with wout := (vis ((k.seq w.seq).wout.setWidth 64)).setWidth 2 } else k
  | 0x008 => { k with vec := { k.vec with rmode := rmodeWrite k.vec.rmode ((vis (k.vec.rmode.setWidth 64)).setWidth 3) } }
  | 0x009 => { k with vec := { k.vec with nf := nfWrite k.vec.nf (bitOf w.v.toNat 0) false } }
  | 0x00A => { k with vec := { k.vec with dseed := (vis (k.vec.dseed.setWidth 64)).setWidth 32 } }
  | 0x00B => { k with vec := { k.vec with vseq := (vis (k.vec.vseq.setWidth 64)).setWidth 32 } }
  | 0x00E => if prov then { k with trec0 := vis k.trec0 &&& 0x0000FFFFFFFFFFFF } else k
  | 0x00F => if prov then { k with trec1 := vis k.trec1 } else k
  | cw =>
    if prov && decide (0x010 ≤ cw) && decide (cw ≤ 0x013) then
      let i := cw - 0x010
      { k with mbox := mboxWrite k.mbox i (vis (k.mbox.extractLsb' (64 * i) 64) &&& mboxMask i) }
    else if 0x020 ≤ cw ∧ cw ≤ 0x023 then
      let q := k.copy (cw - 0x020)
      { k with copyq := tput k.copyq (cw - 0x020) { q with cmpf := q.cmpf && !bitOf w.v.toNat 32 } }
    else k

/-- One write of a control word. -/
def Mach.csrApply (m : Mach) (b : Nat) (w : CsrWrite) : Mach :=
  if w.cw < 0x100 then m.modBank b (fun k => k.csrWrite k.prov w)
  else if w.cw < 0x180 then m.partWrite (m.bank b).part w.cw w.how w.v
  else m.dieWrite (dieOf b) w.cw w.how w.v

/-- The writes of a clock, in the order K, L, X, D (R332). -/
def Mach.csrApplyAll (m : Mach) (b : Nat) : Mach :=
  (m.bank b).csrs.foldl (fun m w => m.csrApply b w) (m.modBank b (fun k => { k with csrs := [] }))

end Sys2Proof.Machine
end

