-- ==== Sys2Proof/Machine/System.lean ====
section
/-! DEFINITION. System: the system words (R330 to R332, R339 to R341) and the answer of an ECALL. -/

namespace Sys2Proof.Machine

/-! ## Control words -/

/-- The control word number of a CSR word (R330). -/
def SF.cw (f : SF) : Nat := f.imm.toNat % 2 ^ 12

/-- CSRR, CSRW, CSRS, CSRC (R331): the old value goes to the destination with latency 1; the write is applied when the
clock ends (R332). `how` is 0 for CSRR. -/
def csrWord (i : Instr) (how : Nat) (f : SF) (s : State) : Host.Outcome State Fault Refusal :=
  issueWord i s (fun c m => operands c m (if how = 0 then [] else [f.sa]) f.dst 1 (fun m vs =>
    let old := m.csrValue c (SF.cw f)
    let m1 := (m.readDie (dieOf c.b) (SF.cw f)).putReg c f.dst 1 old
    .done (if how = 0 then m1
      else m1.modBank c.b (fun k =>
        { k with csrs := k.csrs ++ [{ seq := c.q, cw := SF.cw f, how := how, v := opnd vs 0 }] })) 1 none))

/-- CSRR: reading a control word (R331). -/
def execCsrr (f : SF) (s : State) : Host.Outcome State Fault Refusal := csrWord (.csrr f) 0 f s

/-- CSRW: writing one (R331). -/
def execCsrw (f : SF) (s : State) : Host.Outcome State Fault Refusal := csrWord (.csrw f) 1 f s

/-- CSRS: setting bits (R331). -/
def execCsrs (f : SF) (s : State) : Host.Outcome State Fault Refusal := csrWord (.csrs f) 2 f s

/-- CSRC: clearing bits (R331). -/
def execCsrc (f : SF) (s : State) : Host.Outcome State Fault Refusal := csrWord (.csrc f) 3 f s

/-! ## Traps -/

/-- TRAP raises cause TRAP (R339). -/
def execTrap (f : SF) (s : State) : Host.Outcome State Fault Refusal :=
  issueWord (.trap f) s (fun c _ => .trap (c.trap .trap))

/-- BKPT raises cause BKPT (R339). -/
def execBkpt (f : SF) (s : State) : Host.Outcome State Fault Refusal :=
  issueWord (.bkpt f) s (fun c _ => .trap (c.trap .bkpt))

/-! ## RMARK -/

/-- RMARK (R340): an entry in K's queue; its record is formed once every older access of K has been performed, at the end of
the clock where there is none (R332). -/
def execRmark (f : SF) (s : State) : Host.Outcome State Fault Refusal :=
  issueWord (.rmark f) s (fun c m => operands c m [f.sa] 0 0 (fun m vs =>
    let a : Acc :=
      { id := (m.bank c.b).nextId, kind := .rmark, va := 0, pa := 0, n := 0, sc := 0, ca := 0, hint := 0, dst := 0,
        fn := f.imm.toNat, signed := false, data := [], x := opnd vs 0, w := 0, pos := c.s.pos, sent := false, half := false,
        armed := false, lines := [], tags := [] }
    .done (m.enqueue c a 0 0) 1 none))

/-! ## ECALL -/

/-- Every access of K before the word has been performed at `.pkg` (R341). -/
def SeqState.performedAll (s : SeqState) : Bool := s.accs.all (fun a => a.kind.isMark || a.sent)

/-- The request goes to Ranger: its destination awaits the answer. -/
def Mach.callRanger (m : Mach) (c : Ctx) (svc : Nat) (dst : RegF) (arg : Word) : Act :=
  let id := (m.bank c.b).nextId
  let e : Ecall := { svc := svc % 256, arg := arg, dst := dst.toNat, slot := id, answer := none }
  .done (((m.putAwait c dst 1 id).modBank c.b (fun k => { k with nextId := k.nextId + 1 })).modSeq c.b c.q (fun t =>
    { t with ecalls := t.ecalls ++ [e] })) 1 none

/-- ECALL (R341): it waits for K's accesses, and its destination awaits the answer. It never traps here: where a stream
register's binding refuses the pop of SA the argument is a free value, and where it refuses the push the answer is written
nowhere (DESIGN CHOICE, log 106). -/
def execEcall (f : SF) (s : State) : Host.Outcome State Fault Refusal :=
  issueWord (.ecall f) s (fun c m =>
    let dst := if c.k.dstRefused f.dst then 0 else f.dst
    if !c.s.performedAll then .stall
    else if c.k.srcRefused f.sa then
      operands c m [] dst 1 (fun m _ => m.callRanger c f.imm.toNat dst (word (Config.freeNat m.dev.ticks)))
    else operands c m [f.sa] dst 1 (fun m vs => m.callRanger c f.imm.toNat dst (opnd vs 0)))

/-- The die whose stacks hold the frame of an address, 0xFF where there is none (R341, HOME). -/
def Mach.homeDie (m : Mach) (part : Nat) (va : Word) : Word :=
  match m.translateLeaf part va.toNat .read with
  | .ok x => if isHbm x.pa then word (hbmDie x.pa) else 0xFF
  | .error _ => 0xFF

/-- Ranger's answer (R341). Which of the services from 4 on are registered, and what they answer, is the firmware's (log 7). -/
def Mach.ecallValue (m : Mach) (part : Nat) (e : Ecall) : Word :=
  match e.svc with
  | 0 => e.arg
  | 1 => word (m.pool part)
  | 2 => m.homeDie part e.arg
  | 3 => 0
  | n => if Config.ecallRegistered n then Config.ecallAnswer n e.arg.toNat m.dev.ticks else 0xFFFFFFFFFFFFFFFF

/-- RELINQ makes the bank a pre-emption candidate (R341). -/
def Mach.relinq (m : Mach) (b part : Nat) (e : Ecall) : Mach :=
  if e.svc = 3 then m.modPart part (fun p => { p with relinq := if p.relinq.contains b then p.relinq else p.relinq ++ [b] })
  else m

/-- Setting the answer of the first ECALL that has none. -/
def setAnswer (v : Word) : List Ecall → List Ecall
  | [] => []
  | e :: es => if e.answer.isNone then { e with answer := some v } :: es else e :: setAnswer v es

/-- Writing the answers that have arrived (R341). -/
def Mach.deliverAnswers (m : Mach) (b : Nat) : Mach :=
  let done := (m.bank b).k.ecalls.filter (fun e => e.answer.isSome)
  done.foldl (fun m e => m.deliver b .K e.dst e.slot [e.answer.getD 0])
    (m.modSeq b .K (fun s => { s with ecalls := s.ecalls.filter (fun e => e.answer.isNone) }))

/-- The answer to a bank's oldest unanswered ECALL arrives: it is written at once on a running bank, and at the resume on
one at rest (R341). -/
def Mach.ecallAnswer (m : Mach) (b : Nat) : Mach :=
  let k := m.bank b
  match k.k.ecalls.find? (fun e => e.answer.isNone) with
  | none => m
  | some e =>
    if k.status == .empty || k.status == .retiring then m
    else
      let m1 := (m.relinq b k.part e).modSeq b .K (fun s => { s with ecalls := setAnswer (m.ecallValue k.part e) s.ecalls })
      if k.status == .running then m1.deliverAnswers b else m1

/-- ECALL_ANSWER (R341). -/
def execEcallAnswer (bank : Nat) (s : State) : Host.Outcome State Fault Refusal :=
  commit s ((Mach.of s).ecallAnswer bank)

end Sys2Proof.Machine
end

