-- ==== Sys2Proof/Machine/Switch.lean ====
section
/-! DEFINITION. Switch: pre-emption and the bank switch (R34, R35, R46, R171 to R173). -/

namespace Sys2Proof.Machine

/-- A run is ended by pre-emption at the end of a clock: the bank stays bound as ready (R171, R173). -/
def Mach.preempt (m : Mach) (b : Nat) : Mach :=
  if (m.bank b).status = .running ∧ (m.bank b).between = true then m.rest b .ready .none else m

/-- A read of a sequencer that is not delivered. -/
def Acc.reads (a : Acc) : Bool :=
  !a.half && (a.kind == .load || a.kind == .atom || a.kind == .red || a.kind == .redx || a.kind == .rdx || a.kind == .rinv)

/-- A copy queue has come to a sector boundary (step 4 of R171): no sector that it has read is still to be written, and none
is on its way from a peer. A queue that a page fault stopped performs nothing (R178). -/
def CopyQueue.settled (q : CopyQueue) : Bool :=
  q.fault.isSome || (match q.cmds with
    | [] => true
    | d :: _ => !d.started || (!(d.reads.any (fun c => c.sent)) && !(d.writes.any d.mayWrite)))

/-- No transfer of a trail that has begun is outstanding (step 4 of R171). -/
def Trail.settled (t : Trail) : Bool :=
  t.fault.isSome || t.gens.all (fun g => g.sectors.isEmpty)

/-- Steps 2 to 5 of R171 are done: the issued loads are delivered, started matrix entries have completed but for those that a
stream register or a chain buffer holds up (log 90), and the engines have settled. -/
def Mach.settled (m : Mach) (b : Nat) : Bool :=
  let k := m.bank b
  [k.k, k.l, k.x, k.d].all (fun s => !(s.accs.any Acc.reads)) &&
    k.mat.queue.all (fun e => !e.started || e.isHeld) && !(m.canMove b 0) && !(m.canMove b 1) &&
    k.copyq.all (fun q => q.2.settled) && k.trails.all (fun t => t.2.settled)

/-- A ready bank goes before its ready partner: a bank that yielded lets the other go (R229); else by priority, then the one
that became ready first (R173). -/
def Bank.goesBefore (k p : Bank) : Bool :=
  if k.yielding != p.yielding then p.yielding
  else if !k.yielding && k.prio != p.prio then decide (p.prio < k.prio)
  else decide (k.readyAt ≤ p.readyAt)

/-- A bank's partner leaves the core to it: the partner does not run, and has come to rest under R171, unless it switched out
under the park rule, which needs no further step (R34, R173). -/
def Mach.restful (m : Mach) (b : Nat) : Bool :=
  match (m.bank b).status with
  | .empty | .loading | .loaded => true
  | .running => false
  | .waiting => (m.bank b).why == .parked || m.settled b
  | .ready | .retiring => m.settled b

/-- A ready bank is next on its core: its partner runs a task of strictly lower priority, or does not run and is not before it
(R34, R173); one that yielded waits for a running partner (R229). -/
def Mach.isNext (m : Mach) (b : Nat) : Bool :=
  let k := m.bank b
  let p := m.bank (partner b)
  k.status == .ready && !(m.dev.saving b) &&
    (if p.status = .running then !k.yielding && decide (p.prio < k.prio)
     else if p.status = .ready ∧ m.dev.saving (partner b) = false then k.goesBefore p
     else true)

/-- A ready bank may switch in: both banks have come to rest (R171). -/
def Mach.maySwitchIn (m : Mach) (b : Nat) : Bool :=
  m.isNext b && m.settled b && m.restful (partner b)

/-- A core starts to run a partition's task: its L1 is invalidated where another partition's ran before (R35, R100). -/
def Mach.coreRuns (m : Mach) (b : Nat) : Mach :=
  let p := (m.bank b).part
  m.modCore (coreOf b) (fun c =>
    if c.lastPart = some p then c else { c with l1 := [], lastPart := some p })

/-- A bank switches in: a running partner of lower priority comes to rest first, and once both are at rest the four
sequencers resume on one clock (R46, R171, R173). Answers that came while it was at rest are written (R341). -/
def Mach.switchIn (m : Mach) (b : Nat) : Mach :=
  if !(m.isNext b) then m
  else
    let m0 := m.preempt (partner b)
    if !(m0.maySwitchIn b) then m0
    else
      ((m0.coreRuns b).modBank b (fun k =>
        { k with status := .running, why := .none, phase := .main, slot := .K, yielding := false })).deliverAnswers b

/-- BANK_SWITCH_IN (R173). -/
def execBankSwitchIn (bank : Nat) (s : State) : Host.Outcome State Fault Refusal := commit s ((Mach.of s).switchIn bank)

end Sys2Proof.Machine
end

