-- ==== Sys2Proof/Machine/Vector.lean ====
section
/-! DEFINITION. Vector: the vector and tile words of X (R274 to R289, R298, R299). Every source is read on the issue clock;
a result may be named after its latency (R271). -/

namespace Sys2Proof.Machine

/-! ## The shared path -/

/-- A word's scalar: g[SX] of X where the word uses it (R198). -/
def Ctx.sx (c : Ctx) (f : VF) : Word := c.s.reg ((f.sx.setWidth 6))

/-- The scalar is in place. -/
def Ctx.sxReady (c : Ctx) (f : VF) : Bool := c.s.keyReady c.k.clk f.sx.toNat

/-- The amount g[SX] + SI modulo 2^64, unsigned (R18, R287). -/
def Ctx.amount (c : Ctx) (f : VF) : Nat := (c.sx f + word f.si.toNat).toNat

/-- A vector word: it stalls until its scalar and the registers it names are in place (R44, R198), traps where a block operand
names an odd register (R273), and then its body gives the new vector state. Written registers may be named after `lat`; a word that writes a tile advances VSEQ (R272). -/
def pairWord (i : Instr) (f : VF) (pairsOk useSx : Bool) (reads writes : List Nat) (lat : Nat) (s : State)
    (body : Ctx → VecState → VecState) : Host.Outcome State Fault Refusal :=
  issueWord i s (fun c m =>
    if useSx && !(c.sxReady f) then .stall
    else if !(c.k.vecReady (mkKeys f.msk ++ reads) writes) then .stall
    else if !pairsOk then .trap (c.trap .illegal)
    else .done (m.modBank c.b (fun k =>
      let v := (body c k.vec).later k.clk lat writes
      { k with vec := if writes.any (fun t => decide (t < 32)) then { v with vseq := vseqNext k.vec.vseq } else v }))
      (occOf i) none)

/-- A vector word with no block operand. -/
def vecWord (i : Instr) (f : VF) (useSx : Bool) (reads writes : List Nat) (lat : Nat) (s : State)
    (body : Ctx → VecState → VecState) : Host.Outcome State Fault Refusal :=
  pairWord i f true useSx reads writes lat s body

/-- The first operand A(i, e) with its slice (R269). -/
def VecState.first (v : VecState) (t : Ty) (f : VF) (idx i e : Nat) : Nat :=
  let a := v.tile f.ta.toNat
  let n := tyElems t / 64
  match f.sm.toNat with
  | 0 => elemAt t a i e
  | 1 => elemAt t a (idx % 16) e
  | 2 => if tyBits t = 64 then elemAt t a i (idx % 64 / 2) else elemAt t a i (idx % 64 * n + e % n)
  | _ =>
    if tyBits t = 64 then elemAt t a (idx % 1024 / 64) (idx % 64 / 2)
    else elemAt t a (idx % 1024 / 64) (idx % 64 * n + e % n)

/-- Writing elements of TD under the write mask (R270). -/
def VecState.writeElems (v : VecState) (t : Ty) (f : VF) (g : Nat → Nat → Nat) : VecState :=
  let old := v.tile f.td.toNat
  v.setTile f.td.toNat (tileFrom t (fun i e => if v.written f.msk.toNat t i e then g i e else elemAt t old i e))

/-- The type of a word. -/
def vtype (f : VF) : Ty := Ty.ofCode f.ty.toNat

/-- Whether a slice is named. -/
def vsliced (f : VF) : Bool := f.sm != 0

/-- Latency of an element-wise word (R271). -/
def elemLat (t : Ty) : Nat := if t = .f64 then 10 else 6

/-! ## Element-wise words -/

/-- An element-wise word of one, two or three sources (R274, R275). -/
def elemWord (i : Instr) (op : ElemOp) (srcs : List Nat) (lat : Nat) (f : VF) (s : State) :
    Host.Outcome State Fault Refusal :=
  vecWord i f (vsliced f) srcs [f.td.toNat] lat s (fun c v =>
    let t := (vtype f)
    let m := modRnd f.md v.rmode
    v.writeElems t f (fun r e => elemOp op t m (v.hash m r e) (v.first t f (c.amount f) r e)
      (elemAt t (v.tile f.tb.toNat) r e) (elemAt t (v.tile f.tc.toNat) r e)))

/-- A word of two sources (R274). -/
def elemWord2 (i : Instr) (op : ElemOp) (f : VF) (s : State) : Host.Outcome State Fault Refusal :=
  elemWord i op [f.ta.toNat, f.tb.toNat] (elemLat (vtype f)) f s

/-- A word of one source (R274). -/
def elemWord1 (i : Instr) (op : ElemOp) (f : VF) (s : State) : Host.Outcome State Fault Refusal :=
  elemWord i op [f.ta.toNat] (elemLat (vtype f)) f s

/-- A special function (R285). -/
def specWord (i : Instr) (fn : SpecFn) (f : VF) (s : State) : Host.Outcome State Fault Refusal :=
  elemWord i (.spec fn) [f.ta.toNat] (if (vtype f) = .f64 then 40 else 16) f s

/-- VADD (R275). -/
def execVadd (f : VF) (s : State) : Host.Outcome State Fault Refusal := elemWord2 (.vadd f) .add f s
/-- VSUB (R275). -/
def execVsub (f : VF) (s : State) : Host.Outcome State Fault Refusal := elemWord2 (.vsub f) .sub f s
/-- VMUL (R275). -/
def execVmul (f : VF) (s : State) : Host.Outcome State Fault Refusal := elemWord2 (.vmul f) .mul f s
/-- VFMA (R275). -/
def execVfma (f : VF) (s : State) : Host.Outcome State Fault Refusal :=
  elemWord (.vfma f) .fma [f.ta.toNat, f.tb.toNat, f.tc.toNat] (elemLat (vtype f)) f s
/-- VMIN (R275). -/
def execVmin (f : VF) (s : State) : Host.Outcome State Fault Refusal := elemWord2 (.vmin f) .min f s
/-- VMAX (R275). -/
def execVmax (f : VF) (s : State) : Host.Outcome State Fault Refusal := elemWord2 (.vmax f) .max f s
/-- VABS (R275). -/
def execVabs (f : VF) (s : State) : Host.Outcome State Fault Refusal := elemWord1 (.vabs f) .abs f s
/-- VNEG (R275). -/
def execVneg (f : VF) (s : State) : Host.Outcome State Fault Refusal := elemWord1 (.vneg f) .neg f s
/-- VAND (R275). -/
def execVand (f : VF) (s : State) : Host.Outcome State Fault Refusal := elemWord2 (.vand f) .and f s
/-- VOR (R275). -/
def execVor (f : VF) (s : State) : Host.Outcome State Fault Refusal := elemWord2 (.vor f) .or f s
/-- VXOR (R275). -/
def execVxor (f : VF) (s : State) : Host.Outcome State Fault Refusal := elemWord2 (.vxor f) .xor f s
/-- VSHL (R275). -/
def execVshl (f : VF) (s : State) : Host.Outcome State Fault Refusal := elemWord2 (.vshl f) .shl f s
/-- VSHR (R275). -/
def execVshr (f : VF) (s : State) : Host.Outcome State Fault Refusal := elemWord2 (.vshr f) .shr f s
/-- VSRA (R275). -/
def execVsra (f : VF) (s : State) : Host.Outcome State Fault Refusal := elemWord2 (.vsra f) .sra f s
/-- VSADD (R275). -/
def execVsadd (f : VF) (s : State) : Host.Outcome State Fault Refusal := elemWord2 (.vsadd f) .sadd f s
/-- VSSUB (R275). -/
def execVssub (f : VF) (s : State) : Host.Outcome State Fault Refusal := elemWord2 (.vssub f) .ssub f s
/-- VRCP (R285). -/
def execVrcp (f : VF) (s : State) : Host.Outcome State Fault Refusal := specWord (.vrcp f) .rcp f s
/-- VRSQ (R285, R286). -/
def execVrsq (f : VF) (s : State) : Host.Outcome State Fault Refusal := specWord (.vrsq f) .rsq f s
/-- VSQRT (R285). -/
def execVsqrt (f : VF) (s : State) : Host.Outcome State Fault Refusal := specWord (.vsqrt f) .sqrt f s
/-- VEXP2 (R285, R286). -/
def execVexp2 (f : VF) (s : State) : Host.Outcome State Fault Refusal := specWord (.vexp2 f) .exp2 f s
/-- VLOG2 (R285, R286). -/
def execVlog2 (f : VF) (s : State) : Host.Outcome State Fault Refusal := specWord (.vlog2 f) .log2 f s
/-- VSIN (R285, R286). -/
def execVsin (f : VF) (s : State) : Host.Outcome State Fault Refusal := specWord (.vsin f) .sin f s
/-- VCOS (R285, R286). -/
def execVcos (f : VF) (s : State) : Host.Outcome State Fault Refusal := specWord (.vcos f) .cos f s
/-- VTANH (R285, R286). -/
def execVtanh (f : VF) (s : State) : Host.Outcome State Fault Refusal := specWord (.vtanh f) .tanh f s

/-- VCLAMP (R284). -/
def execVclamp (f : VF) (s : State) : Host.Outcome State Fault Refusal :=
  vecWord (.vclamp f) f (vsliced f) [f.ta.toNat, f.tb.toNat, f.tc.toNat] [f.td.toNat] (elemLat (vtype f)) s (fun c v =>
    let t := (vtype f)
    v.writeElems t f (fun r e => elemClamp t (v.first t f (c.amount f) r e) (elemAt t (v.tile f.tb.toNat) r e)
      (elemAt t (v.tile f.tc.toNat) r e)))

/-! ## Compare, select, move, splat, iota -/

/-- VCMP (R276): the destination is a mask. -/
def execVcmp (f : VF) (s : State) : Host.Outcome State Fault Refusal :=
  vecWord (.vcmp f) f (vsliced f) [f.ta.toNat, f.tb.toNat] [maskKey f.td.toNat] (elemLat (vtype f)) s (fun c v =>
    let t := (vtype f)
    v.setMask f.td.toNat (maskFrom t (v.mask f.td.toNat) (fun r e =>
      if v.written f.msk.toNat t r e then
        some (elemCond t f.tc.toNat (v.first t f (c.amount f) r e) (elemAt t (v.tile f.tb.toNat) r e))
      else none)))

/-- VSEL (R277). -/
def execVsel (f : VF) (s : State) : Host.Outcome State Fault Refusal :=
  vecWord (.vsel f) f (vsliced f) [f.ta.toNat, f.tb.toNat, maskKey f.tc.toNat] [f.td.toNat] (elemLat (vtype f)) s (fun c v =>
    let t := (vtype f)
    v.writeElems t f (fun r e => if maskBit (v.mask f.tc.toNat) t r e then v.first t f (c.amount f) r e
      else elemAt t (v.tile f.tb.toNat) r e))

/-- VMOV: a copy, or a slice broadcast (R278). -/
def execVmov (f : VF) (s : State) : Host.Outcome State Fault Refusal :=
  vecWord (.vmov f) f (vsliced f) [f.ta.toNat] [f.td.toNat] (elemLat (vtype f)) s (fun c v =>
    let t := (vtype f)
    v.writeElems t f (fun r e => v.first t f (c.amount f) r e))

/-- VMOV.INS on one element: the slice position takes row 0, column 0 or cell (0, 0) of TB (R278). -/
def insElem (t : Ty) (sm idx : Nat) (a b : List Cell32) (i e : Nat) : Nat :=
  let n := tyElems t / 64
  let pair := tyBits t == 64
  let col := if pair then idx % 64 / 2 else idx % 64
  let here := if pair then e == col else e / n == col
  let from_ := if pair then 0 else e % n
  if sm = 1 then (if i = idx % 16 then elemAt t b 0 e else elemAt t a i e)
  else if sm = 2 then (if here then elemAt t b i from_ else elemAt t a i e)
  else if here && i == idx % 1024 / 64 then elemAt t b 0 from_
  else elemAt t a i e

/-- VMOV.INS (R278). -/
def execVmovIns (f : VF) (s : State) : Host.Outcome State Fault Refusal :=
  vecWord (.vmovIns f) f true [f.ta.toNat, f.tb.toNat] [f.td.toNat] (elemLat (vtype f)) s (fun c v =>
    let t := (vtype f)
    v.writeElems t f (fun r e => insElem t f.sm.toNat (c.amount f) (v.tile f.ta.toNat) (v.tile f.tb.toNat) r e))

/-- VSPLAT (R279). -/
def execVsplat (f : VF) (s : State) : Host.Outcome State Fault Refusal :=
  vecWord (.vsplat f) f true [] [f.td.toNat] (elemLat (vtype f)) s (fun c v =>
    v.writeElems (vtype f) f (fun _ _ => (c.sx f).toNat % 2 ^ tyBits (vtype f)))

/-- VIOTA (R279). -/
def execViota (f : VF) (s : State) : Host.Outcome State Fault Refusal :=
  vecWord (.viota f) f true [] [f.td.toNat] (elemLat (vtype f)) s (fun c v =>
    let t := (vtype f)
    v.writeElems t f (fun r e => ((c.sx f).toNat + f.si.toNat + r * tyElems t + e) % 2 ^ tyBits t))

/-! ## Conversion, quantisation, checks -/

/-- The registers of an operand: a block type names a pair (R273). -/
def tileRegs (t : Ty) (n : Nat) : List Nat := if isBlockTy t && n % 2 == 0 then [n, n + 1] else [n]

/-- A block operand names an even register (R273). -/
def pairOk (t : Ty) (n : Nat) : Bool := !(isBlockTy t) || n % 2 == 0

/-- Element of the source that gives element e of the destination under part p, if any (R280). -/
def partMap (dst src : Ty) (p e : Nat) : Option Nat :=
  let ed := tyElems dst
  let es := tyElems src
  if ed ≤ es then some (p * ed + e)
  else if p * es ≤ e ∧ e < p * es + es then some (e - p * es) else none

/-- VCVT (R89, R280). -/
def execVcvt (f : VF) (s : State) : Host.Outcome State Fault Refusal :=
  let src := Ty.ofCode (fld f.tc.toNat 0 4)
  pairWord (.vcvt f) f (pairOk src f.ta.toNat) false (tileRegs src f.ta.toNat) [f.td.toNat]
    (if (vtype f) = .f64 ∨ src = .f64 then 10 else 6) s (fun _ v =>
    let t := (vtype f)
    let m := modRnd f.md v.rmode
    let old := v.tile f.td.toNat
    v.writeElems t f (fun r e =>
      match partMap t src f.si.toNat e with
      | some x => elemCvt t m (bitOf f.tc.toNat 4) (v.hash m r e) (v.value src f.ta.toNat r x)
      | none => elemAt t old r e))

/-- A scale exponent in its range (R281, R282). -/
def scaleOk (k : Word) : Bool := decide (-2400 ≤ k.toInt) && decide (k.toInt ≤ 2400)

/-- The shared path of the words with a scale exponent, which traps where it is out of range or the block operand names an odd
register (R273, R281, R282). -/
def scaledWord (i : Instr) (f : VF) (pairsOk : Bool) (reads writes : List Nat) (lat : Nat) (s : State)
    (body : Ctx → VecState → VecState) : Host.Outcome State Fault Refusal :=
  issueWord i s (fun c m =>
    if !(c.sxReady f) || !(c.k.vecReady (mkKeys f.msk ++ reads) writes) then .stall
    else if !pairsOk || !(scaleOk (c.sx f)) then .trap (c.trap .illegal)
    else .done (m.modBank c.b (fun k =>
      let v := (body c k.vec).later k.clk lat writes
      { k with vec := if writes.any (fun t => decide (t < 32)) then { v with vseq := vseqNext k.vec.vseq } else v }))
      (occOf i) none)

/-- The block of eight values that VQUANT quantises (R83, R281). -/
def VecState.quant (v : VecState) (t src : Ty) (m : Rnd) (k : Int) (n p i j : Nat) : Block :=
  let es := tyElems src
  quantBlock t m (fun x => v.hash m i (8 * j + x))
    ((List.range 8).map (fun x => (v.value src n i (8 * j + x - p * es)).scale k))

/-- VQUANT (R281): blocks of the part; the write mask selects codes, headers are always written. -/
def execVquant (f : VF) (s : State) : Host.Outcome State Fault Refusal :=
  scaledWord (.vquant f) f (pairOk (vtype f) f.td.toNat) [f.ta.toNat] (tileRegs (vtype f) f.td.toNat) 10 s (fun c v =>
    let t := (vtype f)
    let src := Ty.ofCode f.tc.toNat
    let es := tyElems src
    let p := f.si.toNat
    let m := modRnd f.md v.rmode
    let k := (c.sx f).toInt
    let inPart := fun j => decide (p * es ≤ 8 * j) && decide (8 * j < p * es + es)
    let codes := v.tile f.td.toNat
    let hdrs := v.tile (f.td.toNat + 1)
    let nb := tyElems t / 8
    let ht : Ty := if t = .kb4 then .i16 else .n8
    (v.setTile f.td.toNat (tileFrom t (fun i e =>
      if inPart (e / 8) && v.written f.msk.toNat t i e then (v.quant t src m k f.ta.toNat p i (e / 8)).codes.getD (e % 8) 0
      else elemAt t codes i e))).setTile (f.td.toNat + 1) (tileFrom ht (fun i j =>
        if nb ≤ j then 0
        else if inPart j then (v.quant t src m k f.ta.toNat p i j).hdr
        else elemAt ht hdrs i j)))

/-- VDEQ (R282). -/
def execVdeq (f : VF) (s : State) : Host.Outcome State Fault Refusal :=
  scaledWord (.vdeq f) f (pairOk (Ty.ofCode f.tc.toNat) f.ta.toNat) (tileRegs (Ty.ofCode f.tc.toNat) f.ta.toNat) [f.td.toNat] (elemLat (vtype f)) s (fun c v =>
    let t := (vtype f)
    let src := Ty.ofCode f.tc.toNat
    let m := modRnd f.md v.rmode
    v.writeElems t f (fun r e => round t m false (v.hash m r e)
      ((v.value src f.ta.toNat r (f.si.toNat * tyElems t + e)).scale (c.sx f).toInt)))

/-- VCHK (R283): NF is set on the clock on which the mask is written. -/
def execVchk (f : VF) (s : State) : Host.Outcome State Fault Refusal :=
  let t := (vtype f)
  pairWord (.vchk f) f (pairOk t f.ta.toNat) false (tileRegs t f.ta.toNat) [maskKey f.td.toNat] (elemLat t) s (fun c v =>
    let bad := fun i e => (v.value t f.ta.toNat i e).nonFinite
    let found := (List.range 16).any (fun i => (List.range (tyElems t)).any (fun e =>
      v.written f.msk.toNat t i e && bad i e))
    let v' := v.setMask f.td.toNat (maskFrom t (v.mask f.td.toNat) (fun i e =>
      if v.written f.msk.toNat t i e then some (bad i e) else none))
    if found then { v' with nfAt := v'.nfAt ++ [c.k.clk + elemLat t] } else v')

/-! ## Axis operations -/

/-- A rotate or broadcast (R287). -/
def moveWord (i : Instr) (lat : Nat) (f : VF) (g : Nat → Nat → Nat → Nat → Nat × Nat) (s : State) :
    Host.Outcome State Fault Refusal :=
  vecWord i f true [f.ta.toNat] [f.td.toNat] lat s (fun c v =>
    let t := (vtype f)
    let n := tyElems t
    v.writeElems t f (fun r e =>
      let p := g (c.amount f) n r e
      elemAt t (v.tile f.ta.toNat) p.1 p.2))

/-- VRROT (R287). -/
def execVrrot (f : VF) (s : State) : Host.Outcome State Fault Refusal :=
  moveWord (.vrrot f) 10 f (fun a n r e => (r, (e + n - a % n) % n)) s
/-- VRBC (R287). -/
def execVrbc (f : VF) (s : State) : Host.Outcome State Fault Refusal :=
  moveWord (.vrbc f) 10 f (fun a n r _ => (r, a % n)) s
/-- VCROT (R287). -/
def execVcrot (f : VF) (s : State) : Host.Outcome State Fault Refusal :=
  moveWord (.vcrot f) 7 f (fun a _ r e => ((r + 16 - a % 16) % 16, e)) s
/-- VCBC (R287). -/
def execVcbc (f : VF) (s : State) : Host.Outcome State Fault Refusal :=
  moveWord (.vcbc f) 7 f (fun a _ _ e => (a % 16, e)) s

/-- A reduction or scan (R288): `set` gives the positions reduced for an element. -/
def reduceWord (i : Instr) (lat : Nat) (f : VF) (set : Nat → Nat → Nat → List (Nat × Nat)) (s : State) :
    Host.Outcome State Fault Refusal :=
  vecWord i f false [f.ta.toNat] [f.td.toNat] lat s (fun _ v =>
    let t := (vtype f)
    let m := modRnd f.md v.rmode
    v.writeElems t f (fun r e => elemReduce t (fld f.tc.toNat 0 2) m (bitOf f.tc.toNat 4) (v.hash m r e)
      ((set (tyElems t) r e).map (fun p => elemAt t (v.tile f.ta.toNat) p.1 p.2))))

/-- VRRED (R288). -/
def execVrred (f : VF) (s : State) : Host.Outcome State Fault Refusal :=
  reduceWord (.vrred f) 10 f (fun n r _ => (List.range n).map (fun e => (r, e))) s
/-- VRSCAN (R288). -/
def execVrscan (f : VF) (s : State) : Host.Outcome State Fault Refusal :=
  reduceWord (.vrscan f) 10 f (fun _ r e => (List.range (e + 1)).map (fun x => (r, x))) s
/-- VCRED (R288). -/
def execVcred (f : VF) (s : State) : Host.Outcome State Fault Refusal :=
  reduceWord (.vcred f) 7 f (fun _ _ e => (List.range 16).map (fun r => (r, e))) s
/-- VCSCAN (R288). -/
def execVcscan (f : VF) (s : State) : Host.Outcome State Fault Refusal :=
  reduceWord (.vcscan f) 7 f (fun _ r e => (List.range (r + 1)).map (fun x => (x, e))) s

/-- VTRN (R289). -/
def execVtrn (f : VF) (s : State) : Host.Outcome State Fault Refusal :=
  vecWord (.vtrn f) f false [f.ta.toNat] [f.td.toNat] 12 s (fun _ v =>
    v.writeElems (vtype f) f (fun r e => elemAt (vtype f) (v.tile f.ta.toNat) (e % 16) (e / 16 * 16 + r)))

/-! ## Rows and stream registers -/

/-- The tile with a row replaced where `g` gives a cell. -/
def setRow (c : List Cell32) (r : Nat) (g : Nat → Cell32 → Cell32) : List Cell32 :=
  (List.range 1024).map (fun x => if x / 64 = r then g (x % 64) (c.getD x 0) else c.getD x 0)

/-- After a word that writes a tile register (R271, R272). -/
def Bank.tileWritten (k : Bank) (v : VecState) (lat : Nat) (writes : List Nat) : Bank :=
  { k with vec := { v.later k.clk lat writes with vseq := vseqNext k.vec.vseq } }

/-- VPOPQ (R298). -/
def execVpopq (f : VF) (s : State) : Host.Outcome State Fault Refusal :=
  issueWord (.vpopq f) s (fun c m =>
    let n := f.tb.toNat
    let t := f.td.toNat
    if !(c.sxReady f) || !(c.k.vecReady [] [t]) then .stall
    else if c.k.popRefused n then .trap (c.trap .qovf)
    else
      match Bank.popN 32 (m.bank c.b) n with
      | none => .stall
      | some (vs, k) =>
        let row := c.amount f % 16
        .done (m.setBank c.b (k.tileWritten (k.vec.setTile t (setRow (k.vec.tile t) row (fun j _ =>
          BitVec.ofNat 32 ((vs.getD (j / 2) 0).toNat / 2 ^ (32 * (j % 2)))))) 2 [t])) 1 none)

/-- VPUSHQ (R298). -/
def execVpushq (f : VF) (s : State) : Host.Outcome State Fault Refusal :=
  issueWord (.vpushq f) s (fun c m =>
    let n := f.tb.toNat
    let t := f.ta.toNat
    let k := m.bank c.b
    if !(c.sxReady f) || !(c.k.vecReady [t] []) then .stall
    else if c.k.pushRefused n then .trap (c.trap .qovf)
    else if k.room n < 32 then .stall
    else
      let row := c.amount f % 16
      .done (m.setBank c.b (k.pushAll n (c.k.clk + 2) ((List.range 32).map (fun x =>
        word (cellOfTile (k.vec.tile t) row (2 * x) + cellOfTile (k.vec.tile t) row (2 * x + 1) * 2 ^ 32))))) 1 none)

/-- The selected elements of a row, ascending (R299). -/
def VecState.selected (v : VecState) (f : VF) (row : Nat) : List Nat :=
  (List.range (tyElems (vtype f))).filter (fun e => v.written f.msk.toNat (vtype f) row e)

/-- VCPUSH (R299): the count goes to a g register. -/
def execVcpush (f : VF) (s : State) : Host.Outcome State Fault Refusal :=
  issueWord (.vcpush f) s (fun c m =>
    let n := f.tb.toNat
    let t := f.ta.toNat
    let k := m.bank c.b
    if !(c.sxReady f) || !(c.s.keyReady c.k.clk f.td.toNat) || !(c.k.vecReady (mkKeys f.msk ++ [t]) []) then .stall
    else if c.k.pushRefused n then .trap (c.trap .qovf)
    else
      let row := c.amount f % 16
      let es := k.vec.selected f row
      if k.room n < es.length then .stall
      else .done ((m.setBank c.b (k.pushAll n (c.k.clk + 4)
        (es.map (fun e => word (elemAt (vtype f) (k.vec.tile t) row e))))).putReg c (f.td.setWidth 6) 4 (word es.length)) 1 none)

/-- VCPOP (R299). -/
def execVcpop (f : VF) (s : State) : Host.Outcome State Fault Refusal :=
  issueWord (.vcpop f) s (fun c m =>
    let n := f.tb.toNat
    let t := f.td.toNat
    let ty := (vtype f)
    if !(c.sxReady f) || !(c.k.vecReady (mkKeys f.msk) [t]) then .stall
    else if c.k.popRefused n then .trap (c.trap .qovf)
    else
      let row := c.amount f % 16
      let es := c.k.vec.selected f row
      match Bank.popN es.length (m.bank c.b) n with
      | none => .stall
      | some (vs, k) =>
        let old := k.vec.tile t
        .done (m.setBank c.b (k.tileWritten (k.vec.setTile t (tileFrom ty (fun i e =>
          if i = row ∧ e ∈ es then (vs.getD (es.findIdx (fun x => x == e)) 0).toNat % 2 ^ tyBits ty
          else elemAt ty old i e))) 4 [t])) 1 none)

end Sys2Proof.Machine
end

