-- ==== Sys2Proof/Machine/Witness.lean ====
section
/-! DEFINITION. Witness: witness registers and the words that produce and use them (R290 to R295), and the words that move
rows between tiles and trails (R296, R297). -/

namespace Sys2Proof.Machine

/-! ## Registers -/

/-- A cleared witness register (R290). -/
def Witness.cleared : Witness :=
  { bytes := List.replicate 1024 0, valid := false, oper := 0, axis := 0, win := 0, site := 0, ty := 0 }

/-- A witness register. -/
def VecState.witness (v : VecState) (n : Nat) : Witness := tget .cleared v.wit n

/-- Setting a witness register. -/
def VecState.setWitness (v : VecState) (n : Nat) (w : Witness) : VecState := { v with wit := tput v.wit n w }

/-! ## Producers -/

/-- Inserting a code into an ascending list (R292, median). -/
def insertCode (t : Ty) (c : Nat) : List Nat → List Nat
  | [] => [c]
  | x :: xs => if elemLt t x c then x :: insertCode t c xs else c :: x :: xs

/-- Codes in ascending order, -0 below +0. -/
def sortCodes (t : Ty) (cs : List Nat) : List Nat := cs.foldr (insertCode t) []

/-- The bits of the members that satisfy a test. -/
def memberBits (cs : List Nat) (p : Nat → Bool) : Nat :=
  (List.range cs.length).foldl (fun a i => a + (if p (cs.getD i 0) then 2 ^ i else 0)) 0

/-- The bit of the first member that satisfies a test. -/
def firstBit (cs : List Nat) (p : Nat → Bool) : Nat :=
  match cs.findIdx? p with
  | some i => 2 ^ i
  | none => 0

/-- Max and min: the result and its witness byte (R292). -/
def bestWitness (t : Ty) (greatest : Bool) (cs : List Nat) : Nat × Nat :=
  if cs.any (elemNan t) then (nanCode t, memberBits cs (elemNan t))
  else
    let r := elemBest t greatest cs
    (r, memberBits cs (fun c => c == r))

/-- Median (R292). -/
def medianWitness (t : Ty) (cs : List Nat) : Nat × Nat :=
  if cs.any (elemNan t) then (nanCode t, firstBit cs (elemNan t))
  else
    let r := (sortCodes t cs).getD ((cs.length - 1) / 2) 0
    (r, firstBit cs (fun c => c == r))

/-- Saturating sum (R292). -/
def sumWitness (t : Ty) (m : Rnd) (h : Nat) (cs : List Nat) : Nat × Nat :=
  let v := Val.sum (cs.map (tyValue t))
  match tyFmt t with
  | none =>
    let r := readOutInt t true (v.atScale 0)
    (r, if (tyValue t r).numEq v then 0 else 1)
  | some f =>
    (round t m true h v, match v with
      | .nan => 2
      | .inf _ => 3
      | w => if f.big.lt w.abs then 1 else 0)

/-- Clamp (R292). -/
def clampWitness (t : Ty) (a lo hi : Nat) : Nat × Nat :=
  (elemClamp t a lo hi,
    if elemNan t a || elemNan t lo || elemNan t hi then 3
    else if elemLt t hi a then 2 else if elemLt t a lo then 1 else 0)

/-- Members of the window of output (i, o) of an axis with W (R292); `none` past the last output. -/
def windowOf (t : Ty) (c : List Cell32) (axis w i o : Nat) : Option (List Nat) :=
  if axis = 0 then
    if o * w < 64 then
      some (((List.range w).filter (fun k => decide (o * w + k < 64))).map (fun k => elemAt t c i (o * w + k)))
    else none
  else if i * w < 16 then
    some (((List.range w).filter (fun k => decide (i * w + k < 16))).map (fun k => elemAt t c (i * w + k) o))
  else none

/-- A producer (R291, R292): TD takes the results and the register their witness bytes. -/
def produceWord (i : Instr) (oper axis win : Nat) (srcs : List Nat) (lat : Nat) (f : VF)
    (g : VecState → Rnd → Nat → Nat → Option (Nat × Nat)) (s : State) : Host.Outcome State Fault Refusal :=
  let n := f.sx.toNat % 8
  vecWord i f false (f.ta.toNat :: srcs) [f.td.toNat, witKey n] lat s (fun _ v =>
    let t := vtype f
    let m := modRnd f.md v.rmode
    let v' := v.setTile f.td.toNat (tileFrom t (fun r e => match g v m r e with | some p => p.1 | none => 0))
    v'.setWitness n
      { bytes := (List.range 1024).map (fun x => match g v m (x / 64) (x % 64) with
          | some p => BitVec.ofNat 8 p.2
          | none => 0),
        valid := true, oper := oper, axis := axis, win := win, site := f.si.toNat, ty := f.ty.toNat })

/-- A producer over windows (R291). -/
def windowWord (i : Instr) (oper : Nat) (f : VF) (g : Ty → Rnd → Nat → List Nat → Nat × Nat) (s : State) :
    Host.Outcome State Fault Refusal :=
  let w := f.tc.toNat % 8 + 1
  let axis := f.tc.toNat / 8 % 2
  produceWord i oper axis w [] (if axis = 0 then 10 else 7) f (fun v m r e =>
    (windowOf (vtype f) (v.tile f.ta.toNat) axis w r e).map (fun cs => g (vtype f) m (v.hash m r e) cs)) s

/-- VWMAX (R292). -/
def execVwmax (f : VF) (s : State) : Host.Outcome State Fault Refusal :=
  windowWord (.vwmax f) 0 f (fun t _ _ cs => bestWitness t true cs) s
/-- VWMIN (R292). -/
def execVwmin (f : VF) (s : State) : Host.Outcome State Fault Refusal :=
  windowWord (.vwmin f) 1 f (fun t _ _ cs => bestWitness t false cs) s
/-- VWMED (R292). -/
def execVwmed (f : VF) (s : State) : Host.Outcome State Fault Refusal :=
  windowWord (.vwmed f) 2 f (fun t _ _ cs => medianWitness t cs) s
/-- VWSSUM (R292). -/
def execVwssum (f : VF) (s : State) : Host.Outcome State Fault Refusal :=
  windowWord (.vwssum f) 3 f (fun t m h cs => sumWitness t m h cs) s
/-- VWCLAMP (R292). -/
def execVwclamp (f : VF) (s : State) : Host.Outcome State Fault Refusal :=
  produceWord (.vwclamp f) 4 0 1 [f.tb.toNat, f.tc.toNat] 7 f (fun v _ r e =>
    some (clampWitness (vtype f) (elemAt (vtype f) (v.tile f.ta.toNat) r e) (elemAt (vtype f) (v.tile f.tb.toNat) r e)
      (elemAt (vtype f) (v.tile f.tc.toNat) r e))) s

/-! ## VADJ -/

/-- The number of set bits of a byte. -/
def popByte (b : Nat) : Nat := (List.range 8).foldl (fun n i => n + b2n (bitOf b i)) 0

/-- The lowest set bit of a byte. -/
def lowestBit (b : Nat) : Option Nat := (List.range 8).find? (bitOf b)

/-- One input position of VADJ: gradient g, witness byte b, position k in its window (R293). -/
def adjElem (oper rule k g b : Nat) : Nat :=
  if oper = 4 then (if b % 4 = 0 then g else 0)
  else if oper = 3 then (if bitOf b 0 then 0 else g)
  else if rule = 0 then (if lowestBit b = some k then g else 0)
  else if rule = 1 then
    (if bitOf b k then roundDiv .f32 .rne false 0 (tyValue .f32 g) (.ofInt (popByte b)) else 0)
  else if bitOf b k then g else 0

/-- The checks of VADJ (R293). -/
def Witness.suits (w : Witness) (site axis win rule : Nat) : Bool :=
  w.valid && w.site == site && w.axis == axis && w.win == win && (decide (w.oper < 3) || rule == 0)

/-- VADJ (R293): gradients go back to the inputs their witnesses name. -/
def execVadj (f : VF) (s : State) : Host.Outcome State Fault Refusal :=
  let n := f.sx.toNat % 8
  let w := f.tc.toNat % 8 + 1
  let axis := f.tc.toNat / 8 % 2
  let rule := f.tb.toNat % 4
  let keep := bitOf f.tb.toNat 2
  let lat := if axis = 0 then 10 else 7
  issueWord (.vadj f) s (fun c m =>
    let writes := [f.td.toNat] ++ (if keep then [] else [witKey n])
    if !(c.k.vecReady (mkKeys f.msk ++ [f.ta.toNat, witKey n]) writes) then .stall
    else if !((c.k.vec.witness n).suits f.si.toNat axis w rule) then .trap (c.trap .witness)
    else .done (m.modBank c.b (fun k =>
      let v := k.vec
      let t := v.witness n
      let v' := v.writeElems .f32 f (fun i e =>
        let o := if axis = 0 then (i, e / w) else (i / w, e)
        let pos := if axis = 0 then e % w else i % w
        adjElem t.oper rule pos (elemAt .f32 (v.tile f.ta.toNat) o.1 o.2) (t.bytes.getD (64 * o.1 + o.2) 0).toNat)
      k.tileWritten (if keep then v' else v'.setWitness n .cleared) lat writes)) 4 none)

/-! ## Witness images -/

/-- The 12 header bytes that CHK covers (R294). -/
def Witness.header (w : Witness) : List Byte :=
  if w.valid then
    [1, BitVec.ofNat 8 w.oper, BitVec.ofNat 8 w.axis, BitVec.ofNat 8 w.win, BitVec.ofNat 8 w.site, BitVec.ofNat 8 w.ty] ++
      List.replicate 6 0
  else List.replicate 12 0

/-- The image: 130 elements, as bytes (R294). -/
def Witness.image (w : Witness) : List Byte :=
  w.header ++ leBytes 4 (crc32c (w.header ++ w.bytes)).toNat ++ w.bytes

/-- Element k of an image. -/
def imageElem (bs : List Byte) (k : Nat) : Word := word (leNat ((bs.drop (8 * k)).take 8))

/-- The register that an image gives, if it passes the checks of R295. An image with VALID 0 clears (R290). -/
def Witness.ofImage (bs : List Byte) : Option Witness :=
  let h := fun i => (bs.getD i 0).toNat
  let body := bs.drop 16
  if leNat ((bs.drop 12).take 4) != (crc32c (bs.take 12 ++ body)).toNat then none
  else if (List.range 6).any (fun i => h (6 + i) != 0) then none
  else if h 0 = 0 then (if (List.range 5).any (fun i => h (1 + i) != 0) then none else some .cleared)
  else if h 0 != 1 || decide (4 < h 1) || decide (1 < h 2) || h 3 == 0 || decide (8 < h 3) || decide (63 < h 4) ||
      !(h 5 == 0 || h 5 == 7 || h 5 == 12) then none
  else some { bytes := body, valid := true, oper := h 1, axis := h 2, win := h 3, site := h 4, ty := h 5 }

/-- VWOUT (R295): one element a clock while there is room; the word issues on the clock of its last element. -/
def execVwout (f : VF) (s : State) : Host.Outcome State Fault Refusal :=
  issueWord (.vwout f) s (fun c m =>
    let n := f.tb.toNat
    let k := m.bank c.b
    if !(c.k.vecReady [witKey (f.ta.toNat)] []) then .stall
    else if c.s.moved == 0 && c.k.pushRefused n then .trap (c.trap .qovf)
    else if k.room n == 0 then .stall
    else
      let v := imageElem (k.vec.witness f.ta.toNat).image c.s.moved
      let m1 := m.setBank c.b (k.push n { val := v, wait := none, ready := c.k.clk + 2 })
      if c.s.moved < 129 then .wait (m1.modSeq c.b c.q (fun t => { t with moved := t.moved + 1 }))
      else .done (m1.modSeq c.b c.q (fun t => { t with moved := 0 })) 1 none)

/-- VWIN (R295): one element a clock while one is present; the image is checked on the last clock. -/
def execVwin (f : VF) (s : State) : Host.Outcome State Fault Refusal :=
  issueWord (.vwin f) s (fun c m =>
    let n := f.tb.toNat
    let w := f.td.toNat
    if !(c.k.vecReady [] [witKey w]) then .stall
    else if c.s.moved == 0 && c.k.popRefused n then .trap (c.trap .qovf)
    else
      match (m.bank c.b).pop n with
      | none => .stall
      | some (v, k) =>
        let m1 := m.setBank c.b k
        if c.s.moved < 129 then
          .wait (m1.modSeq c.b c.q (fun t => { t with moved := t.moved + 1, popped := t.popped ++ [v] }))
        else
          match Witness.ofImage ((c.s.popped ++ [v]).flatMap (fun x => leBytes 8 x.toNat)) with
          | none => .trapAfter m1 (c.trap .witness)
          | some r =>
            .done ((m1.modSeq c.b c.q (fun t => { t with moved := 0, popped := [] })).modBank c.b (fun k =>
              { k with vec := (k.vec.setWitness w r).later k.clk 2 [witKey w] })) 1 none)

/-! ## Rows of trails -/

/-- The number of rows of a VLDW or VSTW: 0 stands for 16 (R296). -/
def rowCount (f : VF) : Nat := if f.tc = 0 then 16 else f.tc.toNat

/-- Bytes of a ring row that a tile row holds (R296, R297). -/
def TrailDesc.tileBytes (d : TrailDesc) : Nat := Nat.min d.rowlen 256

/-- VLDW (R296): rows of the live window into a tile. -/
def execVldw (f : VF) (s : State) : Host.Outcome State Fault Refusal :=
  issueWord (.vldw f) s (fun c m =>
    let n := rowCount f
    let idx := c.amount f
    let td := f.td.toNat
    if !(c.sxReady f) || !(c.k.vecReady (mkKeys f.msk) [td]) then .stall
    else
      match (c.k.trail f.ta.toNat).current with
      | none => .trap (c.trap .trailx)
      | some g =>
        if g.desc.dir != 0 || decide (g.desc.ringrows < idx + n) then .trap (c.trap .trailx)
        else if !((List.range n).all (fun r => g.has (g.oldest + idx + r))) then .stall
        else .done (m.modBank c.b (fun k =>
          let v := k.vec
          let old := v.tile td
          let rows := (List.range n).map (fun r => v.lread (g.desc.slotAt (g.oldest + idx + r)) g.desc.tileBytes)
          k.tileWritten (v.setTile td (tileFrom .n32 (fun i e =>
            if i < n ∧ v.written f.msk.toNat .n32 i e then leNat (((rows.getD i []).drop (4 * e)).take 4)
            else elemAt .n32 old i e))) 6 [td])) 4 none)

/-- A slot of a drain ring is free (R102). -/
def TrailGen.slotFree (g : TrailGen) (j : Nat) : Bool :=
  tget .free g.rows j == .free && (decide (j < g.desc.ringrows) || tget .free g.rows (j - g.desc.ringrows) != .writing)

/-- The bytes that VSTW puts into a slot: MK selects byte by byte (R297). -/
def VecState.slotBytes (v : VecState) (f : VF) (d : TrailDesc) (slot r : Nat) : List Byte :=
  let old := v.lread slot d.tileBytes
  (List.range d.tileBytes).map (fun x =>
    if f.msk = 0 ∨ bitOf ((v.mask f.msk.toNat).getD (64 * r + x / 4) 0).toNat (2 * (x % 4)) = true then
      BitVec.ofNat 8 (cellOfTile (v.tile f.tb.toNat) r (x / 4) / 2 ^ (8 * (x % 4)))
    else old.getD x 0)

/-- VSTW (R297): rows of a tile into free slots of a drain ring. -/
def execVstw (f : VF) (s : State) : Host.Outcome State Fault Refusal :=
  issueWord (.vstw f) s (fun c m =>
    let n := rowCount f
    let idx := c.amount f
    if !(c.sxReady f) || !(c.k.vecReady (mkKeys f.msk ++ [f.tb.toNat]) []) then .stall
    else
      match (c.k.trail f.ta.toNat).current with
      | none => .trap (c.trap .trailx)
      | some g =>
        if g.desc.dir != 1 || decide (g.desc.ringrows < idx + n) then .trap (c.trap .trailx)
        else if !((List.range n).all (fun r => g.slotFree (g.oldest + idx + r))) then .stall
        else
          let m1 := m.modBank c.b (fun k =>
            { k with vec := (List.range n).foldl (fun v r =>
                let slot := g.desc.slotAt (g.oldest + idx + r)
                v.lwrite slot (k.vec.slotBytes f g.desc slot r)) k.vec })
          .done (m1.modTrail c.b f.ta.toNat (fun t => t.modGen g.uid (fun h =>
            { h with rows := (List.range n).foldl (fun rs r => tput rs (g.oldest + idx + r) .full) h.rows }))) 4 none)

end Sys2Proof.Machine
end

