-- ==== Sys2Proof/Machine/SaveArea.lean ====
section
/-! DEFINITION. SaveArea: the bytes of a saved context (R181, R301), and what a restore reads of them (R182). The rule lays down
the regions and what stands in each; the places inside the header and inside the sequencer, coupling, engine and matrix regions
are the model's, in the rule's order (DESIGN CHOICE, log 35). -/

namespace Sys2Proof.Machine

/-! ## Parts -/

/-- Filling up to the length of a region with zeros. -/
def padTo (n : Nat) (bs : List Byte) : List Byte := bs.take n ++ List.replicate (n - bs.length) 0

/-- A count, then the bytes of each element. -/
def listBytes {α : Type} (l : List α) (f : α → List Byte) : List Byte := leBytes 4 l.length ++ l.flatMap f

/-- Numbered registers of `w` bytes each. -/
def regBytes (n w : Nat) (f : Nat → Nat) : List Byte := (List.range n).flatMap (fun i => leBytes w (f i))

/-- A flag. -/
def flagByte (b : Bool) : List Byte := [BitVec.ofNat 8 (b2n b)]

/-- An address register: value, step, modulus, origin, mode. -/
def AReg.areaBytes (a : AReg) : List Byte :=
  leBytes 8 a.val.toNat ++ leBytes 8 a.step.toNat ++ leBytes 8 a.modulus.toNat ++ leBytes 8 a.origin.toNat ++ leBytes 1 a.mode.toNat

/-- A pending ECALL with its answer state. -/
def Ecall.areaBytes (e : Ecall) : List Byte :=
  leBytes 1 e.svc ++ leBytes 8 e.arg.toNat ++ leBytes 1 e.dst ++ flagByte e.answer.isSome ++ leBytes 8 (e.answer.getD 0).toNat

/-- A sequencer's region. -/
def SeqState.areaBytes (s : SeqState) : List Byte :=
  leBytes 4 s.pos ++ regBytes 32 8 (fun i => (tget 0 s.g i).toNat) ++ leBytes 1 ((List.range 8).foldl (fun n i => n + b2n (tget false s.p i) * 2 ^ i) 0) ++
    leBytes 8 s.cyc.toNat ++ listBytes s.loops (fun e => leBytes 4 e.start ++ leBytes 4 e.stop ++ leBytes 8 e.rem) ++
    flagByte s.halted ++ flagByte s.released ++ listBytes s.outq flagByte ++
    (List.range 16).flatMap (fun i => (tget AReg.zero s.a i).areaBytes) ++ leBytes 1 s.wout.toNat ++ listBytes s.ecalls Ecall.areaBytes ++
    leBytes 2 s.moved ++ listBytes s.popped (fun v => leBytes 8 v.toNat)

/-- The binding of a stream register. -/
def QBinding.areaBytes : QBinding → List Byte
  | .none => [0, 0]
  | .copyIn k => [1, BitVec.ofNat 8 k]
  | .copyOut k => [2, BitVec.ofNat 8 k]
  | .trail t => [3, BitVec.ofNat 8 t]

/-- The coupling region: events and postings, counters, bindings and counts of stream registers, control words, Lookout record. -/
def Bank.couplingBytes (k : Bank) : List Byte :=
  regBytes 64 2 (fun i => tget 0 k.events i) ++
    [k.k, k.l, k.x, k.d].flatMap (fun s => listBytes s.posts (fun p => leBytes 1 p.ev)) ++
    leBytes 2 k.ldc ++ leBytes 2 k.stc ++ leBytes 2 k.cpc ++ leBytes 2 k.toc ++
    (List.range 16).flatMap (fun n => (k.qbound n).areaBytes ++ leBytes 1 (k.qelems n).length) ++
    leBytes 1 k.vec.rmode.toNat ++ flagByte k.vec.nf ++ leBytes 4 k.vec.dseed.toNat ++ leBytes 8 k.trec0.toNat ++
    leBytes 8 k.trec1.toNat ++ padTo 32 k.lookout

/-- The stream registers: 64 elements each, oldest first. -/
def Bank.streamBytes (k : Bank) : List Byte :=
  (List.range 16).flatMap (fun n => regBytes 64 8 (fun i => (((k.qelems n)[i]?).map (fun e => e.val.toNat)).getD 0))

/-- The number of a command's kind. -/
def CmdKind.code : CmdKind → Nat
  | .cpy => 0
  | .snk => 1
  | .src => 2
  | .cpy2 => 3
  | .gath => 4
  | .scat => 5
  | .crcSum => 6
  | .crcPut => 7
  | .crcSeed => 8

/-- A command with its progress offset. -/
def Cmd.areaBytes (d : Cmd) : List Byte :=
  leBytes 1 d.kind.code ++ leBytes 1 d.crc ++ leBytes 8 d.da ++ leBytes 8 d.sa ++ leBytes 8 d.len ++ leBytes 8 d.rows ++
    leBytes 8 d.ds ++ leBytes 8 d.ss ++ leBytes 1 d.esz ++ flagByte d.ix ++ leBytes 8 d.seed.toNat ++ leBytes 4 d.pos ++
    flagByte d.started ++ leBytes 8 d.progress

/-- A copy queue: its commands, running CRC, fault state and status. -/
def Bank.copyBytes (k : Bank) (n : Nat) : List Byte :=
  let q := k.copy n
  listBytes q.cmds Cmd.areaBytes ++ leBytes 4 q.crc.toNat ++ flagByte q.fault.isSome ++ leBytes 8 (q.fault.getD 0) ++
    leBytes 8 (k.qstat n).toNat

/-- The number of a row state. -/
def RowState.code : RowState → Nat
  | .pending => 0
  | .begun => 1
  | .arrived => 2
  | .free => 3
  | .full => 4
  | .writing => 5

/-- A setting of a trail with its row states. -/
def TrailGen.areaBytes (g : TrailGen) : List Byte :=
  leBytes 8 g.base ++ leBytes 8 g.oldest ++ flagByte g.opened ++ flagByte g.released ++ flagByte g.closing ++
    listBytes g.rows (fun r => leBytes 8 r.1 ++ leBytes 1 r.2.code) ++
    listBytes g.cmds (fun d => flagByte d.adv.isSome ++ leBytes 8 (d.adv.getD 0))

/-- The engine region. -/
def Bank.engineBytes (k : Bank) : List Byte :=
  (List.range 4).flatMap k.copyBytes ++ (List.range 16).flatMap (fun t =>
    listBytes (k.trail t).gens TrailGen.areaBytes ++ flagByte (k.trail t).isSet ++ flagByte (k.trail t).fault.isSome ++
      leBytes 8 ((k.trail t).fault.getD 0))

/-- A binding of a handle. -/
def Binding.areaBytes (b : Binding) : List Byte :=
  leBytes 1 b.ty.code ++ leBytes 1 b.kernel ++ leBytes 1 b.d ++ leBytes 1 b.rowTrail ++ leBytes 1 b.colTrail ++
    listBytes b.consts (fun v => leBytes 8 v.toNat) ++ leBytes 8 b.lam.toNat ++ flagByte b.override ++
    leBytes 8 b.overrideVal.toNat ++ leBytes 4 b.nr ++ leBytes 4 b.nc ++ flagByte b.same

/-- What may be absent. -/
def optBytes {α : Type} (o : Option α) (f : α → List Byte) : List Byte := listBytes o.toList f

/-- A matrix queue entry with its mode, seed, recorded rows and recorded binding. -/
def MEnt.areaBytes (e : MEnt) : List Byte :=
  leBytes 8 ((encodeWord e.word).getD 0).toNat ++ leBytes 4 e.pos ++ leBytes 1 e.mode.code ++ leBytes 4 e.seed ++
    leBytes 4 e.period ++ listBytes e.refs (fun r => leBytes 1 r.trail ++ leBytes 8 r.first ++ leBytes 4 r.count) ++
    optBytes e.binding Binding.areaBytes ++ listBytes e.params (fun v => leBytes 8 v.toNat)

/-- A structure tag. -/
def STag.areaBytes (t : STag) : List Byte :=
  leBytes 1 t.ty.code ++ leBytes 4 t.n ++ leBytes 4 t.m ++ leBytes 8 t.lam.toNat ++ leBytes 4 t.sig

/-- The matrix region. -/
def Bank.matrixBytes (k : Bank) : List Byte :=
  let t := k.mat
  listBytes t.queue MEnt.areaBytes ++ leBytes 1 t.mode.code ++ leBytes 4 t.seed ++ leBytes 4 t.mseq ++
    leBytes 4 k.vec.vseq.toNat ++ leBytes 4 t.period ++
    leBytes 4 t.stat.knf ++ leBytes 4 t.stat.knft ++ leBytes 4 t.stat.sstat ++ leBytes 4 t.stat.ssig ++ leBytes 4 t.stat.rstall ++
    (List.range 16).flatMap (fun h => optBytes (tfind t.handles h) Binding.areaBytes) ++
    (List.range 16).flatMap (fun c => optBytes (tget Collector.start t.coll c).tag STag.areaBytes) ++
    listBytes t.west (fun r => padTo 256 r.bytes ++ padTo 128 r.hdr)

/-- A plane: its rows, its headers, its type; the rest 0. -/
def Plane.areaBytes (p : Plane) : List Byte :=
  (List.range 64).flatMap (fun j => padTo 256 (p.row j).bytes) ++ (List.range 64).flatMap (fun j => padTo 128 (p.row j).hdr) ++
    leBytes 4 p.ty.code

/-- The tiles. -/
def VecState.tileArea (v : VecState) : List Byte :=
  (List.range 32).flatMap (fun t => regBytes 1024 4 (fun i => ((v.tile t).getD i 0).toNat))

/-- The witness registers with their state records, then the masks. -/
def VecState.witnessArea (v : VecState) : List Byte :=
  (List.range 8).flatMap (fun n => padTo 1024 (v.witness n).bytes ++ (v.witness n).image.take 16) ++
    (List.range 8).flatMap (fun n => padTo 1024 (v.mask n))

/-- The bank's half of local memory. -/
def VecState.localArea (v : VecState) : List Byte := (List.range 4096).flatMap (fun r => padTo 256 (v.lrow r))

/-- The 64-bit limbs of a magnitude, lowest first, as far as it reaches; `n` bounds them. -/
def limbs : Nat → Nat → List Byte
  | 0, _ => []
  | n + 1, v => if v = 0 then [] else leBytes 8 (v % 2 ^ 64) ++ limbs n (v / 2 ^ 64)

/-- A collector entry: a head of 16 bytes with class, tag, sign, exponent of the lowest limb and limb count, and its limbs. -/
def entryArea (c : RowClass) (v : CEntry) : List Byte :=
  let cls := match c with | .unset => 0 | .floating => 1 | .integer => 2
  let head := fun (tag : Nat) (neg : Bool) (e : Int) (n : Nat) =>
    leBytes 1 cls ++ leBytes 1 tag ++ flagByte neg ++ [0] ++ leBytes 4 (e % 2 ^ 32).toNat ++ leBytes 4 n ++ leBytes 4 0
  match v with
  | .fin n k =>
    let l := limbs 69 n.natAbs
    head 0 (decide (n < 0)) (-(k : Int)) (l.length / 8) ++ l
  | .inf neg => head 1 neg 0 0
  | .nan => head 2 false 0 0

/-- The collector region; its length is CBYTES. -/
def MatState.collectorArea (t : MatState) : List Byte :=
  (List.range 16).flatMap (fun c =>
    let x := tget Collector.start t.coll c
    (List.range 64).flatMap (fun i => (List.range 64).flatMap (fun j =>
      entryArea (tget .unset x.cls i) ((tget [] x.rows i).getD j (.fin 0 0)))))

/-- Everything after the header, up to the last collector byte. -/
def Bank.bodyArea (k : Bank) : List Byte :=
  padTo 0x1000 k.k.areaBytes ++ padTo 0x1000 k.l.areaBytes ++ padTo 0x1000 k.x.areaBytes ++ padTo 0x1000 k.d.areaBytes ++
    padTo 0x1000 k.couplingBytes ++ padTo 0x2000 k.streamBytes ++ padTo 0x8000 k.engineBytes ++ padTo 0x10000 k.matrixBytes ++
    padTo 0x8000 k.mat.stationary.areaBytes ++ padTo 0x8000 k.mat.shadow.areaBytes ++ padTo 0x20000 k.vec.tileArea ++
    padTo 0xB0000 k.vec.witnessArea ++ padTo 0x100000 k.vec.localArea ++ List.replicate 0x200000 0 ++ k.mat.collectorArea

/-- The header (R181): MAGIC, VERSION, TASKID, GANGID, PART, the boot mailbox, CBYTES and DIGEST, in this order. -/
def saveHeader (t : Task) (mbox : BitVec 256) (cbytes : Nat) (digest : List Byte) : List Byte :=
  leBytes 4 0x4B534156 ++ leBytes 4 1 ++ leBytes 4 t.taskId ++ leBytes 4 t.gangId ++ leBytes 4 t.part ++ leBytes 4 0 ++
    leBytes 8 cbytes ++ leBytes 32 mbox.toNat ++ padTo 32 digest

/-- Bytes of a save area (R181). -/
def saveBytes : Nat := 2 ^ 26

/-- The whole area of a context. -/
def Bank.area (k : Bank) (t : Task) : List Byte :=
  let body := k.bodyArea
  padTo saveBytes (padTo 0x1000 (saveHeader t k.mbox k.mat.collectorArea.length (shake256 32 body)) ++ body)

/-! ## Reading an area -/

/-- MAGIC, VERSION and DIGEST of an area as it stands in memory (R182). -/
def Mach.areaOk (m : Mach) (pa : Nat) : Bool :=
  let cbytes := m.le (pa + 24) 8
  m.le pa 4 == 0x4B534156 && m.le (pa + 4) 4 == 1 && decide (cbytes ≤ saveBytes - 0x400000) &&
    shake256 32 (m.bytes (pa + 0x1000) (0x3FF000 + cbytes)) == m.bytes (pa + 64) 32 &&
    (m.poisoned pa (0x400000 + cbytes)).isNone

/-- A plane as its region holds it. -/
def Mach.readPlane (m : Mach) (pa : Nat) : Plane :=
  { rows := (List.range 64).map (fun j => (j, m.bytes (pa + 256 * j) 256)),
    hdrs := (List.range 64).map (fun j => (j, m.bytes (pa + 0x4000 + 128 * j) 128)), ty := Ty.ofCode (m.le (pa + 0x6000) 4) }

/-- A witness register as its region holds it. -/
def Mach.readWitness (m : Mach) (pa : Nat) : Witness :=
  let h := fun i => m.le (pa + 1024 + i) 1
  if h 0 = 0 then Witness.cleared
  else { bytes := m.bytes pa 1024, valid := true, oper := h 1, axis := h 2, win := h 3, site := h 4, ty := h 5 }

/-- The parts of a context whose places R181 lays down, as they stand in memory: stream registers, planes, tiles, witness
registers, masks and local memory. -/
def Mach.readContext (m : Mach) (pa : Nat) (k : Bank) : Bank :=
  let elem := fun (n i : Nat) (e : QElem) => { e with val := word (m.le (pa + 0x6000 + 512 * n + 8 * i) 8) }
  let v := k.vec
  { k with
    q := tmap (fun n es => (List.range es.length).zipWith (elem n) es) k.q,
    mat := { k.mat with stationary := m.readPlane (pa + 0x20000), shadow := m.readPlane (pa + 0x28000) },
    vec := { v with
      tiles := (List.range 32).map (fun t =>
        (t, (List.range 1024).map (fun i => BitVec.ofNat 32 (m.le (pa + 0x30000 + 4096 * t + 4 * i) 4)))),
      wit := (List.range 8).map (fun n => (n, m.readWitness (pa + 0x50000 + 1040 * n))),
      masks := (List.range 8).map (fun n => (n, m.bytes (pa + 0x52080 + 1024 * n) 1024)),
      lmem := (List.range 4096).map (fun r => (r, m.bytes (pa + 0x100000 + 256 * r) 256)) } }

end Sys2Proof.Machine
end

