-- ==== Sys2Proof/Machine/Life.lean ====
section
/-! DEFINITION. Life: the overlay load (R22 to R24, R40, R114), the start of a gang (R16, R37, R38, R41), retirement (R49,
R174), the gate (R140), completion (R51) and publication (R138, R164). -/

namespace Sys2Proof.Machine

/-! ## Overlay load -/

/-- A segment record (R23): KIND, INDEX, SIZE, OFFSET. -/
structure Seg where
  kind : Nat
  index : Nat
  size : Nat
  offset : Nat
  deriving Repr

/-- The segment records of an image, from their bytes (R23). -/
def segsOf (bs : List Byte) : List Seg :=
  (List.range (bs.length / 16)).map (fun i =>
    let v := leNat ((bs.drop (16 * i)).take 16)
    { kind := fld v 0 8, index := fld v 8 8, size := fld v 32 32, offset := fld v 64 64 })

/-- A trail descriptor (R24). -/
def trailDesc (bs : List Byte) : TrailDesc :=
  let v := leNat bs
  { dir := fld v 0 8, rowlen := fld v 32 32, stride := sext 64 (fld v 64 64), ring := fld v 128 32, ringrows := fld v 160 16,
    depth := fld v 176 16 }

/-- The descriptors of a trail table. -/
def trailDescs (bs : List Byte) : List TrailDesc := (List.range (bs.length / 32)).map (fun i => trailDesc ((bs.drop (32 * i)).take 32))

/-- The words of a segment's bytes. -/
def wordsOf (bs : List Byte) : List Word := (List.range (bs.length / 8)).map (fun i => word (leNat ((bs.drop (8 * i)).take 8)))

/-- What loading a segment comes to. -/
inductive LoadRes where
  | wait
  | err (va : Nat) (e : TransErr)
  /-- The bytes, and the offsets of poisoned sectors' bytes with their physical address. -/
  | ok (bs : List Byte) (poison : List (Nat × Nat))

/-- Copying a run of an image's bytes through Translate(va, EXEC) (R40): a sector that cannot be read is marked. -/
def Mach.loadGo (b : Nat) : Nat → Mach → Nat → Nat → Nat → Mach × LoadRes
  | 0, m, _, _, _ => (m, .ok [] [])
  | fuel + 1, m, va, off, n =>
    if n = 0 then (m, .ok [] [])
    else
      let k := Nat.min n (32 - va % 32)
      match m.xlate b false va .exec with
      | (m1, .error .held) => (m1, .wait)
      | (m1, .error e) => (m1, .err va e)
      | (m1, .ok x) =>
        if isPeer x.pa then (m1, .err va .prot)
        else if m1.readHeld ((m1.bank b).by b) x.ca x.pa k then (m1, .wait)
        else
          let r := m1.readPhys ((m1.bank b).by b) x.ca x.pa k
          match Mach.loadGo b fuel r.1 (va + k) (off + k) (n - k) with
          | (m2, .ok bs ps) =>
            (m2, .ok (r.2 ++ bs) (match (if isHbm x.pa then m1.poisoned x.pa k else none) with
              | some sec => (off, sec * 32) :: ps
              | none => ps))
          | r => r

/-- Poison marks of a stream's words: every word of a poisoned sector. -/
def poisonMarks (ps : List (Nat × Nat)) : Table Nat :=
  ps.foldl (fun t p => (List.range 4).foldl (fun t i => tput t (p.1 / 8 + i) p.2) t) []

/-- The words of a kernel segment's body that its header counts, HALT included (R24). -/
def kernelOf (bs : List Byte) : Kernel :=
  { hdr := bs.take 16, words := (wordsOf (bs.drop 16)).take ((bs.getD 3 0).toNat) }

/-- The word of an unconditional HALT. -/
def haltWord : Word :=
  (encodeWord (.halt { h := { idle := 0, pred := 0, pneg := false }, dst := 0, sa := 0, sb := 0, fn := 0, imm := 0 })).getD 0

/-- A stream without a segment is a single HALT (R17). -/
def Bank.fillStreams (k : Bank) (segs : List Seg) : Bank :=
  k.mapSeqs (fun q s => if segs.any (fun g => g.kind == q.idx) then s else { s with code := [haltWord], poison := [] })

/-- A loaded segment enters the bank's half of instruction memory. -/
def Bank.place (k : Bank) (g : Seg) (bs : List Byte) (ps : List (Nat × Nat)) : Bank :=
  if g.kind < 4 then
    let q := Seq.ofIdx g.kind
    k.setSeq q { k.seq q with code := wordsOf bs, poison := poisonMarks ps }
  else { k with kernels := tput k.kernels g.index (kernelOf bs) }

/-- Copying a run of an image's bytes that are no words: uncorrectable data ends the load (R175; log 50). -/
def Mach.loadRun (m : Mach) (b va n : Nat) : Mach × LoadRes :=
  match Mach.loadGo b (n + 1) m va 0 n with
  | (m1, .ok _ ((_, pa) :: _)) => (m1, .err va (.eccu pa))
  | r => r

/-- The segment records of an image at an address (R22, R23). -/
def Mach.loadRecords (m : Mach) (b va : Nat) : Mach × LoadRes :=
  match m.loadRun b va 64 with
  | (m1, .ok hdr _) => m1.loadRun b (va + 64) (16 * leNat ((hdr.drop 6).take 2))
  | r => r

/-- Loading the stream and kernel segments of an image one after another, and its trail table (R40, R262). -/
def Mach.loadSegs (b va : Nat) : List Seg → Mach → Mach × LoadRes
  | [], m => (m, .ok [] [])
  | g :: gs, m =>
    if g.kind = 6 then
      match m.loadRun b (va + g.offset) g.size with
      | (m1, .ok bs _) => Mach.loadSegs b va gs (m1.modBank b (fun k => { k with descs := trailDescs bs }))
      | r => r
    else if 4 < g.kind then Mach.loadSegs b va gs m
    else
      match Mach.loadGo b (g.size + 1) m (va + g.offset) 0 g.size with
      | (m1, .ok bs ps) => Mach.loadSegs b va gs (m1.modBank b (fun k => k.place g bs ps))
      | r => r

/-- Loading an image: its records, then what they name (R40). -/
def Mach.loadImage (m : Mach) (b va : Nat) : Mach × LoadRes :=
  match m.loadRecords b va with
  | (m1, .ok bs _) => Mach.loadSegs b va (segsOf bs) (m1.modBank b (fun k => k.fillStreams (segsOf bs)))
  | r => r

/-- A page fault of the overlay load (R40, R176). -/
def Mach.loadFault (m : Mach) (b va : Nat) (e : TransErr) : Mach :=
  let k := m.bank b
  (m.addRecord k.part
    { FaultRec.plain Cause.page.code 5 va (match k.task with | some t => t.gangId | none => 0) with
      access := 3, flags := 1 + e.flags, core := coreId b, taskId := k.taskId, bank := some b }).modBank b (fun k => { k with why := .answer })

/-- The check with which a restore begins (R182): none of the host's lines in the way (R342), and MAGIC, VERSION and DIGEST. -/
def Mach.restoreCheck (m : Mach) (b : Nat) : Option Bool :=
  match (m.bank b).savePa with
  | none => some true
  | some key => if m.hostHolds (key % 2 ^ 52) saveBytes then none else some (m.areaOk (key % 2 ^ 52))

/-- An area that does not match retires the task with ECCU, with the PA of the header (R182; SRC 5: log 36). -/
def Mach.badArea (m : Mach) (b : Nat) : Mach :=
  match (m.bank b).savePa with
  | none => m
  | some key => (m.dropRestore b).failTask b .eccu 5 0 2 0 0 (key % 2 ^ 52)

/-- The overlay load of a bank (R40, R114), of a restore once its area is checked (R182): a load that stops at a page starts
again from the image once it is answered. -/
def Mach.overlayLoad (m : Mach) (b : Nat) : Mach :=
  let k := m.bank b
  if k.status != .loading || k.why == .answer || m.restoreCheck b == none then m
  else if m.restoreCheck b == some false then m.badArea b
  else
    match k.task.bind (fun t => tfind (m.dev.part t.part).images t.image) with
    | none => m
    | some img =>
      match m.loadImage b img.va with
      | (_, .wait) => m
      | (m1, .err va (.page mg mf)) => { m with dev := { m.dev with cores := m1.dev.cores } }.loadFault b va (.page mg mf)
      | (_, .err va e) => m.failTask b e.cause 5 3 (2 + e.flags) 0 va e.pa
      | (m1, .ok _ _) => m1.modBank b (fun k => { k with status := .loaded })

/-- OVERLAY_LOAD (R40). -/
def execOverlayLoad (bank : Nat) (s : State) : Host.Outcome State Fault Refusal := commit s ((Mach.of s).overlayLoad bank)

/-! ## Start -/

/-- A member may start: it is bound and loaded, or was retired before its start (R38; log 19). -/
def Mach.memberLoaded (m : Mach) (t : Member) : Bool :=
  match t.loc with
  | .bound b => (m.bank b).status == .loaded && (m.bank b).savePa.isNone
  | .retired => true
  | _ => false

/-- The values with which a sequencer starts (R16, R41). -/
def SeqState.begin (s : SeqState) (argbase data : Word) (clk : Nat) : SeqState :=
  { SeqState.start s.released with
    code := s.code, poison := s.poison, g := tput (tput [] 1 argbase) 2 data, prevClk := clk }

/-- A member's bank starts: K from its first word; a handler's first word waits for the close of its trigger (R38, R41,
R158). -/
def Mach.startBank (m : Mach) (b : Nat) : Mach :=
  let k := m.bank b
  match k.task with
  | none => m
  | some t =>
    let data := word (match tfind (m.dev.part t.part).images t.image with | some i => i.dataVa | none => 0)
    let arg := k.mbox.extractLsb' 0 64
    let r := (m.modCore (coreOf b) (fun c => { c with l1 := [] })).nextOrd
    (r.2.modBank b (fun k =>
      { k.mapSeqs (fun _ s => s.begin arg data k.clk) with status := .ready, why := .none, readyAt := r.1 })).modSeq b .K
      (fun s => { s with released := !t.trig })

/-- The start of a gang, once every member is bound and loaded (R37, R38). -/
def Mach.taskStart (m : Mach) (gk : Nat) : Mach :=
  match tfind m.dev.gangs gk with
  | none => m
  | some g =>
    if g.stage != .bound || !(g.members.all (fun t => m.memberLoaded t.2)) then m
    else
      let m1 := m.modGang gk (fun g => { g with stage := .running })
      let m2 := g.boundAt.foldl (fun m x => m.startBank x.2) m1
      g.boundAt.foldl (fun m x => m.switchIn x.2) m2

/-- TASK_START (R38). -/
def execTaskStart (gang : Nat) (s : State) : Host.Outcome State Fault Refusal := commit s ((Mach.of s).taskStart gang)

/-! ## Retirement -/

/-- Every sequencer has halted, or counts as halted (R42, R48, R49). -/
def Bank.allHalted (k : Bank) : Bool :=
  k.k.halted && (!k.l.released || k.l.halted) && (!k.x.released || k.x.halted) && (!k.d.released || k.d.halted)

/-- No copy or trail command is queued, and no row is being written (R49). -/
def Bank.enginesIdle (k : Bank) : Bool :=
  k.copyq.all (fun q => q.2.cmds.isEmpty) && k.trails.all (fun t => t.2.gens.all (fun g => g.cmds.isEmpty &&
    g.rows.all (fun r => r.2 != .writing)))

/-- What a task wrote to host memory and what its records say is performed at `.sys` (R49, R88, R340): it has no dirty line, and
no record of its own waits for a slot. -/
def Mach.allWritten (m : Mach) (k : Bank) : Bool :=
  match k.task with
  | none => true
  | some t =>
    !((m.dev.dirtyLines (some t.part)).any (fun l => l.2.writers.any (fun w => w.task == t.key))) &&
      !((m.dev.part t.part).logWait.any (fun r => leNat ((r.2.drop 20).take 4) == fld k.mbox.toNat 96 32))

/-- Accesses of the bank's sequencers that are queued. -/
def Bank.anyAcc (k : Bank) : Bool := !(k.k.accesses.isEmpty && k.l.accesses.isEmpty && k.x.accesses.isEmpty && k.d.accesses.isEmpty)

/-- The conditions of R49. -/
def Mach.mayRetire (m : Mach) (b : Nat) : Bool :=
  let k := m.bank b
  (k.status == .running || k.status == .ready) && k.allHalted && k.mat.queue.isEmpty && k.enginesIdle && k.ldc == 0 && k.stc == 0 &&
    k.cpc == 0 && k.toc == 0 && !k.anyAcc && m.allWritten k

/-- A retirement by a fault has nothing left that must be performed (R174): its accesses and matrix entries are done, each command
has stopped at a sector boundary, and the rows that had begun are performed (R171). -/
def Mach.faultDrained (m : Mach) (b : Nat) : Bool :=
  let k := m.bank b
  k.status == .retiring && !k.anyAcc && k.mat.queue.isEmpty && k.copyq.all (fun q => q.2.settled) &&
    k.trails.all (fun t => t.2.settled) && m.allWritten k

/-- The record of the bank's retirement by a fault has been written (R174), or lost to a full ring. -/
def Mach.retireRecorded (m : Mach) (b : Nat) : Bool :=
  let k := m.bank b
  (m.dev.part k.part).records.all (fun r => !(bitOf r.flags 1 && r.taskId == k.taskId))

/-- The bank becomes empty, the task raises its halt line, and what was kept for it is dropped (R49, R137, R167). -/
def Mach.leaveBank (m : Mach) (b : Nat) : Mach :=
  let k := m.bank b
  match k.task with
  | none => m
  | some t =>
    let m1 := ((m.dropTaskTlb t.part t.taskId).dropParks b).setBank b Bank.empty
    let m2 := m1.modPart t.part (fun p =>
      { p with relinq := p.relinq.filter (fun x => x != b), deferred := p.deferred.filter (fun x => x.1.taskId != t.taskId) })
    (m2.bankEmptied b).memberGone (gangKey t.part t.gangId) t.rank k.failed

/-- TASK_RETIRE (R49, R174): a task that has met R49's conditions, or whose retirement by a fault is done. -/
def execTaskRetire (bank : Nat) (s : State) : Host.Outcome State Fault Refusal :=
  let m := Mach.of s
  commit s (if m.mayRetire bank || (m.faultDrained bank && m.retireRecorded bank) then m.leaveBank bank else m)

/-! ## Gate and completion -/

/-- The gate is decided (R140): STATUS and CAUSE of the completion word are kept. -/
def Mach.decideGate (m : Mach) (gk : Nat) (g : Gang) (status cause : Nat) : Mach :=
  ((m.decideVersions gk (status == 1)).modGang gk (fun g => { g with stage := .decided, gateStatus := status, gateCause := cause })).tidyGang g

/-- The outcome that a non-zero gate word gives (R140). -/
def Mach.gateValue (m : Mach) (gk : Nat) (g : Gang) (v : Nat) : Mach :=
  match v with
  | 1 => m.decideGate gk g 1 0
  | 2 => m.decideGate gk g 2 0
  | v => (m.addRecord g.part { FaultRec.plain Cause.gate.code 6 0 g.gid with detail := v }).decideGate gk g 2 0

/-- The gate word is read once the last member has retired (R140, R378). A value that a later store has replaced was read
first. -/
def Mach.gateRead (m : Mach) (gk : Nat) : Mach :=
  match tfind m.dev.gangs gk with
  | none => m
  | some g =>
    if g.stage != .retired || !g.gated || g.firstFailed.isSome || m.mapsHeld g.part then m
    else
      match g.gateLatch with
      | some v => m.gateValue gk g v
      | none =>
        let r := m.ownRead g.part g.gate 8
        match r.2 with
        | .wait => m
        | .err va e =>
          if m.pageWaits g.part va e then m.askRanger g.part g.die va 0 g.gid e.flags
          else
            (r.1.addRecord g.part { FaultRec.plain e.cause.code 6 g.gate g.gid with flags := e.flags, pa := e.pa }).decideGate gk g 3
              e.cause.code
        | .ok bs => if leNat bs = 0 then r.1 else r.1.gateValue gk g (leNat bs)

/-- GATE_READ (R140). -/
def execGateRead (gang : Nat) (s : State) : Host.Outcome State Fault Refusal := commit s ((Mach.of s).gateRead gang)

/-- STATUS, CAUSE and RANK of a gang that has retired; `none` while its gate is undecided (R51). -/
def Gang.outcome (g : Gang) : Option (Nat × Nat × Nat) :=
  match g.firstFailed with
  | some (rank, c) => if g.stage = .retired ∨ g.stage = .decided then some (3, c.code, rank) else none
  | none =>
    if g.gated then (if g.stage = .decided then some (g.gateStatus, g.gateCause, 0) else none)
    else if g.stage = .retired then some (1, 0, 0) else none

/-- The gang's completion (R51): the completion word, the vector, a graph node's arrivals, and the dependence entry is freed
(R132, R142). -/
def Mach.gangCompletion (m : Mach) (gk : Nat) : Mach :=
  match tfind m.dev.gangs gk with
  | none => m
  | some g =>
    match g.outcome with
    | none => m
    | some (status, cause, rank) =>
      match m.writeDone g.part g.doneVa (doneWord status cause rank g.tag) g.gid (if g.irq then some g.vec else none) with
      | none => m.askDone g.part g.die g.doneVa g.gid
      | some m1 =>
        let m2 := m1.nodeDone g.node (status == 3)
        { m2 with dev := { m2.dev with gangs := tdel m2.dev.gangs gk } }

/-- GANG_COMPLETION (R51). -/
def execGangCompletion (gang : Nat) (s : State) : Host.Outcome State Fault Refusal := commit s ((Mach.of s).gangCompletion gang)

/-! ## Publication -/

/-- The next version to be published: the oldest one after the published version that is not discarded (R138). -/
def Plot.nextToPublish (p : Plot) : Option Nat :=
  ((List.range p.versions.length).find? (fun i => decide (p.published < i) && p.stateOf i != .discarded)).bind (fun i =>
    if p.stateOf i = .final then some i else none)

/-- The watches of a plot follow its published version, and one write is counted where their bytes differ (R164). -/
def Mach.publishWatches (m : Mach) (old new : Nat) : Mach :=
  (m.dev.watchesIn old plotBytes).foldl (fun m w =>
    let base := w.pbase * 32 - old
    let ch := (List.range (2 ^ (w.size + 5))).find? (fun i => m.byte (old + base + i) != m.byte (new + base + i))
    let m1 := m.moveWatch w (w.pbase - old / 32 + new / 32)
    match ch with
    | some a => if w.arm && !(bitOf (m.dev.part w.part).pcaptRun.toNat 1) then m1.forward w.leadh a 1 else m1
    | none => m1) m

/-- Parked WAITAs whose word stands in a run of physical bytes follow it to a new frame; a word that differs there wakes its
WAITA (R166; log 29). -/
def Mach.moveParks (m : Mach) (old size new : Nat) (who : Bank → Waita → Bool) : Mach :=
  m.dev.banks.foldl (fun m e =>
    match e.2.k.waita with
    | none => m
    | some w =>
      if w.pa < old || decide (old + size ≤ w.pa) || !(who e.2 w) then m
      else
        let w1 : Waita := { w with pa := w.pa - old + new }
        let m1 := m.modSlice w.slice (fun s => match tfind s.parks w.slot with
          | some p => if p.bank = e.1 then { s with parks := tdel s.parks w.slot } else s
          | none => s)
        if w.outcome.isSome then m1.modSeq e.1 .K (fun t => { t with waita := some w1 })
        else if m.bytes w.pa w.n != m.bytes w1.pa w.n then
          m1.modSeq e.1 .K (fun t => { t with waita := some { w1 with outcome := some 1 } })
        else m1.park e.1 (m1.dev.home w1.pa (some e.2.part)) w1) m

/-- A final version is published: its frame is written into the leaf, and TINV covers the plot (R138). Accesses translated before
are performed at the old frame, which is not freed before they are. -/
def Mach.publish (m : Mach) (key : Nat) : Mach :=
  let p := m.dev.plot key
  let part := plotPart key
  let va := plotVa key
  match p.nextToPublish, m.rawLeaf part va with
  | some i, some (_, e) =>
    let old := m.leafPlot key
    let f := ((p.versions[i]?).map (fun v => v.frame)).getD 0
    if fld e 8 4 != 1 || bitOf e 7 || m.leavesHeld (m.leavesOf part va) || m.hostHolds old plotBytes || m.hostHolds f plotBytes then m
    else
      let m1 := (m.leavesOf part va).foldl (fun m ea => m.writeLeaf ea (setFrame (m.tableEntry part ea) f)) m
      let m2 := m1.setPlot key { (p.modify p.published (fun v => { v with frame := old })) with published := i }
      let m3 := (m2.shootdown part false va plotBytes).publishWatches old f
      let m4 := m3.moveParks old plotBytes f (fun k w => k.part == part && (m3.dev.viewOf k.gang part w.va).isNone)
      m4.tidyPlot key
  | _, _ => if (tfind m.dev.plots key).isSome then m.tidyPlot key else m

/-- VERSION_PUBLICATION (R138). -/
def execVersionPublication (part plot : Nat) (s : State) : Host.Outcome State Fault Refusal :=
  commit s ((Mach.of s).publish (part * 2 ^ 42 + plot % 2 ^ 42))

end Sys2Proof.Machine
end

