-- ==== Sys2Proof/Machine/Graphs.lean ====
section
/-! DEFINITION. Graphs: resident task graphs (R141, R142). -/

namespace Sys2Proof.Machine

/-! ## Acceptance -/

/-- A graph header (R141). -/
structure GHeader where
  nnode : Nat
  nsucc : Nat
  nodes : Nat
  succs : Nat
  doneVa : Nat
  deriving Repr

/-- The fields of a header's 32 bytes. -/
def gheader (bs : List Byte) : GHeader :=
  let v := leNat bs
  { nnode := fld v 0 32, nsucc := fld v 32 32, nodes := fld v 64 64, succs := fld v 128 64, doneVa := fld v 192 64 }

/-- A node of 32 bytes, and whether its reserved bytes are 0 (R141). -/
def gnode (bs : List Byte) : GNode × Bool :=
  let v := leNat bs
  ({ kind := fld v 0 8, npred := fld v 8 8, s0 := fld v 16 16, n0 := fld v 32 8, n1 := fld v 40 8, s1 := fld v 48 16,
     addr := fld v 64 64, bfirst := fld v 128 16, blast := fld v 144 16 }, fld v 160 96 == 0)

/-- A node that R141 refuses in a graph of `n` nodes with this successor array. -/
def GNode.bad (x : GNode) (n : Nat) (succs : List Nat) : Bool :=
  let out := fun (s k : Nat) => decide (0 < k) && (decide (succs.length < s + k) || ((succs.drop s).take k).any (fun i => decide (n ≤ i)))
  x.kind == 0 || decide (5 < x.kind) || out x.s0 x.n0 || out x.s1 x.n1 ||
    ((x.kind == 1 || x.kind == 5) && x.n1 != 0) || (x.kind == 5 && x.addr != 0) ||
    (x.kind == 4 && (x.n0 == 0 || decide (16 < x.n0) || x.n1 != 0)) ||
    (if x.kind = 3 then x.npred != 1 || decide (x.blast < x.bfirst) || decide (n ≤ x.blast) else x.bfirst != 0 || x.blast != 0)

/-- A graph as accepted: nodes with NPRED 0 are ready, from order number `ord` on (R142). -/
def newGraph (ord : Nat) (sub : Submission) (h : GHeader) (nodes : List GNode) (succs : List Nat) : Graph :=
  let g0 : Graph :=
    { die := sub.die, part := sub.part, prov := sub.prov, nodes := nodes, succs := succs, doneVa := h.doneVa,
      tag := (sub.graph.getD (0, 0)).1, vec := (sub.graph.getD (0, 0)).2, st := [], nextReady := ord, faulted := false }
  (List.range nodes.length).foldl (fun g i =>
    if (g.node i).npred = 0 then
      { g with st := tput g.st i { NodeSt.start with loc := .ready, ord := g.nextReady }, nextReady := g.nextReady + 1 } else g) g0

/-- Reading a graph: its header, and the graph where nothing refuses it (R141). -/
def Mach.readGraph (m : Mach) (sub : Submission) : Mach × Option GHeader × SubRead Graph :=
  let no := SubRead.refuse (α := Graph) { cause := .illegal, va := sub.addr, flags := 0, pa := 0 }
  if sub.addr % 32 != 0 then (m, none, no)
  else
    let r := m.ownRead sub.part sub.addr 32
    match r.2.sub (fun bs => .ok (gheader bs)) (some sub.addr) with
    | .wait => (r.1, none, .wait)
    | .page va e => (r.1, none, .page va e)
    | .refuse e => (r.1, none, .refuse e)
    | .ok h =>
      if h.nnode = 0 ∨ 4096 < h.nnode ∨ 65535 < h.nsucc then (r.1, some h, no)
      else
        let a := r.1.ownRead sub.part h.nodes (32 * h.nnode)
        let b := a.1.ownRead sub.part h.succs (2 * h.nsucc)
        match a.2.sub (fun bs => .ok bs) (some sub.addr), b.2.sub (fun bs => .ok bs) (some sub.addr) with
        | .ok ns, .ok ss =>
          let nodes := (List.range h.nnode).map (fun i => gnode ((ns.drop (32 * i)).take 32))
          let succs := (List.range h.nsucc).map (fun i => leNat ((ss.drop (2 * i)).take 2))
          if nodes.any (fun x => !x.2 || x.1.bad h.nnode succs) then (b.1, some h, no)
          else (b.1, some h, .ok (newGraph m.dev.nextOrd sub h (nodes.map (fun x => x.1)) succs))
        | .wait, _ => (m, some h, .wait)
        | _, .wait => (m, some h, .wait)
        | .page va e, _ => (b.1, some h, .page va e)
        | _, .page va e => (b.1, some h, .page va e)
        | .refuse e, _ => (b.1, some h, .refuse e)
        | _, .refuse e => (b.1, some h, .refuse e)

/-- A vector of a graph's completion (R348). -/
def graphVec (v : Nat) : Option Nat := if v = 0 then none else some v

/-- A refused graph (R132, R141). -/
def Mach.refuseGraph (m : Mach) (sub : Submission) (h : Option GHeader) (e : SubErr) : Option Mach :=
  let m1 := (m.addRecord sub.part { FaultRec.plain e.cause.code 6 e.va 0 with flags := e.flags, pa := e.pa }).dropSubmission sub
  match h with
  | none => some m1
  | some h =>
    m1.writeDone sub.part h.doneVa (doneWord 3 e.cause.code 0 (sub.graph.getD (0, 0)).1) 0 (graphVec (sub.graph.getD (0, 0)).2)

/-- The lowest free place of a walker (R141): its key. -/
def Dev.freeGraph (d : Dev) (die : Nat) : Option Nat :=
  ((List.range 16).find? (fun i => (tfind d.graphs (die * 16 + i)).isNone)).map (fun i => die * 16 + i)

/-- The walker of a die takes the first graph launch that waits for no answer (R141). -/
def Mach.graphAccept (m : Mach) (die : Nat) : Mach :=
  match (m.dev.die die).graphReqs.find? (fun x => !x.waits), m.dev.freeGraph die with
  | some sub, some key =>
    let r := m.readGraph sub
    if (m.dev.die die).stopped then
      (m.refuseGraph sub none { cause := .illegal, va := sub.addr, flags := 0, pa := 0 }).getD m
    else (match r.2.2 with
     | .wait => m
     | .page va e =>
       if sub.given then (r.1.refuseGraph sub r.2.1 { cause := .page, va := va, flags := 0, pa := 0 }).getD m
       else r.1.pageSubmission sub va e
     | .refuse e => (r.1.refuseGraph sub r.2.1 e).getD m
     | .ok g =>
       let m1 := r.1.dropSubmission sub
       { m1 with dev := { m1.dev with graphs := tput m1.dev.graphs key g, nextOrd := g.nextReady } })
  | _, _ => m

/-- GRAPH_ACCEPT (R141). -/
def execGraphAccept (die : Nat) (s : State) : Host.Outcome State Fault Refusal := commit s ((Mach.of s).graphAccept die)

/-! ## Nodes -/

/-- A ready node of a kind (R142). -/
def Graph.readyNode (g : Graph) (i kind : Nat) : Bool :=
  decide (i < g.nodes.length) && (g.at i).loc == .ready && (g.node i).kind == kind

/-- Running what a ready node does. -/
def Mach.withNode (m : Mach) (k i kind : Nat) (f : Mach → Graph → Mach) : Mach :=
  match tfind m.dev.graphs k with
  | none => m
  | some g => if g.readyNode i kind then f m g else m

/-- Every ready TASK node of the graph became ready at an order number or after it. -/
def Graph.readySince (g : Graph) (ord : Nat) : Bool :=
  (List.range g.nodes.length).all (fun j => !(g.readyNode j 1) || decide (ord ≤ (g.at j).ord))

/-- No TASK node of a graph of the die became ready before a node of one of them (R133). -/
def Dev.firstTask (d : Dev) (g : Graph) (i : Nat) : Bool :=
  d.graphs.all (fun e => e.2.die != g.die || e.2.readySince (g.at i).ord)

/-- GRAPH_TASK_NODE: a ready TASK node is submitted, in the order in which nodes became ready (R133, R142). -/
def execGraphTaskNode (graph node : Nat) (s : State) : Host.Outcome State Fault Refusal :=
  commit s ((Mach.of s).withNode graph node 1 (fun m g =>
    if !(m.dev.firstTask g node) then m
    else
      let sub : Submission :=
        { die := g.die, part := g.part, prov := g.prov, addr := (g.node node).addr, node := some (graph, node), queue := false,
          graph := none, waits := false, given := false }
      (m.modGraph graph (fun g => g.move node .running)).modDie g.die (fun d => { d with submits := d.submits ++ [sub] })))

/-- GRAPH_JOIN_NODE (R142). -/
def execGraphJoinNode (graph node : Nat) (s : State) : Host.Outcome State Fault Refusal :=
  commit s ((Mach.of s).withNode graph node 5 (fun m _ =>
    m.modGraph graph (fun g => (g.move node .finished).arriveAll (g.list node false) true)))

/-- Reading a condition word (R142). A page that R378 would wait for is asked of Ranger and waited for; the value that a refused
read gives is free, and a record names the word (DESIGN CHOICE, log 16). -/
def Mach.condition (m : Mach) (g : Graph) (i : Nat) : Mach × Option Nat :=
  let va := (g.node i).addr
  let r := m.ownRead g.part va 8
  match r.2 with
  | .wait => (m, none)
  | .ok bs => (r.1, some (leNat bs))
  | .err at_ e =>
    if m.pageWaits g.part at_ e then (m.askRanger g.part g.die at_ 0 0 e.flags, none)
    else (m.addRecord g.part { FaultRec.plain e.cause.code 6 va 0 with flags := e.flags, pa := e.pa }, some (Config.freeNat m.dev.ticks))

/-- A node that reads its condition word once, and what follows from the value. -/
def condNode (graph node kind : Nat) (s : State) (f : Graph → Nat → Graph) : Host.Outcome State Fault Refusal :=
  commit s ((Mach.of s).withNode graph node kind (fun m g =>
    match m.condition g node with
    | (m1, none) => m1
    | (m1, some v) => m1.modGraph graph (fun g => f (g.move node .finished) v)))

/-- GRAPH_IF_NODE (R142). -/
def execGraphIfNode (graph node : Nat) (s : State) : Host.Outcome State Fault Refusal :=
  condNode graph node 2 s (fun g v => (g.arriveAll (g.list node false) (v != 0)).arriveAll (g.list node true) (v == 0))

/-- GRAPH_SWITCH_NODE (R142). -/
def execGraphSwitchNode (graph node : Nat) (s : State) : Host.Outcome State Fault Refusal :=
  condNode graph node 4 s (fun g v =>
    let l := g.list node false
    let pick := Nat.min v ((g.node node).n0 - 1)
    (List.range l.length).foldl (fun g j => g.arrive (l.getD j 0) (j == pick)) g)

/-- The arrival counts of a body and of its WHILE return to 0 (R142). -/
def Graph.again (g : Graph) (i : Nat) : Graph :=
  let n := g.node i
  let body := (List.range (n.blast + 1 - n.bfirst)).map (fun j => n.bfirst + j)
  (i :: body).foldl (fun g j =>
    let t := g.at j
    { g with st := tput g.st j { t with dones := 0, skips := 0, loc := if t.loc = .finished then .waiting else t.loc } }) g

/-- GRAPH_WHILE_NODE (R142). -/
def execGraphWhileNode (graph node : Nat) (s : State) : Host.Outcome State Fault Refusal :=
  condNode graph node 3 s (fun g v =>
    if v = 0 then g.arriveAll (g.list node true) true else (g.again node).arriveAll (g.list node false) true)

/-- GRAPH_NODE_SKIP: a skipped node sends skips to its lists, a WHILE to list 1 only (R142). -/
def execGraphNodeSkip (graph node : Nat) (s : State) : Host.Outcome State Fault Refusal :=
  let m := Mach.of s
  commit s (match tfind m.dev.graphs graph with
    | none => m
    | some g =>
      if !(decide (node < g.nodes.length) && g.skipped node) then m
      else
        m.modGraph graph (fun g =>
          let g1 := g.move node .finished
          let g2 := if (g.node node).kind = 3 then g1 else g1.arriveAll (g.list node false) false
          g2.arriveAll (g.list node true) false))

/-- The graph is complete: no node is ready, no arrival is pending, and no TASK node's gang is unretired (R142). -/
def Mach.graphOver (m : Mach) (k : Nat) (g : Graph) : Bool :=
  (List.range g.nodes.length).all (fun i => (g.at i).loc != .ready && !(g.skipped i)) &&
    !(m.dev.gangs.any (fun t => match t.2.node with | some (k', _) => k' == k | none => false)) &&
    !(m.dev.dies.any (fun d => d.2.submits.any (fun x => match x.node with | some (k', _) => k' == k | none => false)))

/-- GRAPH_COMPLETE: the graph's completion word and vector, and its place is free (R142, R348). -/
def Mach.graphComplete (m : Mach) (k : Nat) : Mach :=
  match tfind m.dev.graphs k with
  | none => m
  | some g =>
    if !(m.graphOver k g) then m
    else
      match m.writeDone g.part g.doneVa (doneWord (if g.faulted then 3 else 1) 0 0 g.tag) 0 (graphVec g.vec) with
      | none => m.askDone g.part g.die g.doneVa 0
      | some m1 => { m1 with dev := { m1.dev with graphs := tdel m1.dev.graphs k } }

/-- GRAPH_COMPLETE (R142). -/
def execGraphComplete (graph : Nat) (s : State) : Host.Outcome State Fault Refusal := commit s ((Mach.of s).graphComplete graph)

end Sys2Proof.Machine
end

