-- ==== Sys2Proof/Machine/Records.lean ====
section
/-! DEFINITION. Records: bind records (R146, R147), the save area and the restore (R181 to R183), and Ranger's quantum
(R150). -/

namespace Sys2Proof.Machine

/-! ## Saves -/

/-- The area lies in provider memory, and SAVEPA is aligned (R92, R146, R147). -/
def Dev.saveAreaOk (d : Dev) (pa : Nat) : Bool :=
  pa % 4096 == 0 && decide (pa < 2 ^ 52) && (List.range (saveBytes / 4096 + 1)).all (fun i => d.providerMem (pa + 4096 * i - b2n (i == saveBytes / 4096)))

/-- The save area that Ranger takes for a save of its own (R150): 64 MiB of host memory, which is provider memory (R92), the
first from a free place on that no saved context has (log 34). -/
def Dev.rangerArea (d : Dev) (b : Nat) : Nat :=
  let area := fun i => 3 * 2 ^ 50 + (Config.saveArea b + i) % 2 ^ 24 * saveBytes
  area (((List.range (d.pkg.saved.length + 1)).find? (fun i => !(d.pkg.saved.any (fun x => x.1 % 2 ^ 52 == area i)))).getD 0)

/-- The context has settled (R171) and can be saved: its accesses are performed, and nothing that a matrix entry or an engine
has begun is outstanding. -/
def Bank.settled (k : Bank) : Bool :=
  (k.status == .ready || k.status == .waiting || k.status == .loaded) && k.savePa.isNone && !k.anyAcc &&
    k.mat.queue.all (fun e => !e.started) && k.copyq.all (fun q => q.2.settled) &&
    k.trails.all (fun t => t.2.fault.isSome || t.2.gens.all (fun g => g.sectors.isEmpty && g.retired.isEmpty))

/-- The context as it is saved: without instruction memory and the descriptor store, and with a parked WAITA not yet issued
(R167, R181). -/
def Bank.context (k : Bank) : Bank :=
  { (k.mapSeqs (fun _ s => { s with code := [], poison := [], waita := none })) with descs := [], kernels := [], held := none }

/-- The key of a save. -/
def saveKey (pa n : Nat) : Nat := pa + n * 2 ^ 52

/-- Saving a settled bank (R147, R181): the context is written, the bank is emptied, and the task re-enters the die hamper
ahead of the other entries of its priority (R143), also where the hamper holds as many entries as it may (DESIGN CHOICE, log
101). Answers that arrived during the save take effect (R183). -/
def Mach.saveContext (m : Mach) (b pa : Nat) : Mach :=
  let k := m.bank b
  match k.task with
  | none => m
  | some t =>
    let o := m.nextOrd
    let sv : Saved := { task := t, mbox := k.mbox, bank := k.context }
    let key := saveKey pa o.1
    let gk := gangKey t.part t.gangId
    let m1 := (o.2.writePhys .device 1 5 pa (k.context.area t)).modPkg (fun p => { p with saved := tput p.saved key sv })
    let m2 := ((m1.dropTaskTlb t.part t.taskId).dropParks b).setBank b { Bank.empty with held := k.held }
    let m3 := m2.modGang gk (fun g => match tfind g.members t.rank with
      | some x => { g with members := tput g.members t.rank { x with loc := .saved key (quadOf b) } }
      | none => g)
    ((m3.bankEmptied b).enter (dieHamper (dieOf b))
      { gang := gk, saved := some t.taskId, prio := t.prio, ord := -(o.1 : Int), n := 1, part := t.part }).giveDeferred t.part t.taskId

/-- A settled bank whose area the host has given up can be saved (R171, R342). -/
def Mach.maySave (m : Mach) (b pa : Nat) : Bool := (m.bank b).settled && !(m.writeHeld pa saveBytes)

/-! ## Acting on a record -/

/-- The hamper entries of a die. -/
def Dev.entriesOn (d : Dev) (die : Nat) : List (Nat × HampEnt) :=
  let keys := dieHamper die :: ((List.range 16).map (fun q => quadHamper (16 * die + q)) ++
    (List.range 64).map (fun c => coreHamper (64 * die + c)))
  keys.flatMap (fun h => (d.hamper h).map (fun e => (h, e)))

/-- The member of an entry that has a TASKID and is bound nowhere: its rank. -/
def Mach.entryMember (m : Mach) (e : HampEnt) (taskId : Nat) : Option Nat :=
  match m.dev.gangOf e with
  | none => none
  | some g =>
    match e.saved with
    | some t => if t = taskId then (g.members.find? (fun x => x.2.taskId == taskId)).map (fun x => x.1) else none
    | none => (g.members.find? (fun x => x.2.taskId == taskId && x.2.loc == .hamper)).map (fun x => x.1)

/-- The entry that a BIND record names (R147): the hamper, the entry and the rank. -/
def Mach.bindTarget (m : Mach) (die part taskId : Nat) : Option (Nat × HampEnt × Nat) :=
  (m.dev.entriesOn die).findSome? (fun x =>
    if x.2.part = part then (m.entryMember x.2 taskId).map (fun r => (x.1, x.2, r)) else none)

/-- Binding a named member; the gang keeps its entry until every member is bound (R147). -/
def Mach.bindNamed (m : Mach) (b h : Nat) (e : HampEnt) (rank : Nat) : Mach :=
  match e.saved with
  | some t => (m.takeOut h e).bindSaved e.gang t b
  | none =>
    let m1 := (m.unhold e.gang).bindMember e.gang rank b
    match tfind m1.dev.gangs e.gang with
    | some g => if g.unbound.isEmpty then m1.takeOut h e else m1
    | none => m1

/-- BIND on a bank (R147): STAT, and the machine after it. While the bank is not empty the record is pending, and the refusals are
tested once it is empty (DESIGN CHOICE, log 100). -/
def Mach.actBind (m : Mach) (b : Nat) (r : BindRec) : Mach × Nat :=
  if (m.bank b).status != .empty then (m, 0)
  else
    match m.bindTarget (dieOf b) r.part r.task with
    | none => (m, 2)
    | some (h, e, rank) =>
      match m.dev.gangOf e with
      | none => (m, 2)
      | some g =>
        if !(m.dev.mayUse r.part (quadOf b) (some e.gang)) || !(g.placeOk rank b) ||
            (g.trig && !((m.dev.handlerQuads g.part g.die g.qmask).contains (quadOf b % 16))) then (m, 2)
        else if e.saved.isSome && !(m.savedOk g e.gang r.task b) then (m, 0)
        else if e.saved.isNone && m.inputsHeld g then (m, 0)
        else (m.bindNamed b h e rank, 1)

/-- SAVE on a bank (R147, R183). -/
def Mach.actSave (m : Mach) (b : Nat) (r : BindRec) : Mach × Nat :=
  if !(m.dev.saveAreaOk r.savePa) then (m, 2)
  else if (m.bank b).status = .empty then (m, 1)
  else
    let m1 := m.preempt b
    if m1.maySave b r.savePa then (m1.saveContext b r.savePa, 1) else (m1, 0)

/-- The device acts on a pending record (R146, R147). -/
def Mach.actRecord (m : Mach) (b : Nat) : Mach :=
  match m.dev.slotOf b with
  | none => m
  | some r =>
    if r.stat != 0 then m
    else
      let empty := (m.bank b).status == .empty
      let x := match r.op with
        | 0 => (m, 0)
        | 1 => m.actBind b r
        | 2 => (m.preempt b, b2n (((m.preempt b).bank b).status != BankStatus.running))
        | 3 => (m, 1)
        | 4 => (m, b2n empty)
        | 5 => m.actSave b r
        | _ => (m, 2)
      x.1.setSlot b { r with stat := x.2 }

/-- A write of a record (R146): it replaces the previous one, and the device acts on it. A bank that was held for a gang is
held no longer, and a SAVE that is replaced holds back no answer any more (R183). -/
def Mach.writeRecord (m : Mach) (b : Nat) (v : Nat) : Mach :=
  let op := fld v 0 4
  let r : BindRec := { op := op, stat := 0, part := fld v 8 4, task := fld v 32 32, savePa := fld v 64 64 }
  let bad := decide (5 < op) || fld v 12 20 != 0 || fld v 116 12 != 0
  let m1 := if op = 0 || bad then m else m.modBank b (fun k => { k with held := none })
  let m2 := m1.setSlot b { r with stat := if bad then 2 else 0 }
  let m3 := if op = 5 && !bad then m2 else m2.giveDeferred (m2.bank b).part (m2.bank b).taskId
  if bad then m3 else m3.actRecord b

/-- A record with its OP field set. -/
def withOp (record : BitVec 128) (op : Nat) : Nat := record.toNat / 16 * 16 + op

/-- NONE (R146): OP 0, or a reserved OP, which is refused. -/
def execRecNone (bank : Nat) (record : BitVec 128) (s : State) : Host.Outcome State Fault Refusal :=
  commit s ((Mach.of s).writeRecord bank (if 6 ≤ record.toNat % 16 then record.toNat else withOp record 0))

/-- BIND (R147). -/
def execBind (bank : Nat) (record : BitVec 128) (s : State) : Host.Outcome State Fault Refusal :=
  commit s ((Mach.of s).writeRecord bank (withOp record 1))

/-- PREEMPT (R147). -/
def execPreempt (bank : Nat) (record : BitVec 128) (s : State) : Host.Outcome State Fault Refusal :=
  commit s ((Mach.of s).writeRecord bank (withOp record 2))

/-- RESERVE (R147). -/
def execReserve (bank : Nat) (record : BitVec 128) (s : State) : Host.Outcome State Fault Refusal :=
  commit s ((Mach.of s).writeRecord bank (withOp record 3))

/-- DRAIN (R147). -/
def execDrain (bank : Nat) (record : BitVec 128) (s : State) : Host.Outcome State Fault Refusal :=
  commit s ((Mach.of s).writeRecord bank (withOp record 4))

/-- SAVE (R147, R181). -/
def execSave (bank : Nat) (record : BitVec 128) (s : State) : Host.Outcome State Fault Refusal :=
  commit s ((Mach.of s).writeRecord bank (withOp record 5))

/-! ## Restore -/

/-- The context loaded over a bank whose overlay load is done (R182): instruction memory and the descriptor store are the
reloaded ones. -/
def Bank.restored (k : Bank) (sv : Saved) (ord : Nat) : Bank :=
  { (sv.bank.mapSeqs (fun q s => { s with code := (k.seq q).code, poison := (k.seq q).poison })) with
    task := some sv.task, mbox := sv.mbox, descs := k.descs, kernels := k.kernels, dispatched := k.dispatched, held := none,
    savePa := none, readyAt := ord, yielding := false,
    status := if sv.bank.status = .loaded then .loaded else .ready, why := .none }

/-- RESTORE (R182): once the overlay load is done, every other part of the context is loaded and the bank is ready. -/
def Mach.restore (m : Mach) (b : Nat) : Mach :=
  let k := m.bank b
  match k.savePa.bind (fun key => (tfind m.dev.pkg.saved key).map (fun sv => (key, sv))) with
  | none => m
  | some (key, sv) =>
    let pa := key % 2 ^ 52
    if k.status != .loaded || m.hostHolds pa saveBytes then m
    else
      let o := (m.modPkg (fun p => { p with saved := tdel p.saved key })).nextOrd
      (o.2.modCore (coreOf b) (fun c => { c with l1 := [] })).modBank b (fun k => m.readContext pa (k.restored sv o.1))

/-- RESTORE (R182). -/
def execRestore (bank : Nat) (s : State) : Host.Outcome State Fault Refusal := commit s ((Mach.of s).restore bank)

/-! ## Ranger's quantum (R150) -/

/-- Ranger writes a bind record: it acts on banks through these alone (R148). -/
def Mach.rangerRecord (m : Mach) (b op part task savePa : Nat) : Mach :=
  m.writeRecord b (op + part % 16 * 2 ^ 8 + task % 2 ^ 32 * 2 ^ 32 + savePa % 2 ^ 52 * 2 ^ 64)

/-- The running banks of a die on which Ranger looks for a task to pre-empt: for a single head those of the partition's own
quads, for a gang those that run a task of the partition (R150). -/
def Dev.runningOn (d : Dev) (part die : Nat) (gang : Bool) : List Nat :=
  ((List.range 128).map (fun i => 128 * die + i)).filter (fun b =>
    let k := tget Bank.empty d.banks b
    k.status == .running && k.task.isSome && (if gang then k.part == part else d.quadOwner (quadOf b) == some part))

/-- A task is to be pre-empted before another: lower priority, or the same and dispatched later. -/
def Mach.victimBefore (m : Mach) (a b : Nat) : Bool :=
  let x := m.bank a
  let y := m.bank b
  decide (x.prio < y.prio) || (x.prio == y.prio && decide (y.dispatched < x.dispatched))

/-- Inserting a bank in the order of pre-emption. -/
def Mach.insertVictim (m : Mach) (b : Nat) : List Nat → List Nat
  | [] => [b]
  | x :: xs => if m.victimBefore b x then b :: x :: xs else x :: Mach.insertVictim m b xs

/-- Banks in the order of pre-emption. -/
def Mach.victimOrder (m : Mach) (l : List Nat) : List Nat := l.foldr (fun b t => m.insertVictim b t) []

/-- A running bank that Ranger may pre-empt for a head: a task of lower priority, or one that asked with RELINQ (R150, R341;
log 33), with a partner to which the head may be bound. Any hamper of the die may hold the head, and a bank with a pending,
RESERVE or DRAIN record in its slot or its partner's is passed over (DESIGN CHOICE, log 103). -/
def Mach.candidate (m : Mach) (part : Nat) (e : HampEnt) (b : Nat) : Bool :=
  let relinq := (m.dev.part part).relinq.contains b
  (decide ((m.bank b).prio < e.prio) || relinq) && !(m.dev.slotBlocks b) && !(m.dev.slotBlocks (partner b)) &&
    m.dev.mayUse part (quadOf b) (some e.gang) &&
    (match m.dev.gangOf e with
     | none => false
     | some g =>
       (!g.trig || (m.dev.handlerQuads g.part g.die g.qmask).contains (quadOf b % 16)) &&
         (match e.saved with
          | some t => m.savedOk g e.gang t (partner b)
          | none => g.boundAt.isEmpty))

/-- The banks to be pre-empted for a head: one, or for a gang one on each of n cores of one quad: the quad whose lowest such
priority is least, the lowest-numbered on a tie (R150). -/
def Mach.victims (m : Mach) (part : Nat) (e : HampEnt) (die : Nat) : List Nat :=
  let all := m.victimOrder ((m.dev.runningOn part die (decide (1 < e.n))).filter (fun b => m.candidate part e b))
  if e.n ≤ 1 then all.take 1
  else
    let quads := (List.range 16).filter (fun q => decide (e.n ≤ (all.filter (fun b => quadOf b == 16 * die + q)).length))
    let least := fun q => ((all.filter (fun b => quadOf b == 16 * die + q)).head?.map (fun b => (m.bank b).prio)).getD 256
    match quads with
    | [] => []
    | q :: qs =>
      let best := qs.foldl (fun a x => if least x < least a then x else a) q
      let chosen := (all.filter (fun b => quadOf b == 16 * die + best)).take e.n
      ((m.dev.runningOn part die true)).filter (fun b => chosen.contains b)

/-- The heads of a partition on a die, in order: the first of its entries in each hamper (R150). A head of more than four members
is not placed here. -/
def Dev.partHeads (d : Dev) (part die : Nat) : List (Nat × HampEnt) :=
  let keys := dieHamper die :: ((List.range 16).map (fun q => quadHamper (16 * die + q)) ++
    (List.range 64).map (fun c => coreHamper (64 * die + c)))
  let l := keys.filterMap (fun h => ((d.hamper h).find? (fun e => e.part == part)).map (fun e => (h, e)))
  (l.filter (fun x => decide (x.2.n ≤ 4))).foldr (fun x t =>
    let a := t.takeWhile (fun y => y.2.before x.2)
    a ++ x :: t.drop a.length) []

/-- Counting pre-emptions of a partition, saturating (R149). -/
def Mach.countPreempts (m : Mach) (part n : Nat) : Mach :=
  m.modPart part (fun p => { p with preempts := Nat.min (p.preempts + n) 0xFFFF })

/-- SAVE records for the tasks that wait in the partner banks (R150). -/
def Mach.emptyPartners (m : Mach) (vs : List Nat) : Mach :=
  vs.foldl (fun m b =>
    if (m.bank (partner b)).status = .empty then m
    else m.rangerRecord (partner b) 5 (m.bank (partner b)).part 0 (m.dev.rangerArea (partner b))) m

/-- The TASKID of the member of a rank. -/
def Gang.taskOf (g : Gang) (rank : Nat) : Nat := match tfind g.members rank with | some t => t.taskId | none => 0

/-- The TASKIDs that the BIND records of a head name, by the place of their bank. -/
def Mach.headTask (m : Mach) (e : HampEnt) (i : Nat) : Nat :=
  match e.saved with
  | some t => t
  | none => match m.dev.gangOf e with
    | some g => g.taskOf i
    | none => 0

/-- PREEMPT records for the running tasks, and BIND records for the head at the partner banks, ranks in ascending order of core
(R150). -/
def Mach.placeHead (m : Mach) (part : Nat) (e : HampEnt) (vs : List Nat) : Mach :=
  let m1 := vs.foldl (fun m b => m.rangerRecord b 2 (m.bank b).part 0 0) m
  let m2 := (List.range vs.length).foldl (fun m i => m.rangerRecord (partner (vs.getD i 0)) 1 part (m.headTask e i) 0) m1
  m2.countPreempts part vs.length

/-- Priority at the end of a quantum on one die: the first head for which there is a bank to pre-empt is placed, once what
waits in the partner banks is saved. One head a die is a DESIGN CHOICE (log 103). -/
def Mach.quantumDie (m : Mach) (part die : Nat) : Mach :=
  match (m.dev.partHeads part die).find? (fun x => !(m.victims part x.2 die).isEmpty) with
  | some (_, e) =>
    let vs := m.victims part e die
    let m1 := m.emptyPartners vs
    if vs.all (fun b => (m1.bank (partner b)).status == .empty) then m1.placeHead part e vs else m1
  | none => m

/-- A task of a partition waits for a quad: in the die's hamper, the quad's, or those of its cores (R150). -/
def Dev.waitsFor (d : Dev) (part q : Nat) : Bool :=
  (dieHamper (q / 16) :: quadHamper q :: (List.range 4).map (fun c => coreHamper (4 * q + c))).any (fun h =>
    (d.hamper h).any (fun e => e.part == part))

/-- The minimum share: borrowers' tasks on a partition's lent quads are pre-empted and saved by SAVE records where a task of the
partition waits for the quad (R149, R150). One that has not settled is saved by its pending record. -/
def Mach.minimumShare (m : Mach) (part die : Nat) : Mach :=
  ((List.range 128).map (fun i => 128 * die + i)).foldl (fun m b =>
    let k := m.bank b
    if m.dev.waitsFor part (quadOf b) && m.dev.quadOwner (quadOf b) == some part && k.task.isSome && k.part != part &&
        k.status != .retiring && !(m.dev.saving b) then
      (m.rangerRecord b 5 k.part 0 (m.dev.rangerArea b)).countPreempts part 1
    else m) m

/-- RANGER_QUANTUM_END (R150). -/
def execRangerQuantumEnd (part : Nat) (s : State) : Host.Outcome State Fault Refusal :=
  commit s (((List.range 4).foldl (fun m die => (m.quantumDie part die).minimumShare part die) (Mach.of s)).modPart part
    (fun p => { p with relinq := [] }))

end Sys2Proof.Machine
end

