-- ==== Sys2Proof/Machine/Migrate.lean ====
section
/-! DEFINITION. Migrate: TINV (R108), the hot-page tracker (R110, R112), migrations (R111, R164) and resizes (R353, R355,
R356). -/

namespace Sys2Proof.Machine

/-! ## TINV -/

/-- TINV (R108): step 1 is taken at once, so that accesses issued from here on walk afresh; those issued before are performed in
their own time. How its completion is reported the spec leaves open: no word is named for it, and the model reports nothing
(DESIGN CHOICE, log 108). -/
def execTinv (part : Nat) (whole : Bool) (lo len : Nat) (s : State) : Host.Outcome State Fault Refusal :=
  commit s ((Mach.of s).shootdown part whole lo len)

/-! ## Pages -/

/-- A page of HBM that a partition's tree maps: its frame, size code, virtual bases, leaf entries and one entry's word. -/
structure Page where
  frame : Nat
  size : Nat
  vas : List Nat
  leaves : List Nat
  e : Nat
  deriving DecidableEq, Repr

/-- The HBM pages of a partition, in rising physical order; every entry that names a frame describes its page. -/
def Mach.pagesOf (m : Mach) (part : Nat) : List Page :=
  let t := (m.leavesAll part).foldl (fun (t : Table Page) l =>
    let f := leafFrame l.2.2
    if !(isHbm f) then t
    else
      let n := pageBytes (fld l.2.2 8 4)
      let va := l.1 / n * n
      match tfind t f with
      | some p => tput t f { p with leaves := p.leaves ++ [l.2.1], vas := if p.vas.contains va then p.vas else p.vas ++ [va] }
      | none => tput t f { frame := f, size := fld l.2.2 8 4, vas := [va], leaves := [l.2.1], e := l.2.2 }) []
  t.map (fun p => p.2)

/-- Step 1 of R111, with the frame taken before it is used (R113). -/
def Mach.startMigration (m : Mach) (part : Nat) (p : Page) (dst : Nat) (forResize : Bool) : Mach :=
  let m1 := m.takeFrame part dst (pageBytes p.size / 4096)
  let m2 := p.leaves.foldl (fun m ea => m.writeLeaf ea (setMigr (m.tableEntry part ea) true)) m1
  m2.modDie (hbmDie p.frame) (fun d =>
    { d with migrations := d.migrations ++
        [{ part := part, vas := p.vas, size := p.size, src := p.frame, dst := dst, leaves := p.leaves, flushed := false,
           copied := false, forResize := forResize }] })

/-- The host holds a line that the start of a page's migration touches (R342). -/
def Mach.startHeld (m : Mach) (part : Nat) (p : Page) : Bool := m.mapsHeld part || m.leavesHeld p.leaves

/-! ## The tracker -/

/-- Accesses of a die counted on a page's frames. -/
def Die.countOf (d : Die) (p : Page) (by_ : Nat) : Nat :=
  (d.counts.filter (fun c => c.1 % 4 == by_ && decide (p.frame ≤ c.1 / 4 * 4096) &&
    decide (c.1 / 4 * 4096 < p.frame + pageBytes p.size))).foldl (fun n c => n + c.2) 0

/-- The die to which a page is a candidate to move (R110). -/
def Die.hotFor (d : Die) (die : Nat) (p : Page) : Option Nat :=
  let own := d.countOf p die
  let ok := (List.range 4).filter (fun x => x != die && decide (Nat.max 1 d.hthresh ≤ d.countOf p x) && decide (4 * own ≤ d.countOf p x))
  match ok with
  | [] => none
  | x :: xs => some (xs.foldl (fun a b => if d.countOf p a < d.countOf p b then b else a) x)

/-- A plot of the page has more than one live version, or a provisional one (R110, R138). -/
def Dev.versioned (d : Dev) (part : Nat) (p : Page) : Bool :=
  p.vas.any (fun va => (d.plotsIn part va (pageBytes p.size)).any (fun t =>
    decide (1 < t.live) || t.versions.any (fun v => v.state == .provisional)))

/-- A candidate is skipped, counted or migrated: the rows of R110 in their order. -/
def Mach.candidatePage (m : Mach) (die part dest : Nat) (p : Page) : Mach :=
  let bump := fun (f : Die → Die) => m.modDie die f
  if p.size = 0 then m
  else if bitOf p.e 5 then bump (fun d => { d with pinhot := Nat.min (d.pinhot + 1) 0xFFFF })
  else if bitOf p.e 6 then bump (fun d => { d with nmhot := Nat.min (d.nmhot + 1) 0xFFFF })
  else if m.dev.versioned part p then bump (fun d => { d with verhot := Nat.min (d.verhot + 1) 0xFFFF })
  else
    match m.freeRun part 0 (pageBytes p.size / 4096) dest with
    | none => bump (fun d => { d with nofrm := Nat.min (d.nofrm + 1) 0xFFFF })
    | some f => if 64 ≤ (m.dev.die die).migrations.length then m else m.startMigration part p f false

/-- The counted pages of a die, with their partitions, in rising physical order. -/
def Mach.countedPages (m : Mach) (die : Nat) : List (Nat × Page) :=
  let t := (List.range 16).foldl (fun (t : Table (Nat × Page)) part => (m.pagesOf part).foldl (fun t p =>
    if hbmDie p.frame = die ∧ (tfind t p.frame).isNone ∧ m.dev.groupOwner (groupOf p.frame) = some part then tput t p.frame (part, p)
    else t) t) []
  (t.map (fun x => x.2)).filter (fun x => (List.range 4).any (fun i => decide (0 < (m.dev.die die).countOf x.2 i)))

/-- HOT_PAGE_EPOCH_END (R110): a page that is migrating already is no candidate. It waits while the host holds a line of a map or
a leaf (R342). -/
def execHotPageEpochEnd (die : Nat) (s : State) : Host.Outcome State Fault Refusal :=
  let m := Mach.of s
  let d := m.dev.die die
  let active := d.hen && !d.stopped
  if active && (m.countedPages die).any (fun x => m.startHeld x.1 x.2) then .next s else
  let m1 := if !active then m
    else (m.countedPages die).foldl (fun m x =>
      if bitOf x.2.e 7 then m
      else match d.hotFor die x.2 with
        | some dest => m.candidatePage die x.1 dest x.2
        | none => m) m
  commit s (m1.modDie die (fun d => { d with counts := [] }))

/-! ## Migrations -/

/-- Steps 2 and 3 of R111 for the die's oldest migration that has not come so far: TINV covers every address of the page, and once
the accesses translated before are performed the page is copied. It waits for the host's lines (R342). -/
def Mach.migrate (m : Mach) (die : Nat) : Mach :=
  let set := fun (m : Mach) (g h : Migration) =>
    m.modDie die (fun d => { d with migrations := d.migrations.map (fun x => if x = g then h else x) })
  match (m.dev.die die).migrations.find? (fun g => !g.copied) with
  | none => m
  | some g =>
    let size := pageBytes g.size
    if !g.flushed then set (g.vas.foldl (fun m va => m.shootdown g.part false va size) m) g { g with flushed := true }
    else if m.dev.pendingAt g.src size || m.hostHolds g.src size || m.hostHolds g.dst size || m.copyHeld g.part g.src g.dst then m
    else set (m.copyAcross g.part g.src g.dst size) g { g with copied := true }

/-- MIGRATION (R111): steps 2 and 3; step 1 is taken with the decision to migrate (R110, R355). -/
def execMigration (die : Nat) (s : State) : Host.Outcome State Fault Refusal := commit s ((Mach.of s).migrate die)

/-- The migrating faults of a page are answered (R111, R176). -/
def Mach.answerMigrating (m : Mach) (part size : Nat) (vas : List Nat) : Mach :=
  (m.dev.part part).awaiting.foldl (fun m e =>
    if e.2.cause == Cause.page.code && bitOf e.2.flags 2 && vas.any (fun va => decide (va ≤ e.2.va) && decide (e.2.va < va + size)) then
      m.rangerAnswer part e.1 e.2
    else m) m

/-- Moving the page that holds a retired frame, where it is not pinned and a frame of its die is free (R111, R113, R366). What
cannot be done now is left for later. -/
def Mach.leaveFrame (m : Mach) (frame : Nat) : Mach :=
  let later := m.modPkg (fun p => { p with leaving := if p.leaving.contains frame then p.leaving else p.leaving ++ [frame] })
  let done := m.modPkg (fun p => { p with leaving := p.leaving.filter (fun f => f != frame) })
  match m.dev.groupOwner (groupOf frame) with
  | none => done
  | some part =>
    match (m.pagesOf part).find? (fun p => decide (p.frame ≤ frame) && decide (frame < p.frame + pageBytes p.size)) with
    | none => done
    | some p =>
      if bitOf p.e 5 || bitOf p.e 7 then done
      else if decide (64 ≤ (m.dev.die (hbmDie frame)).migrations.length) || m.startHeld part p then later
      else
        match m.freeRun part 0 (pageBytes p.size / 4096) (hbmDie frame) with
        | some f => done.startMigration part p f true
        | none => later

/-- The frames of retired rows whose pages had to wait (R366). -/
def Mach.leaveFrames (m : Mach) : Mach := m.dev.pkg.leaving.foldl (fun m f => m.leaveFrame f) m

/-- Steps 4 and 5 of R111, the watches and parked WAITAs of the page (R164; log 29), and the answers. -/
def Mach.finishMigration (m : Mach) (die : Nat) : Mach :=
  match (m.dev.die die).migrations.find? (fun g => g.copied) with
  | none => m
  | some g =>
    let size := pageBytes g.size
    if m.leavesHeld g.leaves || m.mapsHeld g.part then m
    else
      let m1 := g.leaves.foldl (fun m ea => m.writeLeaf ea (setFrame (setMigr (m.tableEntry g.part ea) false) g.dst)) m
      let m2 := m1.returnFrame g.part 0 g.src (size / 4096)
      let m3 := (m2.moveWatches g.src size g.dst).moveParks g.src size g.dst (fun _ _ => true)
      let m4 := m3.modDie die (fun d =>
        { d with migrations := d.migrations.filter (fun x => x != g), migs := if g.forResize then d.migs else (d.migs + 1) % 2 ^ 32 })
      (m4.answerMigrating g.part size g.vas).leaveFrames

/-- MIGRATION_COMPLETE (R111). -/
def execMigrationComplete (die : Nat) (s : State) : Host.Outcome State Fault Refusal := commit s ((Mach.of s).finishMigration die)

/-! ## Resize -/

/-- Bits of a mask that are set in one and clear in another. -/
def maskMinus (n a b : Nat) : List Nat := (List.range n).filter (fun i => bitOf a i && !bitOf b i)

/-- A staged configuration that R355 refuses. -/
def Dev.resizeRefused (d : Dev) (part : Nat) : Bool :=
  let c := (d.part part).staged
  let others := (List.range 16).filter (fun p => p != part)
  others.any (fun p =>
    let o := (d.part p).current
    Nat.land o.quads c.quads != 0 || Nat.land o.slices c.slices != 0 || Nat.land o.groups c.groups != 0) ||
    (List.range 4).any (fun die => c.groups / 2 ^ (48 * die) % 2 ^ 48 != 0 && c.slices / 2 ^ (10 * die) % 2 ^ 10 == 0) ||
    (c.quads == 0 && (c.slices != 0 || c.groups != 0)) ||
    (List.range 64).any (fun q => bitOf c.quads q && !bitOf (d.part part).current.quads q &&
      ((d.die (q / 16)).stopped || bitOf d.pkg.excluded (12 + q / 16)))

/-- A resize ends with a result (R353). -/
def Mach.endResize (m : Mach) (part res : Nat) : Mach :=
  m.modPart part (fun p => { p with rbusy := false, rres := res, rstep := 0 })

/-- The next step of a resize begins. -/
def Mach.toStep (m : Mach) (part n : Nat) (f : PConf → PConf → PConf) : Mach :=
  m.modPart part (fun p => { p with rstep := n, current := f p.current p.target })

/-- A free frame of a page's size in a kept group: on its die where there is one, else on the lowest die (R355). -/
def Mach.keptFrame (m : Mach) (part : Nat) (p : Page) : Option Nat :=
  let t := (m.dev.part part).target.groups
  let base := (m.dev.part part).fmapb
  let n := pageBytes p.size / 4096
  let free := (runStarts base n m.mem).filter (fun pa => bitOf t (groupOf pa) && m.runFree part base pa n)
  match free.find? (fun pa => hbmDie pa == hbmDie p.frame) with
  | some f => some f
  | none => (List.range 4).findSome? (fun d => free.find? (fun pa => hbmDie pa == d))

/-- A version that is not published stands in a group that leaves. -/
def Dev.versionLeaving (d : Dev) (part : Nat) (leaving : List Nat) : Bool :=
  d.plots.any (fun p => plotPart p.1 == part && (List.range p.2.versions.length).any (fun i =>
    match p.2.versions[i]? with
    | some v => !v.freed && i != p.2.published && leaving.contains (groupOf v.frame)
    | none => false))

/-- Step 2 (R355): the pages of leaving groups migrate; the step is over once none is left there. -/
def Mach.resizePages (m : Mach) (part : Nat) : Mach :=
  let p := m.dev.part part
  let leaving := maskMinus 192 p.current.groups p.target.groups
  let busy := m.dev.dies.any (fun d => d.2.migrations.any (fun g => g.part == part))
  if busy then m
  else
    let pages := (m.pagesOf part).filter (fun g => leaving.contains (groupOf g.frame))
    match pages with
    | [] => if m.dev.versionLeaving part leaving then m else m.toStep part 3 (fun c t => { c with groups := t.groups })
    | g :: _ =>
      if m.startHeld part g then m else
      match m.keptFrame part g with
      | some f => m.startMigration part g f true
      | none => m.endResize part 3

/-- WAITAs parked where their word is no longer at home: reclaimed where the slice leaves (R167), moved elsewhere (log 29). -/
def Mach.rehomeParks (m : Mach) (part : Nat) (gone : List Nat) : Mach :=
  m.dev.banks.foldl (fun m e =>
    match e.2.k.waita with
    | none => m
    | some w =>
      if w.outcome.isSome || e.2.part != part then m
      else if gone.contains w.slice then m.reclaimPark w.slice w.slot
      else
        let h := m.dev.home w.pa (some part)
        if h = w.slice then m
        else (m.modSlice w.slice (fun s => { s with parks := tdel s.parks w.slot })).park e.1 h w) m

/-- The lines of host memory that a List holds are written back and dropped. -/
def Mach.dropLines (m : Mach) (owner : Nat) : Mach :=
  ((m.dev.part owner).hostLines.foldl (fun m l => m.flushLine owner l.1) m).modPart owner (fun p => { p with hostLines := [] })

/-- Step 3 (R355): the slice set changes; host lines are written back and dropped under the old List and the new one, watches and
park slots move. -/
def Mach.resizeSlices (m : Mach) (part : Nat) : Mach :=
  let p := m.dev.part part
  if p.current.slices = p.target.slices then m.toStep part 4 (fun c _ => c)
  else
    let gone := (m.dev.slicesOf part).filter (fun s => !bitOf p.target.slices (s / 80 * 10 + s % 80 / 8))
    let m1 := (m.dropLines (m.dev.lineOwner (some part))).toStep part 4 (fun c t => { c with slices := t.slices })
    let m2 := m1.dropLines (m1.dev.lineOwner (some part))
    let m3 := (m2.dev.leads.filter (fun w => w.part == part)).foldl (fun m w => m.moveWatch w w.pbase) m2
    m3.rehomeParks part gone

/-- Step 4 on one bank of a leaving quad (R355, R356): it takes RESERVE, and its task is saved to an area of Ranger's. -/
def Mach.vacate (m : Mach) (b : Nat) : Mach :=
  let m1 := m.preempt b
  if m1.maySave b (m1.dev.rangerArea b) then m1.saveContext b (m1.dev.rangerArea b) else m1

/-- Step 4 begins: RESERVE on every bank of the leaving quads, and their hampers' entries move to the die hamper in their
order. -/
def Mach.reserveQuad (m : Mach) (q : Nat) : Mach :=
  let m1 := (List.range 8).foldl (fun m i =>
    (m.modBank (8 * q + i) (fun k => { k with held := none })).setSlot (8 * q + i) { op := 3, stat := 1, part := 0, task := 0, savePa := 0 }) m
  let keys := quadHamper q :: (List.range 4).map (fun c => coreHamper (4 * q + c))
  keys.foldl (fun m h => ((m.dev.hamper h).foldl (fun m e => m.enter (dieHamper (q / 16)) e) m).setHamper h []) m1

/-- Step 4 (R355): over once every bank of the leaving quads is empty. -/
def Mach.resizeQuads (m : Mach) (part : Nat) : Mach :=
  let p := m.dev.part part
  let leaving := maskMinus 64 p.current.quads p.target.quads
  let m1 := if p.rstep = 4 then (leaving.foldl (fun m q => m.reserveQuad q) m).toStep part 5 (fun c _ => c) else m
  let banks := leaving.flatMap (fun q => (List.range 8).map (fun i => 8 * q + i))
  let m2 := banks.foldl (fun m b => m.vacate b) m1
  if banks.all (fun b => (m2.bank b).status == .empty) then
    (m2.toStep part 0 (fun c t => { c with quads := t.quads })).endResize part 1
  else m2

/-- The resize goes as far as it can (R355). -/
def Mach.resizeOn (m : Mach) (part : Nat) : Mach :=
  let m1 := if (m.dev.part part).rstep = 2 then m.resizePages part else m
  let m2 := if (m1.dev.part part).rstep = 3 then m1.resizeSlices part else m1
  if 4 ≤ (m2.dev.part part).rstep then m2.resizeQuads part else m2

/-- A GO (R353, R355): ignored while a resize is in progress; refused, or step 1 and what follows. -/
def Mach.resizeGo (m : Mach) (part : Nat) : Mach :=
  if (m.dev.part part).rbusy then m
  else if m.dev.resizeRefused part then m.modPart part (fun p => { p with rres := 2 })
  else
    let m1 := m.modPart part (fun p =>
      { p with rbusy := true, rstep := 2, target := p.staged,
               current := { p.current with quads := Nat.lor p.current.quads p.staged.quads,
                                           groups := Nat.lor p.current.groups p.staged.groups } })
    m1.resizeOn part

/-- RESIZE_GO (R355): a GO, or with a resize in progress its further steps. -/
def execResizeGo (part : Nat) (s : State) : Host.Outcome State Fault Refusal :=
  let m := Mach.of s
  commit s (if (m.dev.part part).rbusy then m.resizeOn part else m.resizeGo part)

end Sys2Proof.Machine
end

