-- ==== Sys2Proof/Machine/Host.lean ====
section
/-! DEFINITION. Host: the host over CXL (R109, R118, R342, R344), and MSI-X vectors as they are unmasked (R352). -/

namespace Sys2Proof.Machine

/-- Bytes of the HDM range: 768 GiB (R344). -/
def hdmBytes : Nat := 768 * 2 ^ 30

/-- The device address that a host CXL.mem access of `n` bytes reaches (R344). -/
def Pkg.hdmPa (p : Pkg) (addr n : Nat) : Option Nat :=
  if p.hdmBase ≤ addr ∧ addr + n ≤ p.hdmBase + hdmBytes then some (addr - p.hdmBase) else none

/-- The lines that a run of bytes touches. -/
def linesOf (pa n : Nat) : List Nat := (List.range ((pa + n + 63) / 64 - pa / 64)).map (fun i => pa / 64 + i)

/-- A host read of device HBM (R109, R363): the home slice answers, and from then on the host may hold the lines (R342). -/
def Mach.hostRead (m : Mach) (addr n : Nat) : Mach :=
  match m.dev.pkg.hdmPa addr n with
  | none => m
  | some pa =>
    m.modPkg (fun p =>
      { p with hostReply := m.bytes pa n, hostPoison := (m.poisoned pa n).isSome, unsupported := false,
               hostHeld := p.hostHeld ++ (linesOf pa n).filter (fun l => !(p.hostHeld.contains l)) })

/-- HOST_MEM_READ (R109). -/
def execHostMemRead (addr size : Nat) (s : State) : Host.Outcome State Fault Refusal :=
  commit s ((Mach.of s).fromHost (fun m => m.hostRead addr size))

/-- A host write of device HBM (R109, R154): performed at the home slice at depth 1; the host gives its copy of the lines up
with it. It waits while an atomic is half performed there (R128). -/
def Mach.hostWrite (m : Mach) (addr : Nat) (data : List Byte) : Mach :=
  match m.dev.pkg.hdmPa addr data.length with
  | none => m
  | some pa =>
    if m.halfDone pa data.length then m
    else
    (m.writePhys .device 0 0 pa data).modPkg (fun p =>
      { p with hostHeld := p.hostHeld.filter (fun l => !((linesOf pa data.length).contains l)) })

/-- HOST_MEM_WRITE (R109). -/
def execHostMemWrite (addr : Nat) (data : List Byte) (s : State) : Host.Outcome State Fault Refusal :=
  commit s ((Mach.of s).fromHost (fun m => m.hostWrite addr data))

/-- The line of a host physical address (R344). -/
def hostLineNo (addr : Nat) : Nat := (3 * 2 ^ 50 + addr % 2 ^ 50) / 64

/-- The home slices that hold a line under CXL.cache: CA 10, under whichever List (R94, R342). -/
def Dev.cacheHolders (d : Dev) (line : Nat) : List Nat :=
  (List.range 17).filter (fun p => match tfind (d.part p).hostLines line with
    | some l => l.ca == 2
    | none => false)

/-- The home slice answers a host snoop (R342): it returns the line's bytes, and gives it up where the snoop invalidates. -/
def Mach.hostSnoop (m : Mach) (addr : Nat) (invalidate : Bool) : Mach :=
  let line := hostLineNo addr
  match m.dev.cacheHolders line with
  | [] => m.modPkg (fun p => { p with hostReply := [], hostPoison := false, unsupported := false })
  | o :: os =>
    let data := match tfind (m.dev.part o).hostLines line with | some l => (l.fill m line 0 64).data | none => []
    let m1 := m.modPkg (fun p => { p with hostReply := data, hostPoison := false, unsupported := false })
    if invalidate then
      (o :: os).foldl (fun m p => m.modPart p (fun t => { t with hostLines := tdel t.hostLines line })) m1
    else m1

/-- HOST_SNOOP (R342). -/
def execHostSnoop (addr : Nat) (invalidate : Bool) (s : State) : Host.Outcome State Fault Refusal :=
  commit s ((Mach.of s).fromHost (fun m => m.hostSnoop addr invalidate))

/-- BACK_INVALIDATE_ANSWER (R342): the host holds the line no longer, and an access that waited for it may be made. -/
def execBackInvalidateAnswer (line : Nat) (s : State) : Host.Outcome State Fault Refusal :=
  commit s ((Mach.of s).fromHost (fun m => m.modPkg (fun p => { p with hostHeld := p.hostHeld.filter (fun l => l != line) })))

/-- A line that its slice holds is written back where it is dirty, and evicted where it is clean (R118). Index 16 names the
lines of the one List under which no partition's slices stand (R94). A write-back waits for the port and for the partition's credit
on it (R343, R354). -/
def Mach.lineWriteback (m : Mach) (part line : Nat) : Mach :=
  let owner := if part < 16 then m.dev.lineOwner (some part) else 16
  match tfind (m.dev.part owner).hostLines line with
  | none => m
  | some l =>
    if !(l.dirty.any id) then m.modPart owner (fun p => { p with hostLines := tdel p.hostLines line })
    else if m.dev.pkg.mup = 0 || (decide (part < 16) && !(m.dev.hasCredit hostLink part 1)) then m
    else (if part < 16 then m.modPkg (fun p => p.useSlots hostLink part 1) else m).flushLine owner line

/-- LINE_WRITEBACK (R118). -/
def execLineWriteback (part line : Nat) (s : State) : Host.Outcome State Fault Refusal :=
  commit s ((Mach.of s).lineWriteback part line)

/-- A mask with one bit cleared. -/
def clearBit (n i : Nat) : Nat := if bitOf n i then n - 2 ^ i else n

/-- A vector is unmasked: where its pending bit is set, it is sent (R352). -/
def Part.unmask (p : Part) (v : Nat) : Part :=
  { p with msixMask := clearBit p.msixMask v, msixPend := clearBit p.msixPend v,
           msixSent := if bitOf p.msixPend v then p.msixSent ++ [v] else p.msixSent }

/-- A partition's VF is enabled (R345). -/
def Dev.vfOn (d : Dev) (part : Nat) : Bool := (List.range 4).any (fun i => d.ownsQuadOn part i)

/-- MSIX_UNMASK (R352): a write to the table of an enabled VF, whose vector is sent where it is pending (R345, R347). -/
def execMsixUnmask (part vector : Nat) (s : State) : Host.Outcome State Fault Refusal :=
  commit s ((Mach.of s).fromHost (fun m => if m.dev.vfOn part then m.modPart part (fun p => p.unmask vector) else m))

end Sys2Proof.Machine
end

