-- ==== Sys2Proof/Machine/Peer.lean ====
section
/-! DEFINITION. Peer: flits as the peer ports carry them (R357); inbound requests (R360), responses to requests of the device's
own (R359, R361), acknowledgements and retries. -/

namespace Sys2Proof.Machine

/-! ## The flit -/

/-- TYPE (R357): a request, a response, or an acknowledgement alone, as OPC says. -/
def flitType (f : Flit) : Nat := if f.opc = 0 then 3 else if f.opc ≤ 4 then 1 else 2

/-- The virtual channel: requests 0, responses 1 (R357). -/
def flitChannel (f : Flit) : Nat := if flitType f = 2 then 1 else 0

/-- Bytes 0 to 247 of a flit (R357). -/
def flitBody (f : Flit) : List Byte :=
  leBytes 1 (flitType f) ++ leBytes 1 (flitChannel f + f.part % 16 * 16) ++ leBytes 2 (f.seq % 4096) ++ leBytes 2 (f.ack % 4096) ++
    leBytes 1 f.srcn ++ leBytes 1 f.dstn ++ leBytes 1 f.opc ++ leBytes 1 (f.size % 128) ++ leBytes 2 f.tag ++ leBytes 1 f.fn ++
    leBytes 3 0 ++ leBytes 8 (f.addr % 2 ^ 40) ++ (List.range 224).map (fun i => f.data.getD i 0)

/-- The 256 bytes of a flit; the rule does not say which check stands in the last eight (R357; log 72). -/
def flitLayout (f : Flit) : List Byte := flitBody f ++ (List.range 8).map (Config.flitCheck (flitBody f))

/-- A flit from the bytes that a port receives (R357): none where the check fails or a reserved field is used. -/
def flitOf (port : Nat) (bs : List Byte) : Option Flit :=
  let n := fun (off k : Nat) => leNat ((bs.drop off).take k)
  let f : Flit :=
    { port := port, part := n 1 1 / 16, seq := n 2 2, ack := n 4 2, srcn := n 6 1, dstn := n 7 1, opc := n 8 1, size := n 9 1,
      tag := n 10 2, fn := n 12 1, addr := n 16 8, data := (bs.drop 24).take 224 }
  if bs == flitLayout f then some f else none

/-! ## The link -/

/-- A flit is acknowledged by ACK, the last sequence received in order (R357). -/
def ackedBy (ack seq : Nat) : Bool := decide ((ack % 4096 + 4096 - seq % 4096) % 4096 < 2048)

/-- ACK of an incoming flit: the flits it acknowledges are kept no longer. -/
def Mach.takeAck (m : Mach) (port ack : Nat) : Mach :=
  m.modPkg (fun p =>
    let t := tget Port.start p.ports port
    { p with ports := tput p.ports port { t with out := t.out.filter (fun f => !(ackedBy ack f.seq)) } })

/-- A flit is the last one received in order on its port. -/
def Mach.received (m : Mach) (f : Flit) : Mach :=
  m.modPkg (fun p =>
    let t := tget Port.start p.ports f.port
    { p with ports := tput p.ports f.port { t with lastIn := f.seq % 4096 } })

/-- A flit comes in on a port that is up. It is acted on where it is the next in order, and dropped else, to be sent again
(R357); `none` from what it asks for leaves it at the port. -/
def Mach.linkIn (m : Mach) (f : Flit) (act : Mach → Option Mach) : Mach :=
  let t := tget Port.start m.dev.pkg.ports f.port
  if !t.up then m
  else if f.seq % 4096 != (t.lastIn + 1) % 4096 then m.takeAck f.port f.ack
  else (act ((m.takeAck f.port f.ack).received f)).getD m

/-! ## Inbound requests -/

/-- The bytes that a request concerns (R190, R357); none for a SIZE that it gives no meaning. -/
def flitBytes (f : Flit) : Option Nat :=
  if f.size % 8 < 4 then some (2 ^ (f.size % 8))
  else if f.size % 8 = 4 ∧ f.size / 16 % 8 ≠ 0 then some (32 * (f.size / 16 % 8))
  else none

/-- Whether a partition is exported to a node (R358). -/
def Pkg.exports (p : Pkg) (part node : Nat) : Bool := bitOf (tget (0 : Word) p.nodes node).toNat (32 + part)

/-- Bits [55:0] of PEXP + ADDR (R360). -/
def Dev.exportVa (d : Dev) (part addr : Nat) : Nat := (d.part part).pexp % 2 ^ 56 + addr % 2 ^ 40

/-- The pieces of a range, one for each sector. -/
def sectorsFrom (va n : Nat) : List (Nat × Nat) := (chunksOf 0 va n).map (fun c => (va + c.off, c.n))

/-- The places in device HBM of a request, sector by sector; none where a check of R360 fails. -/
def Mach.inboundAt (m : Mach) (part : Nat) (kind : Kind) : List (Nat × Nat) → Option (List (Nat × Nat))
  | [] => some []
  | (va, n) :: r =>
    match m.translateLeaf part va kind with
    | .error _ => none
    | .ok x => if isHbm x.pa && x.pin then (Mach.inboundAt m part kind r).map (fun l => (x.pa, n) :: l) else none

/-- The request passes R360: where its bytes lie. -/
def Mach.inbound (m : Mach) (f : Flit) (kind : Kind) : Option (List (Nat × Nat)) :=
  match flitBytes f with
  | none => none
  | some n =>
    if m.dev.pkg.exports f.part f.srcn then m.inboundAt f.part kind (sectorsFrom (m.dev.exportVa f.part f.addr) n) else none

/-- For whom an inbound request acts: its partition, no die, depth 1 (R156, R360). -/
def By.peer (part : Nat) : By := { By.device with part := some part }

/-- The port by which a request is answered: one to the sender, the one the request came by where the node table names none
(DESIGN CHOICE, log 113). -/
def Pkg.replyPort (p : Pkg) (f : Flit) : Nat :=
  let ports := p.portsTo f.srcn
  if ports.isEmpty || ports.contains f.port then f.port else ports.getD 0 f.port

/-- A response to a request (R357, R361): it uses a slot of its partition (R354). -/
def Mach.respond (m : Mach) (f : Flit) (opc : Nat) (data : List Byte) : Mach :=
  let port := m.dev.pkg.replyPort f
  m.modPkg (fun p => (p.useSlots port f.part 1).send port
    { port := port, part := f.part, seq := 0, ack := 0, srcn := f.dstn, dstn := f.srcn, opc := opc, size := f.size, tag := f.tag,
      fn := 0, addr := 0, data := data })

/-- An error response (R360). -/
def Mach.respondError (m : Mach) (f : Flit) : Mach := m.respond f 7 []

/-- An inbound request: refused, left waiting for a line that the host holds, for an atomic that is half performed, or for the
partition's credit at the port of the response (R354), or performed. A read or atomic of a poisoned sector is refused (R363). -/
def Mach.serve (m : Mach) (f : Flit) (kind : Kind) (act : Mach → List (Nat × Nat) → Mach) : Option Mach :=
  if !(m.dev.hasCredit (m.dev.pkg.replyPort f) f.part 1) then none
  else
  match m.inbound f kind with
  | none => some (m.respondError f)
  | some l =>
    if l.any (fun x => if kind == .read then m.hostHolds x.1 x.2 else m.writeHeld x.1 x.2) then none
    else if kind != .write && l.any (fun x => (m.poisoned x.1 x.2).isSome) then some (m.respondError f)
    else some (act m l)

/-- Reading the places of a request. -/
def Mach.readPlaces (m : Mach) (part : Nat) (l : List (Nat × Nat)) : Mach × List Byte :=
  l.foldl (fun r x => let t := r.1.readPhys (.peer part) 0 x.1 x.2; (t.1, r.2 ++ t.2)) (m, [])

/-- Writing the places of a request: the bytes in their order. -/
def Mach.writePlaces (m : Mach) (part : Nat) (bs : List Byte) (l : List (Nat × Nat)) : Mach :=
  (l.foldl (fun (r : Mach × List Byte) x => (r.1.writePhys (.peer part) 0 0 x.1 (r.2.take x.2), r.2.drop x.2)) (m, bs)).1

/-- PEER_READ (R360). -/
def execPeerRead (f : Flit) (s : State) : Host.Outcome State Fault Refusal :=
  commit s ((Mach.of s).linkIn f (fun m => m.serve f .read (fun m l =>
    let r := m.readPlaces f.part l
    r.1.respond f 5 r.2)))

/-- PEER_WRITE (R360): compared by watches at depth 1 (R154). -/
def execPeerWrite (f : Flit) (s : State) : Host.Outcome State Fault Refusal :=
  commit s ((Mach.of s).linkIn f (fun m => m.serve f .write (fun m l =>
    (m.writePlaces f.part ((List.range ((flitBytes f).getD 0)).map (fun i => f.data.getD i 0)) l).respond f 6 [])))

/-- The operands of a request: X in DATA bytes 0 to 7, and W in bytes 8 to 15 (log 45). -/
def flitOperand (f : Flit) (i : Nat) : Nat := leNat ((f.data.drop (8 * i)).take 8)

/-- A function of R204 on an access of 4 or 8 bytes (R247). -/
def flitRmwOk (f : Flit) (top : Nat) : Bool := decide (f.fn ≤ top) && (flitBytes f == some 4 || flitBytes f == some 8)

/-- An inbound read-modify-write (R247, R360); the response carries the old value where the request is an ATOM. -/
def Mach.serveRmw (m : Mach) (f : Flit) (top : Nat) (answer : Bool) : Option Mach :=
  if !(flitRmwOk f top) then some (m.respondError f)
  else
    m.serve f .atomic (fun m l =>
      let n := (flitBytes f).getD 0
      let r := m.readPlaces f.part l
      let new := atomNew f.fn n (leNat r.2) (flitOperand f 0) (flitOperand f 1)
      (r.1.writePlaces f.part (leBytes n new) l).respond f (if answer then 5 else 6) (if answer then r.2 else []))

/-- PEER_ATOM (R360). -/
def execPeerAtom (f : Flit) (s : State) : Host.Outcome State Fault Refusal :=
  commit s ((Mach.of s).linkIn f (fun m => m.serveRmw f 9 true))

/-- PEER_RED (R360). -/
def execPeerRed (f : Flit) (s : State) : Host.Outcome State Fault Refusal :=
  commit s ((Mach.of s).linkIn f (fun m => m.serveRmw f 7 false))

/-! ## Responses -/

/-- The request that a response answers: its tag, at its node. -/
def Pkg.requestOf (p : Pkg) (f : Flit) : Option PeerReq :=
  p.reqs.find? (fun r => r.tag == f.tag && fld r.pa 40 8 == f.srcn)

/-- The queues of the sequencers of a partition's banks without the FENCEs that a request's answer frees (R123). -/
def Mach.trimAll (m : Mach) (part : Nat) : Mach :=
  m.dev.banks.foldl (fun m b =>
    if b.2.part = part then (m.modBank b.1 (fun k => k.mapSeqs (fun _ s => { s with accs := m.trimAccs part s.accs }))) else m) m

/-- A request is answered; FENCEs that waited for it wait no longer (R123). -/
def Mach.dropRequest (m : Mach) (r : PeerReq) : Mach :=
  (m.modPkg (fun p => { p with reqs := p.reqs.filter (fun x => x != r) })).trimAll r.part

/-- A sequencer's access that has been sent. -/
def SeqState.sentAcc (s : SeqState) (id : Nat) : Option Acc := s.accs.find? (fun a => a.id == id && a.sent)

/-- An outbound read of a sequencer is performed at `.sys` (R361): a load ends and fills K's L1 (R99), or an atomic's old value
comes (R247), and with SC 5 its write half is performed with it. -/
def Mach.readReturns (m : Mach) (b : Nat) (q : Seq) (id : Nat) (bs : List Byte) : Mach :=
  match ((m.bank b).seq q).sentAcc id with
  | none => m
  | some a =>
    match a.kind with
    | .load => (m.l1AfterPeer b q a bs).endLoad b q a bs
    | .atom =>
      let m1 := if q == .K then m.l1Refresh (coreOf b) a.pa (a.newBytes bs) else m
      let r := m1.orderRead b a.pos (szOf a.n) 1 a.va bs
      (r.1.leave b q a.id 1 (b2n (a.sc = 5))).deliver b q a.dst a.id [word (leNat r.2)]
    | _ => m

/-- Read data has come for a request: to a sequencer, a copy queue, or a row slot of a trail. -/
def Mach.dataReturns (m : Mach) (r : PeerReq) (data : List Byte) : Mach :=
  let bs := (List.range r.len).map (fun i => data.getD (r.skip + i) 0)
  match m.bankOf r.part r.task with
  | none => m
  | some b =>
    if r.unit < 4 then m.readReturns b (Seq.ofIdx r.unit) r.id bs
    else if r.unit < 8 then m.chunkRead b (r.unit - 4) r.id bs
    else
      match (((m.bank b).trail (r.unit - 8)).gens.head?).bind (fun g => g.sectorAt r.id) with
      | some (j, c) => m.sectorRead b (r.unit - 8) j c.off bs
      | none => m

/-- PEER_READ_DATA (R361). -/
def execPeerReadData (f : Flit) (s : State) : Host.Outcome State Fault Refusal :=
  commit s ((Mach.of s).linkIn f (fun m => some (match m.dev.pkg.requestOf f with
    | some r => (m.dropRequest r).dataReturns r f.data
    | none => m)))

/-- An outbound write is performed at `.sys` (R361): an access with SC 5 leaves its queue (R118). -/
def Mach.writeReturns (m : Mach) (r : PeerReq) : Mach :=
  match m.bankOf r.part r.task with
  | none => m
  | some b =>
    if 4 ≤ r.unit then m
    else
      match ((m.bank b).seq (Seq.ofIdx r.unit)).sentAcc r.id with
      | some a => if a.kind == .store || a.kind == .red then m.leave b (Seq.ofIdx r.unit) r.id 0 1 else m
      | none => m

/-- PEER_WRITE_DONE (R361). -/
def execPeerWriteDone (f : Flit) (s : State) : Host.Outcome State Fault Refusal :=
  commit s ((Mach.of s).linkIn f (fun m => some (match m.dev.pkg.requestOf f with
    | some r => (m.dropRequest r).writeReturns r
    | none => m)))

/-- The task that made a refused request is retired with PROT, and the record has the PA (R360): a task of a bank, or one
that has been saved meanwhile. -/
def Mach.requestFailed (m : Mach) (r : PeerReq) : Mach :=
  let access := if r.opc = 1 then Kind.read.code else if r.opc = 2 then Kind.write.code else Kind.atomic.code
  let queue := if r.unit < 8 then r.unit - 4 else r.unit - 8
  let src := if r.unit < 4 then r.unit else 4
  let acc := if r.unit < 4 then access else access + queue % 16 * 16
  match m.bankOf r.part r.task, m.savedOf r.part r.task with
  | some b, _ =>
    let m1 := if r.unit < 4 then m.dropAcc b (Seq.ofIdx r.unit) r.id else m
    m1.failTask b .prot src acc 2 r.pos r.va r.pa
  | none, some (key, sv) =>
    ((m.addRecord r.part { FaultRec.plain Cause.prot.code src r.va sv.task.gangId with
        access := acc, flags := 2, taskId := r.task, pos := r.pos, pa := r.pa }).memberGone
      (gangKey r.part sv.task.gangId) sv.task.rank (some .prot)).forgetSaved key r.task (gangKey r.part sv.task.gangId)
  | none, none => m

/-- PEER_ERROR (R360). -/
def execPeerError (f : Flit) (s : State) : Host.Outcome State Fault Refusal :=
  commit s ((Mach.of s).linkIn f (fun m => some (match m.dev.pkg.requestOf f with
    | some r => (m.dropRequest r).requestFailed r
    | none => m)))

/-! ## Acknowledgements and retries -/

/-- PEER_ACK_FLIT (R357): a flit of TYPE 3 brings ACK alone. -/
def execPeerAckFlit (f : Flit) (s : State) : Host.Outcome State Fault Refusal :=
  let m := Mach.of s
  commit s (if (tget Port.start m.dev.pkg.ports f.port).up then m.takeAck f.port f.ack else m)

/-- FLIT_RETRY (R357): the flits that are not acknowledged are sent again from the one that failed; the model counts it. -/
def execFlitRetry (port : Nat) (s : State) : Host.Outcome State Fault Refusal :=
  commit s ((Mach.of s).modPkg (fun p =>
    let t := tget Port.start p.ports port
    { p with ports := tput p.ports port { t with resent := t.resent + 1 } }))

end Sys2Proof.Machine
end

