-- ==== Sys2Proof/Machine/Signature.lean ====
section
/-! DEFINITION. Signature: SLH-DSA-SHAKE-256s, which the spec names (R3, R372, R373, R374) and does not lay down: it is taken
from FIPS 205, with an empty context string (PRESUMED, log 8). Hash values have 32 bytes; a signature is 931 of them: the
randomiser, 22 few-time trees of height 14, and 8 layers of Merkle trees of height 8 over chains of 67 digits to base 16. -/

namespace Sys2Proof.Machine

/-- Where a hash stands in the structure. `kind` names its use, `pair` the leaf it serves, and `row` and `col` are a chain
and a step of it, or a height and a place in a tree. -/
structure HashPlace where
  layer : Nat
  tree : Nat
  kind : Nat
  pair : Nat
  row : Nat
  col : Nat

/-- Bytes with the most significant first. -/
def bigEndian (n v : Nat) : List Byte := (leBytes n v).reverse

/-- A number from bytes with the most significant first. -/
def ofBigEndian (bs : List Byte) : Nat := leNat bs.reverse

/-- The 32 bytes of a place. -/
def HashPlace.bytes (p : HashPlace) : List Byte :=
  bigEndian 4 p.layer ++ bigEndian 12 p.tree ++ bigEndian 4 p.kind ++ bigEndian 4 p.pair ++ bigEndian 4 p.row ++ bigEndian 4 p.col

/-- The hash at a place, under the public seed. Secrets are the hashes of the secret seed. -/
def HashPlace.hash (p : HashPlace) (pub data : List Byte) : List Byte := shake256 32 (pub ++ p.bytes ++ data)

/-- Two nodes under one parent, whose place in its row tells nothing of theirs: the one with the even place comes first. -/
def HashPlace.join (p : HashPlace) (pub : List Byte) (place : Nat) (own other : List Byte) : List Byte :=
  p.hash pub (if place % 2 = 0 then own ++ other else other ++ own)

/-- From a leaf to the root past the nodes beside the way. -/
def climbTree (p : HashPlace) (pub : List Byte) : Nat → Nat → List Byte → List (List Byte) → List Byte
  | _, _, own, [] => own
  | height, place, own, other :: rest =>
    climbTree p pub (height + 1) (place / 2)
      ({ p with row := height + 1, col := place / 2 }.join pub place own other) rest

/-- A node of a tree from its leaves. -/
def treeNode (p : HashPlace) (pub : List Byte) (leaf : Nat → List Byte) : Nat → Nat → List Byte
  | 0, place => leaf place
  | height + 1, place =>
    { p with row := height + 1, col := place }.hash pub
      (treeNode p pub leaf height (2 * place) ++ treeNode p pub leaf height (2 * place + 1))

/-- The nodes beside the way from a leaf up. -/
def besideWay (p : HashPlace) (pub : List Byte) (leaf : Nat → List Byte) (levels place : Nat) : List (List Byte) :=
  (List.range levels).map (fun h => treeNode p pub leaf h (Nat.xor (place / 2 ^ h) 1))

/-! ## One-time signatures over chains -/

/-- `n` steps of a chain from step `first`. -/
def chainSteps (p : HashPlace) (pub : List Byte) : Nat → Nat → List Byte → List Byte
  | 0, _, v => v
  | n + 1, first, v => chainSteps p pub n (first + 1) ({ p with col := first }.hash pub v)

/-- The digits that a value and its checksum give the 67 chains. -/
def chainDigits (v : List Byte) : List Nat :=
  let ds := v.flatMap (fun b => [b.toNat / 16, b.toNat % 16])
  let sum := (ds.map (15 - ·)).sum
  ds ++ [sum / 256, sum / 16 % 16, sum % 16]

/-- The start of a chain. -/
def chainStart (p : HashPlace) (pub sec : List Byte) (i : Nat) : List Byte := { p with kind := 5, row := i, col := 0 }.hash pub sec

/-- The key that the ends of the chains make. -/
def chainKey (p : HashPlace) (pub : List Byte) (ends : List (List Byte)) : List Byte :=
  { p with kind := 1, row := 0, col := 0 }.hash pub ends.flatten

/-- A leaf of a Merkle tree: the key of its one-time signature. -/
def merkleLeaf (p : HashPlace) (pub sec : List Byte) (pair : Nat) : List Byte :=
  let q := { p with kind := 0, pair := pair }
  chainKey q pub ((List.range 67).map (fun i => chainSteps { q with row := i } pub 15 0 (chainStart q pub sec i)))

/-- A one-time signature: each chain as far as its digit. -/
def chainSign (p : HashPlace) (pub sec v : List Byte) : List (List Byte) :=
  (List.range 67).map (fun i => chainSteps { p with kind := 0, row := i } pub ((chainDigits v).getD i 0) 0 (chainStart p pub sec i))

/-- The key that a one-time signature of a value leads to. -/
def chainRecover (p : HashPlace) (pub v : List Byte) (sig : List (List Byte)) : List Byte :=
  chainKey p pub ((List.range 67).map (fun i =>
    let d := (chainDigits v).getD i 0
    chainSteps { p with kind := 0, row := i } pub (15 - d) d (sig.getD i [])))

/-! ## The layers of Merkle trees -/

/-- The place of the nodes of a tree of a layer. -/
def merklePlace (layer tree : Nat) : HashPlace := { layer := layer, tree := tree, kind := 2, pair := 0, row := 0, col := 0 }

/-- The root that a layer's part of a signature leads to. -/
def merkleRecover (pub : List Byte) (layer tree leaf : Nat) (v : List Byte) (sig : List (List Byte)) : List Byte :=
  let p := merklePlace layer tree
  climbTree p pub 0 leaf (chainRecover { p with pair := leaf } pub v (sig.take 67)) (sig.drop 67)

/-- A layer's part of a signature. -/
def merkleSign (pub sec : List Byte) (layer tree leaf : Nat) (v : List Byte) : List (List Byte) :=
  let p := merklePlace layer tree
  chainSign { p with pair := leaf } pub sec v ++ besideWay p pub (merkleLeaf p pub sec) 8 leaf

/-- The root of the layers that a signature leads to: `n` layers from `layer` up, 75 hash values each. -/
def layersRecover (pub : List Byte) : Nat → Nat → Nat → Nat → List Byte → List (List Byte) → List Byte
  | 0, _, _, _, v, _ => v
  | n + 1, layer, tree, leaf, v, sig =>
    layersRecover pub n (layer + 1) (tree / 256) (tree % 256) (merkleRecover pub layer tree leaf v (sig.take 75)) (sig.drop 75)

/-- The layers of a signature. -/
def layersSign (pub sec : List Byte) : Nat → Nat → Nat → Nat → List Byte → List (List Byte)
  | 0, _, _, _, _ => []
  | n + 1, layer, tree, leaf, v =>
    let sig := merkleSign pub sec layer tree leaf v
    sig ++ layersSign pub sec n (layer + 1) (tree / 256) (tree % 256) (merkleRecover pub layer tree leaf v sig)

/-! ## The few-time trees -/

/-- The place of the nodes of the few-time trees that a leaf signs. -/
def fewPlace (tree leaf : Nat) : HashPlace := { layer := 0, tree := tree, kind := 3, pair := leaf, row := 0, col := 0 }

/-- A secret of the few-time trees, by its place among all their leaves. -/
def fewSecret (p : HashPlace) (pub sec : List Byte) (i : Nat) : List Byte := { p with kind := 6, row := 0, col := i }.hash pub sec

/-- The leaf over a secret. -/
def fewLeaf (p : HashPlace) (pub : List Byte) (i : Nat) (secret : List Byte) : List Byte := { p with row := 0, col := i }.hash pub secret

/-- The key over the roots of the few-time trees. -/
def fewKey (p : HashPlace) (pub : List Byte) (roots : List (List Byte)) : List Byte :=
  { p with kind := 4, row := 0, col := 0 }.hash pub roots.flatten

/-- The leaf of a few-time tree that a digest chooses, among all their leaves. -/
def fewChosen (digest : List Byte) (t : Nat) : Nat :=
  2 ^ 14 * t + ofBigEndian (digest.take 39) / 2 ^ (312 - 14 * (t + 1)) % 2 ^ 14

/-- The key that the few-time part of a signature leads to, 15 hash values a tree. -/
def fewRecover (p : HashPlace) (pub digest : List Byte) (sig : List (List Byte)) : List Byte :=
  fewKey p pub ((List.range 22).map (fun t =>
    let i := fewChosen digest t
    climbTree p pub 0 i (fewLeaf p pub i (sig.getD (15 * t) [])) ((sig.drop (15 * t + 1)).take 14)))

/-- The few-time part of a signature. -/
def fewSign (p : HashPlace) (pub sec digest : List Byte) : List (List Byte) :=
  (List.range 22).flatMap (fun t =>
    let i := fewChosen digest t
    fewSecret p pub sec i :: besideWay p pub (fun j => fewLeaf p pub j (fewSecret p pub sec j)) 14 i)

/-! ## Keys, signing and verifying -/

/-- The public key of a private one of 96 bytes, its secret seed, its randomiser's key and its public seed (R373): the public
seed and the root of the top tree. -/
def slhPublic (key : List Byte) : List Byte :=
  let pub := (key.drop 64).take 32
  let p := merklePlace 7 0
  pub ++ treeNode p pub (merkleLeaf p pub (key.take 32)) 8 0

/-- The message as it is signed, with an empty context string. -/
def slhMessage (msg : List Byte) : List Byte := [0, 0] ++ msg

/-- The digest of a message under a randomiser and a public key: what the few-time trees sign, then the tree and the leaf that
sign them. -/
def slhDigest (rand key msg : List Byte) : List Byte := shake256 47 (rand ++ key ++ slhMessage msg)

/-- The tree of the lowest layer that a digest chooses. -/
def slhTree (digest : List Byte) : Nat := ofBigEndian ((digest.drop 39).take 7)

/-- The leaf of it. -/
def slhLeaf (digest : List Byte) : Nat := ofBigEndian (digest.drop 46)

/-- The signature of a message (R374). `noise` goes into the randomiser. -/
def slhSign (key msg noise : List Byte) : List Byte :=
  let sec := key.take 32
  let pub := (key.drop 64).take 32
  let rand := shake256 32 ((key.drop 32).take 32 ++ noise ++ slhMessage msg)
  let digest := slhDigest rand (slhPublic key) msg
  let p := fewPlace (slhTree digest) (slhLeaf digest)
  let few := fewSign p pub sec digest
  rand ++ (few ++ layersSign pub sec 8 0 (slhTree digest) (slhLeaf digest) (fewRecover p pub digest few)).flatten

/-- The hash values of a signature. -/
def slhParts (sig : List Byte) : List (List Byte) := (List.range 931).map (fun i => (sig.drop (32 * i)).take 32)

/-- Whether a signature of a message verifies under a public key (R372). -/
def slhVerify (key msg sig : List Byte) : Bool :=
  let pub := key.take 32
  let parts := slhParts sig
  let digest := slhDigest (parts.getD 0 []) key msg
  let few := fewRecover (fewPlace (slhTree digest) (slhLeaf digest)) pub digest ((parts.drop 1).take 330)
  key.length == 64 && sig.length == 29792 &&
    layersRecover pub 8 0 (slhTree digest) (slhLeaf digest) few (parts.drop 331) == key.drop 32

end Sys2Proof.Machine
end

