-- ==== Sys2Proof/Machine/Reliability.lean ====
section
/-! DEFINITION. Reliability: a die that stops (R364), run-time test and repair (R365, R366), attestation (R374, R375) and
bring-up (R367, R372, R373, R376). -/

namespace Sys2Proof.Machine

/-! ## A die stops -/

/-- A bank of the die: its task is retired with ECCU. A restore that the bank had begun is given up. -/
def Mach.stopBank (m : Mach) (b : Nat) : Mach :=
  ((m.dropRestore b).modBank b (fun k => { k with held := none })).failTask b .eccu 7 0 2 0 0 0

/-- A member that no bank holds is retired with ECCU. -/
def Mach.stopMember (m : Mach) (gk rank : Nat) (t : Member) : Mach :=
  match t.loc with
  | .hamper => m.memberGone gk rank (some .eccu)
  | .saved key _ => (m.forgetSaved key t.taskId gk).memberGone gk rank (some .eccu)
  | _ => m

/-- The members of a die's gangs that no bank holds are retired, and the die's hampers are empty. -/
def Mach.stopGangs (m : Mach) (die : Nat) : Mach :=
  let gangs := m.dev.gangs.filter (fun g => g.2.die == die)
  let m1 := gangs.foldl (fun m g => g.2.members.foldl (fun m t => m.stopMember g.1 t.1 t.2) m) m
  (m.dev.entriesOn die).foldl (fun m x => m.setHamper x.1 []) m1

/-- A graph of the die's walker completes, FAULTED: nothing of it is left to do (R142). -/
def Mach.stopGraphs (m : Mach) (die : Nat) : Mach :=
  { m with dev := { m.dev with graphs := tmap (fun _ g =>
      if g.die = die then { g with nodes := [], succs := [], st := [], faulted := true } else g) m.dev.graphs } }

/-- The lead entries of the watches with an entry in a slice of the die, with the die of the lead. -/
def Dev.watchesOn (d : Dev) (die : Nat) : List (Nat × Watch) :=
  let handles := (d.slices.filter (fun s => s.1 / 80 == die)).flatMap (fun s => s.2.watches.map (fun w => w.2.leadh))
  d.slices.flatMap (fun s => (s.2.watches.filter (fun w => w.2.lead && handles.contains w.2.leadh)).map (fun w => (s.1 / 80, w.2)))

/-- A watch is cleared as by WCLR (R162), with a WATCHX record; a handler of this die will not close its trigger. -/
def Mach.stopWatch (m : Mach) (die : Nat) (x : Nat × Watch) : Mach :=
  let m1 := m.clearWatch x.2.leadh (x.2.pend && x.1 != die)
  if x.2.cleared then m1 else m1.watchRecord x.2

/-- Every park slot of the die's slices is reclaimed (R167). -/
def Mach.stopParks (m : Mach) (die : Nat) : Mach :=
  (m.dev.slices.filter (fun s => s.1 / 80 == die)).foldl (fun m s =>
    s.2.parks.foldl (fun m p => m.reclaimPark s.1 p.1) m) m

/-- The record of a partition that owned a quad on the die (R364). -/
def stopRecord (die unit : Nat) (pa : Option Nat) : FaultRec :=
  { FaultRec.plain Cause.eccu.code 7 0 0 with flags := 18, core := die * 2 ^ 14, pa := pa.getD 0, detail := unit }

/-- A die stops (R364): what it held is retired in the order of the rule, then its owners have their records. -/
def Mach.dieStop (m : Mach) (die unit : Nat) (pa : Option Nat) : Mach :=
  if (m.dev.die die).stopped then m
  else
    let owners := (List.range 16).filter (fun p => m.dev.ownsQuadOn p die)
    let m1 := (List.range 128).foldl (fun m i => m.stopBank (128 * die + i)) m
    let m2 := (m1.stopGangs die).stopGraphs die
    let m3 := (m2.dev.watchesOn die).foldl (fun m x => m.stopWatch die x) m2
    let m4 := (m3.stopParks die).modDie die (fun d => { d with stopped := true })
    owners.foldl (fun m p => m.addRecord p (stopRecord die unit pa)) m4

/-- DIE_STOP (R364). -/
def execDieStop (die unit : Nat) (pa : Option Nat) (s : State) : Host.Outcome State Fault Refusal :=
  commit s ((Mach.of s).dieStop die unit pa)

/-- DIESTAT (R364). -/
def Dev.diestat (d : Dev) : Nat := (List.range 4).foldl (fun n i => n + b2n (d.die i).stopped * 2 ^ i) 0

/-! ## Test and repair -/

/-- Rows of one bank. -/
def Repair.ofBank (r : Repair) (stack pch bank : Nat) : Bool := r.stack == stack && r.pch == pch && r.bank == bank

/-- The lowest free spare row of a bank (R365). -/
def Pkg.freeSpare (p : Pkg) (stack pch bank : Nat) : Option Nat :=
  (List.range 4).find? (fun i => !(p.repairs.any (fun r => r.ofBank stack pch bank && r.spare == i)))

/-- A failing row has been dealt with before. -/
def Pkg.rowKnown (p : Pkg) (stack pch bank row : Nat) : Bool :=
  (p.repairs ++ p.retiredRows).any (fun r => r.ofBank stack pch bank && r.row == row)

/-- A frame is removed from the free frames of its partition (R366). -/
def Mach.withdrawFrame (m : Mach) (frame : Nat) : Mach :=
  match m.dev.groupOwner (groupOf frame) with
  | none => m
  | some part => m.takeFrame part frame 1

/-- A failing row is repaired with a spare row, or its frames are retired (R366). -/
def Mach.repairRow (m : Mach) (stack pch bank row : Nat) : Mach :=
  if m.dev.pkg.rowKnown stack pch bank row then m
  else
    match m.dev.pkg.freeSpare stack pch bank with
    | some i =>
      m.modPkg (fun p => { p with repairs := p.repairs ++ [{ stack := stack, pch := pch, bank := bank, spare := i, row := row }] })
    | none =>
      let r : Repair := { stack := stack, pch := pch, bank := bank, spare := 4, row := row }
      r.frames.foldl (fun m f => (m.withdrawFrame f).leaveFrame f)
        (m.modPkg (fun p => { p with retiredRows := p.retiredRows ++ [r] }))

/-- A sector of a stack's pseudo-channel (R93). -/
def inChannel (stack pch sector : Nat) : Bool :=
  isHbm (sector * 32) && sector * 32 / 2 ^ 36 == stack && pchOf (sector * 32) == pch

/-- An uncorrectable error strikes a sector: it is poison from here on (R362, R363). -/
def Mach.upset (m : Mach) (sector : Nat) : Mach :=
  if isHbm (sector * 32) && !(m.dev.pkg.poison.contains sector) then m.modPkg (fun p => { p with poison := p.poison ++ [sector] })
  else m

/-- BIST_BANK_TEST (R365): the bytes of the bank are the same before, during and after the test. What is left of it are the
repairs of the rows that failed, and poison where parking found a sector that cannot be corrected (R377). It waits while the host
holds a line of a frame map (R342). Pages that could not leave a retired frame before are tried again (R366). -/
def execBistBankTest (stack pch bank : Nat) (found : BankTest) (s : State) : Host.Outcome State Fault Refusal :=
  let m := Mach.of s
  commit s (if bitOf m.dev.pkg.excluded stack || (List.range 16).any m.mapsHeld then m
    else
      let m1 := (found.bad.filter (inChannel stack pch)).foldl Mach.upset m
      (found.fails.foldl (fun m row => m.repairRow stack pch bank (row % 2 ^ 18)) m1).leaveFrames)

/-! ## Identity and images -/

/-- The private key of the device (R373). -/
def deviceKey : List Byte := (List.range 96).map Config.pufKey

/-- The public key of the device (R373). -/
def devicePublic : List Byte := slhPublic deviceKey

/-- DEVID (R373). -/
def deviceId : List Byte := shake256 16 devicePublic

/-- Bytes of an SLH-DSA-SHAKE-256s signature (R372). -/
def sigBytes : Nat := 29792

/-- A field of an image's header. -/
def imageField (img : List Byte) (off n : Nat) : Nat := leNat ((img.drop off).take n)

/-- The body of an image (R372). -/
def imageBody (img : List Byte) : List Byte := (img.drop 64).take (imageField img 16 8)

/-- An image is accepted (R372). -/
def imageOk (root : List Byte) (kind minver : Nat) (img : List Byte) : Bool :=
  let len := imageField img 16 8
  let key := (img.drop (64 + len)).take 64
  let sig := (img.drop (128 + len)).take sigBytes
  img.length == 128 + len + sigBytes && imageField img 0 4 == 0x4D49474B && imageField img 4 2 == kind &&
    imageField img 6 2 == 0 && imageField img 24 40 == 0 && (kind == 1 || imageField img 12 4 == 0) &&
    decide (minver ≤ imageField img 8 4) && slhVerify key (img.take (128 + len)) sig && shake256 32 key == root

/-! ## Attestation -/

/-- BOOTSTAT (R375). -/
def Pkg.bootstat (p : Pkg) : Nat :=
  p.stage % 16 + p.err % 16 * 2 ^ 4 + p.unit % 256 * 2 ^ 8 + p.skips % 2 ^ 16 * 2 ^ 16

/-- Modules in use (R343): HOSTLINK's WIDTH. -/
def linkWidth (mup : Nat) : Nat :=
  let n := ((List.range 4).filter (bitOf mup)).length
  if n = 4 then 3 else if 2 ≤ n then 2 else n

/-- HOSTLINK (R343). -/
def Pkg.hostlink (p : Pkg) : Nat := p.mup % 16 + linkWidth p.mup * 16

/-- The bytes of the repair list in a configuration image (R367). -/
def repairBytes (img : List Byte) : List Byte :=
  let at_ := Config.repairSection (imageBody img)
  ((imageBody img).drop at_.1).take (8 * at_.2)

/-- The configuration words of a partition as they read (R353). -/
def Part.configWords (p : Part) : List Nat :=
  [p.staged.quads % 2 ^ 64, p.staged.slices % 2 ^ 40, p.staged.groups % 2 ^ 64, p.staged.groups / 2 ^ 64 % 2 ^ 64,
    p.staged.groups / 2 ^ 128 % 2 ^ 64, p.hcap % 256 + p.dcap % 256 * 2 ^ 8 + p.xcap % 256 * 2 ^ 16, b2n p.rbusy * 2 + p.rres % 4 * 4]

/-- Bytes 0 to 351 of a report (R374). -/
def Dev.report (d : Dev) : List Byte :=
  let b := d.pkg.board
  leBytes 4 0x5441544B ++ leBytes 4 1 ++ d.pkg.nonce.take 32 ++ devicePublic ++ shake256 32 b.config ++
    (List.range 4).flatMap (fun i => shake256 32 (tget [] b.firmware i)) ++ shake256 32 (repairBytes b.config) ++
    shake256 32 ((List.range 16).flatMap (fun p => (d.part p).configWords.flatMap (leBytes 8))) ++ leBytes 8 d.pkg.bootstat ++
    leBytes 16 0

/-- A write of the attestation word (R375). -/
def Mach.attestWrite (m : Mach) (v : Nat) : Mach :=
  m.modPkg (fun p =>
    let p1 := { p with adone := p.adone && !bitOf v 2 }
    if p.agoBusy then p1
    else
      let buf := fld v 6 46 * 64
      if bitOf v 0 then { p1 with abuf := buf, agoBusy := true, nonce := (List.range 32).map (fun i => m.homeByte none (buf + 8 + i)) } else { p1 with abuf := buf })

/-- ATTEST_REQUEST (R374, R375). -/
def execAttestRequest (value : Word) (s : State) : Host.Outcome State Fault Refusal :=
  commit s ((Mach.of s).attestWrite value.toNat)

/-- The report is performed at `.sys` (R374, R375). -/
def Mach.attestDone (m : Mach) : Mach :=
  let p := m.dev.pkg
  if !p.agoBusy || m.hostHolds p.abuf (352 + sigBytes) then m
  else
    let msg := m.dev.report
    (m.writeOwn p.abuf (msg ++ slhSign deviceKey msg ((List.range 32).map (Config.signNoise m.dev.ticks)))).modPkg (fun p =>
      { p with agoBusy := false, adone := true })

/-- ATTEST_DONE (R375). -/
def execAttestDone (s : State) : Host.Outcome State Fault Refusal := commit s (Mach.of s).attestDone

/-! ## Bring-up -/

/-- An entry of the repair list (R367): `none` where it has a reserved bit or a value out of range. -/
def repairEntry (v : Nat) : Option Repair :=
  if bitOf v 17 || fld v 36 28 != 0 || decide (11 < fld v 0 4) then none
  else some { stack := fld v 0 4, pch := fld v 4 6, bank := fld v 10 5, spare := fld v 15 2, row := fld v 18 18 }

/-- Replaying the repair list in its order: the repairs, and the entries skipped (R367). -/
def replayRepairs (bs : List Byte) : List Repair × Nat :=
  (List.range (bs.length / 8)).foldl (fun (t : List Repair × Nat) i =>
    match repairEntry (imageField bs (8 * i) 8) with
    | none => (t.1, t.2 + 1)
    | some r =>
      if t.1.any (fun x => x.ofBank r.stack r.pch r.bank && x.spare == r.spare) then (t.1, t.2 + 1) else (t.1 ++ [r], t.2)) ([], 0)

/-- The dies whose firmware is refused at step 6 (R372, R376). -/
def Board.badDies (b : Board) : List Nat :=
  (List.range 4).filter (fun i => !(imageOk b.rootDigest 2 (imageField b.config 12 4) (tget [] b.firmware i)))

/-- The stacks that do not train at step 3. -/
def Board.badStacks (b : Board) : List Nat := (List.range 12).filter (fun i => !(bitOf b.stacksOk i))

/-- ERR and UNIT after steps 3 to 9: the first failure (log 40). -/
def Board.firstErr (b : Board) : Nat × Nat :=
  match b.badStacks, b.badDies with
  | s :: _, _ => (3, s)
  | [], d :: _ => (6, d)
  | [], [] => (if b.modulesOk % 16 = 0 then 7 else 0, 0)

/-- A row that the test of step 5 finds failing is repaired, or its frames are retired (R366, R376). -/
def Pkg.testRow (p : Pkg) (r : Repair) : Pkg :=
  if p.rowKnown r.stack r.pch r.bank r.row then p
  else
    match p.freeSpare r.stack r.pch r.bank with
    | some i => { p with repairs := p.repairs ++ [{ r with spare := i }] }
    | none => { p with retiredRows := p.retiredRows ++ [{ r with spare := 4 }] }

/-- The package word by word as bring-up leaves it (R376). -/
def Board.bringUp (b : Board) : Pkg :=
  let p := Pkg.start b
  let up := { p with mup := b.modulesOk % 16 }
  if !b.pufOk then { up with err := 1 }
  else if !(imageOk b.rootDigest 1 0 b.config) then { up with stage := 1, err := 2, devid := deviceId }
  else
    let r := replayRepairs (repairBytes b.config)
    let e := b.firstErr
    let tested := b.failing.filter (fun f => bitOf b.stacksOk f.stack)
    tested.foldl Pkg.testRow { up with
      stage := 9, err := e.1, unit := e.2, skips := Nat.min r.2 0xFFFF, devid := deviceId, repairs := r.1,
      excluded := (b.badStacks ++ b.badDies.map (fun d => 12 + d)).foldl (fun n i => n + 2 ^ i) 0,
      ports := (List.range 16).map (fun i => (i, { Port.start with up := bitOf b.portsOk i })) }

/-- Bring-up stops at step 1 or 2. -/
def Pkg.stops (p : Pkg) : Bool := p.err == 1 || p.err == 2

/-- HBM of a trained stack is cleared to zero at step 5 (R376). -/
def Board.clears (b : Board) (pa : Nat) : Bool := isHbm pa && bitOf b.stacksOk (pa / 2 ^ 36)

/-- Bring-up (R376): every word at its reset value, HBM cleared, and the package as the board lets it come up. What the
board holds, the host's memory and the order of the steps to come stay. -/
def State.bringUp (s : State) : State :=
  let p := s.dev.pkg.board.bringUp
  { mem := if p.stops then s.mem else s.mem.filter (fun c => !(s.dev.pkg.board.clears c.1)),
    dev := { Dev.start s.dev.pkg.board with pkg := p, agenda := s.dev.agenda, ticks := s.dev.ticks } }

/-- RESET (R376). -/
def execReset (s : State) : Host.Outcome State Fault Refusal := .next s.bringUp

end Sys2Proof.Machine
end

