-- ==== Sys2Proof/Machine/Provider.lean ====
section
/-! DEFINITION. Provider: writes and reads through the provider control space and the VFs' BARs (R345 to R347, R349, R353, R358,
R360, R368), and the cap windows of links (R354). -/

namespace Sys2Proof.Machine

/-! ## Queue words -/

/-- A write of a queue word through PF0 (R349, R350): 0 BASE, 1 CTL, 2 TAIL, 3 STAT. `launch` tells a launch queue from a
fault queue. -/
def Ring.writeWord (r : Ring) (launch : Bool) (word v : Nat) : Ring :=
  match word with
  | 0 => r.writeBase (fld v 6 46 * 64)
  | 1 => r.writeCtl v
  | 2 => if launch then r.writeTail (v % 2 ^ 32) else { r with tail := BitVec.ofNat 32 v }
  | _ => if launch then { r with terr := r.terr && !bitOf v 32 } else { r with ovf := w1c r.ovf (fld v 0 32) 32 }

/-! ## Configuration words -/

/-- Replacing word `i` of a mask of 64-bit words. -/
def setMaskWord (mask i v : Nat) : Nat := mask - mask / 2 ^ (64 * i) % 2 ^ 64 * 2 ^ (64 * i) + v % 2 ^ 64 * 2 ^ (64 * i)

/-- A write of PCAPT (R368). Setting RPLY starts the replay source ring anew (log 48). -/
def Part.writePcapt (p : Part) (v : Word) : Part :=
  { p with
    pcapt := (v &&& 0x000FFFFFFFFFF0FB) ||| (p.pcapt &&& (4 : Word) &&& ~~~v),
    replayed := if bitOf v.toNat 1 then [] else p.replayed }

/-- A write of a configuration word, by its place after +0x800 (R353, R360, R368). -/
def Mach.configWrite (m : Mach) (part word : Nat) (v : Word) : Mach :=
  let n := v.toNat
  match word with
  | 0 => m.modPart part (fun p => { p with staged := { p.staged with quads := n } })
  | 1 => m.modPart part (fun p => { p with staged := { p.staged with slices := n % 2 ^ 40 } })
  | 5 => m.modPart part (fun p => { p with hcap := fld n 0 8, dcap := fld n 8 8, xcap := fld n 16 8 })
  | 6 => if bitOf n 0 then m.resizeGo part else m
  | 7 => m.modPart part (fun p => { p with pexp := n % 2 ^ 56 })
  | 8 => m.modPart part (fun p => p.writePcapt v)
  | w => if w < 5 then m.modPart part (fun p => { p with staged := { p.staged with groups := setMaskWord p.staged.groups (w - 2) n } })
    else m

/-! ## The provider control space -/

/-- A write in the package block: the node table (R358); the status words are read-only. -/
def Mach.packageWrite (m : Mach) (off : Nat) (v : Word) : Mach :=
  if 0x800 ≤ off ∧ off < 0x1000 then
    m.modPkg (fun p => { p with nodes := tput p.nodes ((off - 0x800) / 8) (v &&& 0x0000FFFFFFFFFFFF) })
  else m

/-- A write in a partition's block (R346, R347). -/
def Mach.blockWrite (m : Mach) (part off : Nat) (v : Word) : Mach :=
  if 0x40 ≤ off ∧ off < 0x60 then m.modPart part (fun p => { p with lq := p.lq.writeWord true ((off - 0x40) / 8) v.toNat })
  else if 0x60 ≤ off ∧ off < 0x80 then m.modPart part (fun p => { p with fq := p.fq.writeWord false ((off - 0x60) / 8) v.toNat })
  else if off < 0x400 then m.partWrite part (0x100 + off / 8) 1 v
  else if 0x800 ≤ off ∧ off < 0xC00 then m.configWrite part ((off - 0x800) / 8) v
  else if 0xC00 ≤ off ∧ off < 0xC20 then m.modPart part (fun p => { p with plq := p.plq.writeWord true ((off - 0xC00) / 8) v.toNat })
  else m

/-- The record of a bank as its 128 bits read (R146). -/
def BindRec.bits (r : BindRec) : Nat :=
  r.op % 16 + r.stat % 4 * 2 ^ 4 + r.part % 16 * 2 ^ 8 + r.task % 2 ^ 32 * 2 ^ 32 + r.savePa % 2 ^ 52 * 2 ^ 64

/-- A write of half a record through the provider control space: the low word, which holds OP, writes the record with the
high word that stands; the high word sets SAVEPA alone (log 30), but one with a reserved bit makes a record that is refused. -/
def Mach.slotWrite (m : Mach) (bank : Nat) (high : Bool) (v : Word) : Mach :=
  let r := (m.dev.slotOf bank).getD { op := 0, stat := 0, part := 0, task := 0, savePa := 0 }
  if !high then m.writeRecord bank (v.toNat + r.savePa * 2 ^ 64)
  else if v.toNat < 2 ^ 52 then m.setSlot bank { r with savePa := v.toNat }
  else m.writeRecord bank (r.bits % 2 ^ 64 + v.toNat * 2 ^ 64)

/-- A write through PF0's BAR0 (R346): every offset that holds no word ignores it. -/
def Mach.pfWrite (m : Mach) (off : Nat) (v : Word) : Mach :=
  if off < 0x100000 then m.packageWrite off v
  else if off < 0x110000 then m.blockWrite ((off - 0x100000) / 0x1000) (off % 0x1000) v
  else if 0x200000 ≤ off ∧ off < 0x204000 then
    (if off % 0x1000 < 0x400 then m.dieWrite ((off - 0x200000) / 0x1000) (0x180 + off % 0x1000 / 8) 1 v else m)
  else if 0x300000 ≤ off ∧ off < 0x304000 then
    (if off % 0x1000 < 0x800 then m.slotWrite ((off - 0x300000) / 0x1000 * 128 + off % 0x1000 / 16) (off % 16 == 8) v else m)
  else m

/-! ## The VFs -/

/-- A write in the MSI-X table of a VF (R347, R352): 16 bytes a vector, its address, its data and its mask bit. -/
def Part.writeMsix (p : Part) (off : Nat) (v : Word) : Part :=
  let i := off / 16
  if off % 16 = 0 then { p with msixAddr := tput p.msixAddr i (v &&& ~~~(3 : Word)) }
  else
    let q := { p with msixData := tput p.msixData i (v.toNat % 2 ^ 32) }
    if bitOf v.toNat 32 then { q with msixMask := Nat.lor q.msixMask (2 ^ i) } else q.unmask i

/-- A write through the BAR0 of a partition's VF (R347): of the queue words TAIL and STAT alone, LOGTAIL, LOGSTAT, FANS, and the
MSI-X table. The VF is enabled when the partition owns a quad (R345). -/
def Mach.vfWrite (m : Mach) (part off : Nat) (v : Word) : Mach :=
  if !(m.dev.vfOn part) then m
  else if off = 0x010 ∨ off = 0x018 then m.modPart part (fun p => { p with lq := p.lq.writeWord true (off / 8) v.toNat })
  else if off = 0x030 ∨ off = 0x038 then m.modPart part (fun p => { p with fq := p.fq.writeWord false ((off - 0x20) / 8) v.toNat })
  else if off = 0x050 then m.partWrite part 0x105 1 v
  else if off = 0x058 then m.partWrite part 0x106 1 v
  else if off = 0x060 then m.partWrite part 0x102 1 v
  else if 0x1000 ≤ off ∧ off < 0x1400 then m.modPart part (fun p => p.writeMsix (off - 0x1000) v)
  else m

/-- The offsets at which the model puts the VFs' BARs, behind PF0's 64 MiB: 16 KiB for each partition (R345; log 43). -/
def vfBase : Nat := 2 ^ 26

/-- A write of a word by the provider or by the host software of a partition (R346, R347). -/
def Mach.providerWrite (m : Mach) (off : Nat) (v : Word) : Mach :=
  if off % 8 ≠ 0 then m
  else if off < vfBase then m.pfWrite off v
  else if off < vfBase + 16 * 2 ^ 14 then m.vfWrite ((off - vfBase) / 2 ^ 14) (off % 2 ^ 14) v
  else m

/-- PROVIDER_WORD_WRITE (R346): over a host port that carries anything (R343). -/
def execProviderWordWrite (offset : Nat) (value : Word) (s : State) : Host.Outcome State Fault Refusal :=
  commit s ((Mach.of s).fromHost (fun m => m.providerWrite offset value))

/-! ## Reads -/

/-- A queue word as it reads (R349). -/
def Ring.readWord (r : Ring) (launch : Bool) (word : Nat) : Word :=
  match word with
  | 0 => Sys2Proof.word r.base
  | 1 => r.ctl
  | 2 => r.tail.setWidth 64
  | _ => if launch then Sys2Proof.word (b2n r.terr * 2 ^ 32) else Sys2Proof.word r.ovf

/-- A configuration word as it reads (R353, R360, R368). -/
def Part.configRead (p : Part) (i : Nat) : Word :=
  if i < 7 then word (p.configWords.getD i 0)
  else if i = 7 then word p.pexp
  else if i = 8 then p.pcapt
  else 0

/-- A read in a partition's block (R346, R347). -/
def Mach.blockRead (m : Mach) (part off : Nat) : Word :=
  let p := m.dev.part part
  if 0x40 ≤ off ∧ off < 0x60 then p.lq.readWord true ((off - 0x40) / 8)
  else if 0x60 ≤ off ∧ off < 0x80 then p.fq.readWord false ((off - 0x60) / 8)
  else if off < 0x400 then m.partWord part (0x100 + off / 8)
  else if 0x800 ≤ off ∧ off < 0xC00 then p.configRead ((off - 0x800) / 8)
  else if 0xC00 ≤ off ∧ off < 0xC20 then p.plq.readWord true ((off - 0xC00) / 8)
  else 0

/-- A read in the package block (R343, R346, R358, R364). -/
def Mach.packageRead (m : Mach) (off : Nat) : Word :=
  if off = 0 then word m.dev.pkg.hostlink
  else if off = 8 then word m.dev.diestat
  else if 0x800 ≤ off ∧ off < 0x1000 then tget 0 m.dev.pkg.nodes ((off - 0x800) / 8)
  else 0

/-- A read of half a record (R146). -/
def Mach.slotRead (m : Mach) (bank : Nat) (high : Bool) : Word :=
  match m.dev.slotOf bank with
  | some r => word (if high then r.bits / 2 ^ 64 else r.bits)
  | none => 0

/-- A read through PF0's BAR0 (R346): every offset that holds no word reads 0. A read of WDAT0 fixes what the words beside it show
(R338). -/
def Mach.pfRead (m : Mach) (off : Nat) : Mach × Word :=
  if off < 0x100000 then (m, m.packageRead off)
  else if off < 0x110000 then (m, m.blockRead ((off - 0x100000) / 0x1000) (off % 0x1000))
  else if 0x200000 ≤ off ∧ off < 0x204000 ∧ off % 0x1000 < 0x400 then
    let die := (off - 0x200000) / 0x1000
    let cw := 0x180 + off % 0x1000 / 8
    (m.readDie die cw, m.dieWord die cw)
  else if 0x300000 ≤ off ∧ off < 0x304000 ∧ off % 0x1000 < 0x800 then
    (m, m.slotRead ((off - 0x300000) / 0x1000 * 128 + off % 0x1000 / 16) (off % 16 == 8))
  else (m, 0)

/-- A word of the MSI-X table as it reads (R347). -/
def Part.readMsix (p : Part) (off : Nat) : Word :=
  if off % 16 = 0 then tget 0 p.msixAddr (off / 16)
  else word (tget 0 p.msixData (off / 16) + b2n (bitOf p.msixMask (off / 16)) * 2 ^ 32)

/-- A read through the BAR0 of a partition's VF (R345, R347). -/
def Mach.vfRead (m : Mach) (part off : Nat) : Word :=
  let p := m.dev.part part
  if !(m.dev.vfOn part) then 0
  else if off < 0x20 then p.lq.readWord true (off / 8)
  else if off < 0x40 then p.fq.readWord false ((off - 0x20) / 8)
  else if off < 0x60 then m.partWord part (0x103 + (off - 0x40) / 8)
  else if off = 0x60 then m.partWord part 0x102
  else if 0x1000 ≤ off ∧ off < 0x1400 then p.readMsix (off - 0x1000)
  else if off = 0x2000 then word p.msixPend
  else 0

/-- A read of a word by the provider or by the host software of a partition (R346, R347). -/
def Mach.providerRead (m : Mach) (off : Nat) : Mach × Word :=
  if off % 8 ≠ 0 then (m, 0)
  else if off < vfBase then m.pfRead off
  else if off < vfBase + 16 * 2 ^ 14 then (m, m.vfRead ((off - vfBase) / 2 ^ 14) (off % 2 ^ 14))
  else (m, 0)

/-! ## Caps -/

/-- CAP_WINDOW_END (R354): a link's window ends, and every partition has its credit again. Links 0 to 15 are the peer ports, 16 the
host port, and from 17 on the bridges (log 42). -/
def execCapWindowEnd (link : Nat) (s : State) : Host.Outcome State Fault Refusal :=
  commit s ((Mach.of s).modPkg (fun p => { p with links := tdel p.links link }))

end Sys2Proof.Machine
end

