-- ==== Sys2Proof/Machine/Dispatch.lean ====
section
/-! DEFINITION. Dispatch: the meaning of each instruction, one arm a constructor. -/

namespace Sys2Proof.Machine

def exec (i : Instr) (s : State) : Host.Outcome State Fault Refusal :=
  match i with
  | .nop f => Sys2Proof.Machine.execNop f s
  | .add f => Sys2Proof.Machine.execAdd f s
  | .sub f => Sys2Proof.Machine.execSub f s
  | .and f => Sys2Proof.Machine.execAnd f s
  | .or f => Sys2Proof.Machine.execOr f s
  | .xor f => Sys2Proof.Machine.execXor f s
  | .shl f => Sys2Proof.Machine.execShl f s
  | .shr f => Sys2Proof.Machine.execShr f s
  | .sra f => Sys2Proof.Machine.execSra f s
  | .rotl f => Sys2Proof.Machine.execRotl f s
  | .min f => Sys2Proof.Machine.execMin f s
  | .max f => Sys2Proof.Machine.execMax f s
  | .minn f => Sys2Proof.Machine.execMinn f s
  | .maxn f => Sys2Proof.Machine.execMaxn f s
  | .mul f => Sys2Proof.Machine.execMul f s
  | .mulh f => Sys2Proof.Machine.execMulh f s
  | .mulhn f => Sys2Proof.Machine.execMulhn f s
  | .div f => Sys2Proof.Machine.execDiv f s
  | .divn f => Sys2Proof.Machine.execDivn f s
  | .rem f => Sys2Proof.Machine.execRem f s
  | .remn f => Sys2Proof.Machine.execRemn f s
  | .clz f => Sys2Proof.Machine.execClz f s
  | .popc f => Sys2Proof.Machine.execPopc f s
  | .brev f => Sys2Proof.Machine.execBrev f s
  | .sext f => Sys2Proof.Machine.execSext f s
  | .zext f => Sys2Proof.Machine.execZext f s
  | .cmp f => Sys2Proof.Machine.execCmp f s
  | .plog f => Sys2Proof.Machine.execPlog f s
  | .sel f => Sys2Proof.Machine.execSel f s
  | .addi f => Sys2Proof.Machine.execAddi f s
  | .andi f => Sys2Proof.Machine.execAndi f s
  | .ori f => Sys2Proof.Machine.execOri f s
  | .xori f => Sys2Proof.Machine.execXori f s
  | .shli f => Sys2Proof.Machine.execShli f s
  | .shri f => Sys2Proof.Machine.execShri f s
  | .srai f => Sys2Proof.Machine.execSrai f s
  | .muli f => Sys2Proof.Machine.execMuli f s
  | .ldi f => Sys2Proof.Machine.execLdi f s
  | .ldhi f => Sys2Proof.Machine.execLdhi f s
  | .br f => Sys2Proof.Machine.execBr f s
  | .call f => Sys2Proof.Machine.execCall f s
  | .jr f => Sys2Proof.Machine.execJr f s
  | .loop f => Sys2Proof.Machine.execLoop f s
  | .brq f => Sys2Proof.Machine.execBrq f s
  | .bopush f => Sys2Proof.Machine.execBopush f s
  | .post f => Sys2Proof.Machine.execPost f s
  | .await f => Sys2Proof.Machine.execAwait f s
  | .waitc f => Sys2Proof.Machine.execWaitc f s
  | .go f => Sys2Proof.Machine.execGo f s
  | .halt f => Sys2Proof.Machine.execHalt f s
  | .yield f => Sys2Proof.Machine.execYield f s
  | .bar f => Sys2Proof.Machine.execBar f s
  | .amode f => Sys2Proof.Machine.execAmode f s
  | .aadd f => Sys2Proof.Machine.execAadd f s
  | .astep f => Sys2Proof.Machine.execAstep f s
  | .ld f => Sys2Proof.Machine.execLd f s
  | .st f => Sys2Proof.Machine.execSt f s
  | .ldq f => Sys2Proof.Machine.execLdq f s
  | .stq f => Sys2Proof.Machine.execStq f s
  | .mark f => Sys2Proof.Machine.execMark f s
  | .fence f => Sys2Proof.Machine.execFence f s
  | .rinv f => Sys2Proof.Machine.execRinv f s
  | .pref f => Sys2Proof.Machine.execPref f s
  | .rpin f => Sys2Proof.Machine.execRpin f s
  | .runpin f => Sys2Proof.Machine.execRunpin f s
  | .atom f => Sys2Proof.Machine.execAtom f s
  | .red f => Sys2Proof.Machine.execRed f s
  | .redx f => Sys2Proof.Machine.execRedx f s
  | .rdx f => Sys2Proof.Machine.execRdx f s
  | .waita f => Sys2Proof.Machine.execWaita f s
  | .wset f => Sys2Proof.Machine.execWset f s
  | .wclr f => Sys2Proof.Machine.execWclr f s
  | .warm f => Sys2Proof.Machine.execWarm f s
  | .winfo f => Sys2Proof.Machine.execWinfo f s
  | .cpy f => Sys2Proof.Machine.execCpy f s
  | .cpySnk f => Sys2Proof.Machine.execCpySnk f s
  | .cpySrc f => Sys2Proof.Machine.execCpySrc f s
  | .cpy2 f => Sys2Proof.Machine.execCpy2 f s
  | .gath f => Sys2Proof.Machine.execGath f s
  | .scat f => Sys2Proof.Machine.execScat f s
  | .crcqSum f => Sys2Proof.Machine.execCrcqSum f s
  | .crcqPut f => Sys2Proof.Machine.execCrcqPut f s
  | .crcqSeed f => Sys2Proof.Machine.execCrcqSeed f s
  | .trset f => Sys2Proof.Machine.execTrset f s
  | .tradv f => Sys2Proof.Machine.execTradv f s
  | .trel f => Sys2Proof.Machine.execTrel f s
  | .qfence f => Sys2Proof.Machine.execQfence f s
  | .qbind f => Sys2Proof.Machine.execQbind f s
  | .csrr f => Sys2Proof.Machine.execCsrr f s
  | .csrw f => Sys2Proof.Machine.execCsrw f s
  | .csrs f => Sys2Proof.Machine.execCsrs f s
  | .csrc f => Sys2Proof.Machine.execCsrc f s
  | .trap f => Sys2Proof.Machine.execTrap f s
  | .bkpt f => Sys2Proof.Machine.execBkpt f s
  | .rmark f => Sys2Proof.Machine.execRmark f s
  | .ecall f => Sys2Proof.Machine.execEcall f s
  | .vadd f => Sys2Proof.Machine.execVadd f s
  | .vsub f => Sys2Proof.Machine.execVsub f s
  | .vmul f => Sys2Proof.Machine.execVmul f s
  | .vfma f => Sys2Proof.Machine.execVfma f s
  | .vmin f => Sys2Proof.Machine.execVmin f s
  | .vmax f => Sys2Proof.Machine.execVmax f s
  | .vabs f => Sys2Proof.Machine.execVabs f s
  | .vneg f => Sys2Proof.Machine.execVneg f s
  | .vand f => Sys2Proof.Machine.execVand f s
  | .vor f => Sys2Proof.Machine.execVor f s
  | .vxor f => Sys2Proof.Machine.execVxor f s
  | .vshl f => Sys2Proof.Machine.execVshl f s
  | .vshr f => Sys2Proof.Machine.execVshr f s
  | .vsra f => Sys2Proof.Machine.execVsra f s
  | .vsadd f => Sys2Proof.Machine.execVsadd f s
  | .vssub f => Sys2Proof.Machine.execVssub f s
  | .vcmp f => Sys2Proof.Machine.execVcmp f s
  | .vsel f => Sys2Proof.Machine.execVsel f s
  | .vmov f => Sys2Proof.Machine.execVmov f s
  | .vmovIns f => Sys2Proof.Machine.execVmovIns f s
  | .vsplat f => Sys2Proof.Machine.execVsplat f s
  | .viota f => Sys2Proof.Machine.execViota f s
  | .vcvt f => Sys2Proof.Machine.execVcvt f s
  | .vquant f => Sys2Proof.Machine.execVquant f s
  | .vdeq f => Sys2Proof.Machine.execVdeq f s
  | .vchk f => Sys2Proof.Machine.execVchk f s
  | .vclamp f => Sys2Proof.Machine.execVclamp f s
  | .vrcp f => Sys2Proof.Machine.execVrcp f s
  | .vrsq f => Sys2Proof.Machine.execVrsq f s
  | .vsqrt f => Sys2Proof.Machine.execVsqrt f s
  | .vexp2 f => Sys2Proof.Machine.execVexp2 f s
  | .vlog2 f => Sys2Proof.Machine.execVlog2 f s
  | .vsin f => Sys2Proof.Machine.execVsin f s
  | .vcos f => Sys2Proof.Machine.execVcos f s
  | .vtanh f => Sys2Proof.Machine.execVtanh f s
  | .vrrot f => Sys2Proof.Machine.execVrrot f s
  | .vrbc f => Sys2Proof.Machine.execVrbc f s
  | .vcrot f => Sys2Proof.Machine.execVcrot f s
  | .vcbc f => Sys2Proof.Machine.execVcbc f s
  | .vrred f => Sys2Proof.Machine.execVrred f s
  | .vrscan f => Sys2Proof.Machine.execVrscan f s
  | .vcred f => Sys2Proof.Machine.execVcred f s
  | .vcscan f => Sys2Proof.Machine.execVcscan f s
  | .vtrn f => Sys2Proof.Machine.execVtrn f s
  | .vwmax f => Sys2Proof.Machine.execVwmax f s
  | .vwmin f => Sys2Proof.Machine.execVwmin f s
  | .vwmed f => Sys2Proof.Machine.execVwmed f s
  | .vwssum f => Sys2Proof.Machine.execVwssum f s
  | .vwclamp f => Sys2Proof.Machine.execVwclamp f s
  | .vadj f => Sys2Proof.Machine.execVadj f s
  | .vwout f => Sys2Proof.Machine.execVwout f s
  | .vwin f => Sys2Proof.Machine.execVwin f s
  | .vldw f => Sys2Proof.Machine.execVldw f s
  | .vstw f => Sys2Proof.Machine.execVstw f s
  | .vpopq f => Sys2Proof.Machine.execVpopq f s
  | .vpushq f => Sys2Proof.Machine.execVpushq f s
  | .vcpush f => Sys2Proof.Machine.execVcpush f s
  | .vcpop f => Sys2Proof.Machine.execVcpop f s
  | .mldw f => Sys2Proof.Machine.execMldw f s
  | .mswap f => Sys2Proof.Machine.execMswap f s
  | .mmul f => Sys2Proof.Machine.execMmul f s
  | .mzero f => Sys2Proof.Machine.execMzero f s
  | .mrd f => Sys2Proof.Machine.execMrd f s
  | .mrdq f => Sys2Proof.Machine.execMrdq f s
  | .mmode f => Sys2Proof.Machine.execMmode f s
  | .mchain f => Sys2Proof.Machine.execMchain f s
  | .kbind f => Sys2Proof.Machine.execKbind f s
  | .krel f => Sys2Proof.Machine.execKrel f s
  | .kgen f => Sys2Proof.Machine.execKgen f s
  | .msolve f => Sys2Proof.Machine.execMsolve f s
  | .mstat f => Sys2Proof.Machine.execMstat f s
  | .msamp f => Sys2Proof.Machine.execMsamp f s
  | .postTakesEffect bank unit => Sys2Proof.Machine.execPostTakesEffect bank unit s
  | .waitaBoundExpiry bank => Sys2Proof.Machine.execWaitaBoundExpiry bank s
  | .waitaReturn bank => Sys2Proof.Machine.execWaitaReturn bank s
  | .engineCommandStart bank queue => Sys2Proof.Machine.execEngineCommandStart bank queue s
  | .engineCommandComplete bank queue => Sys2Proof.Machine.execEngineCommandComplete bank queue s
  | .enginePageFault bank queue => Sys2Proof.Machine.execEnginePageFault bank queue s
  | .trailRowArrival bank trail row => Sys2Proof.Machine.execTrailRowArrival bank trail row s
  | .drainRowWritten bank trail row => Sys2Proof.Machine.execDrainRowWritten bank trail row s
  | .ecallAnswer bank => Sys2Proof.Machine.execEcallAnswer bank s
  | .matrixEntryStart bank => Sys2Proof.Machine.execMatrixEntryStart bank s
  | .matrixEntryComplete bank entry => Sys2Proof.Machine.execMatrixEntryComplete bank entry s
  | .loadPerformed bank unit id => Sys2Proof.Machine.execLoadPerformed bank unit id s
  | .eccuDataDelivery bank unit pos pa => Sys2Proof.Machine.execEccuDataDelivery bank unit pos pa s
  | .storePerformed bank unit id => Sys2Proof.Machine.execStorePerformed bank unit id s
  | .leadEntryWriteArrival die slice => Sys2Proof.Machine.execLeadEntryWriteArrival die slice s
  | .triggerClose bank => Sys2Proof.Machine.execTriggerClose bank s
  | .rateWindowReset die slice => Sys2Proof.Machine.execRateWindowReset die slice s
  | .lqTailWrite part prov value => Sys2Proof.Machine.execLqTailWrite part prov value s
  | .launchEntryRead part prov => Sys2Proof.Machine.execLaunchEntryRead part prov s
  | .gangSubmission die => Sys2Proof.Machine.execGangSubmission die s
  | .versionCopyComplete part plot version => Sys2Proof.Machine.execVersionCopyComplete part plot version s
  | .gangReady gang => Sys2Proof.Machine.execGangReady gang s
  | .basketUp quadLevel unit => Sys2Proof.Machine.execBasketUp quadLevel unit s
  | .basketDown quadLevel unit => Sys2Proof.Machine.execBasketDown quadLevel unit s
  | .dispatch bank => Sys2Proof.Machine.execDispatch bank s
  | .overlayLoad bank => Sys2Proof.Machine.execOverlayLoad bank s
  | .taskStart gang => Sys2Proof.Machine.execTaskStart gang s
  | .taskRetire bank => Sys2Proof.Machine.execTaskRetire bank s
  | .gangCompletion gang => Sys2Proof.Machine.execGangCompletion gang s
  | .gateRead gang => Sys2Proof.Machine.execGateRead gang s
  | .versionPublication part plot => Sys2Proof.Machine.execVersionPublication part plot s
  | .graphAccept die => Sys2Proof.Machine.execGraphAccept die s
  | .graphTaskNode graph node => Sys2Proof.Machine.execGraphTaskNode graph node s
  | .graphJoinNode graph node => Sys2Proof.Machine.execGraphJoinNode graph node s
  | .graphIfNode graph node => Sys2Proof.Machine.execGraphIfNode graph node s
  | .graphSwitchNode graph node => Sys2Proof.Machine.execGraphSwitchNode graph node s
  | .graphWhileNode graph node => Sys2Proof.Machine.execGraphWhileNode graph node s
  | .graphNodeSkip graph node => Sys2Proof.Machine.execGraphNodeSkip graph node s
  | .graphComplete graph => Sys2Proof.Machine.execGraphComplete graph s
  | .bind bank record => Sys2Proof.Machine.execBind bank record s
  | .preempt bank record => Sys2Proof.Machine.execPreempt bank record s
  | .reserve bank record => Sys2Proof.Machine.execReserve bank record s
  | .drain bank record => Sys2Proof.Machine.execDrain bank record s
  | .save bank record => Sys2Proof.Machine.execSave bank record s
  | .restore bank => Sys2Proof.Machine.execRestore bank s
  | .bankSwitchIn bank => Sys2Proof.Machine.execBankSwitchIn bank s
  | .rangerQuantumEnd part => Sys2Proof.Machine.execRangerQuantumEnd part s
  | .faultRecordWrite part => Sys2Proof.Machine.execFaultRecordWrite part s
  | .fansCont part value => Sys2Proof.Machine.execFansCont part value s
  | .fansRetire part value => Sys2Proof.Machine.execFansRetire part value s
  | .fansAerrClear part value => Sys2Proof.Machine.execFansAerrClear part value s
  | .rangerPagePlace part seq => Sys2Proof.Machine.execRangerPagePlace part seq s
  | .tinv part whole lo len => Sys2Proof.Machine.execTinv part whole lo len s
  | .hotPageEpochEnd die => Sys2Proof.Machine.execHotPageEpochEnd die s
  | .migration die => Sys2Proof.Machine.execMigration die s
  | .migrationComplete die => Sys2Proof.Machine.execMigrationComplete die s
  | .freqGive part value => Sys2Proof.Machine.execFreqGive part value s
  | .freqTake part value => Sys2Proof.Machine.execFreqTake part value s
  | .resizeGo part => Sys2Proof.Machine.execResizeGo part s
  | .hostMemRead addr size => Sys2Proof.Machine.execHostMemRead addr size s
  | .hostMemWrite addr data => Sys2Proof.Machine.execHostMemWrite addr data s
  | .hostSnoop addr invalidate => Sys2Proof.Machine.execHostSnoop addr invalidate s
  | .lineWriteback part line => Sys2Proof.Machine.execLineWriteback part line s
  | .msixUnmask part vector => Sys2Proof.Machine.execMsixUnmask part vector s
  | .peerRead f => Sys2Proof.Machine.execPeerRead f s
  | .peerWrite f => Sys2Proof.Machine.execPeerWrite f s
  | .peerAtom f => Sys2Proof.Machine.execPeerAtom f s
  | .peerRed f => Sys2Proof.Machine.execPeerRed f s
  | .peerReadData f => Sys2Proof.Machine.execPeerReadData f s
  | .peerWriteDone f => Sys2Proof.Machine.execPeerWriteDone f s
  | .peerError f => Sys2Proof.Machine.execPeerError f s
  | .peerAckFlit f => Sys2Proof.Machine.execPeerAckFlit f s
  | .dieStop die unit pa => Sys2Proof.Machine.execDieStop die unit pa s
  | .attestRequest value => Sys2Proof.Machine.execAttestRequest value s
  | .providerWordWrite offset value => Sys2Proof.Machine.execProviderWordWrite offset value s
  | .recNone bank record => Sys2Proof.Machine.execRecNone bank record s
  | .attestDone => Sys2Proof.Machine.execAttestDone s
  | .reset => Sys2Proof.Machine.execReset s
  | .backInvalidateAnswer line => Sys2Proof.Machine.execBackInvalidateAnswer line s
  | .flitRetry port => Sys2Proof.Machine.execFlitRetry port s
  | .bistBankTest stack pch bank found => Sys2Proof.Machine.execBistBankTest stack pch bank found s
  | .capWindowEnd link => Sys2Proof.Machine.execCapWindowEnd link s

end Sys2Proof.Machine
end

