-- ==== Sys2Proof/Machine/Clock.lean ====
section
/-! DEFINITION. Clock: the parts of a clock of a running bank and its end, when the writes of control words are applied
(R31, R170, R226, R305, R332). -/

namespace Sys2Proof.Machine

/-- Masks of VCHK words written on this clock set NF, whatever a write of this clock cleared (R283, R332). -/
def VecState.setNf (v : VecState) (clk : Nat) : VecState :=
  { v with nf := nfWrite v.nf false (v.nfAt.any (fun t => decide (t ≤ clk))), nfAt := v.nfAt.filter (fun t => decide (clk < t)) }

/-- The trail numbers whose TREL issued on this clock are free from now on (R265, R300). -/
def Bank.freeTrails (k : Bank) : Bank :=
  { k with trails := k.trels.foldl (fun t n => tput t n { tget Trail.start t n with isSet := false }) k.trails, trels := [] }

/-- The clock is counted: CYC of every sequencer, the bank's own count, and the clocks that hold up a matrix entry (R46, R47,
R307). -/
def Bank.tick (k : Bank) : Bank :=
  { (k.mapSeqs (fun _ s => { s with cyc := s.cyc + 1 })).freeTrails with
    clk := k.clk + 1, phase := .main, slot := .K, vec := k.vec.setNf k.clk, mat := k.mat.tick }

/-- The end of a clock of a running bank: the clock's traps give the trap record (R170), K's marks are recorded (R340), its
writes of control words are applied (R332), CYC counts it (R46, R47), and a trap, a YIELD (R229) or the park of every
sequencer (R173) ends the run. -/
def Mach.clockEnd (m : Mach) (b : Nat) : Mach :=
  let k0 := m.bank b
  let m0 := if k0.traps.isEmpty then m else m.takeTraps b
  let m1 := ((m0.formMarks k0.k.accs.length b).csrApplyAll b).modBank b Bank.tick
  let k := m1.bank b
  let p := m1.bank (partner b)
  if !k0.traps.isEmpty then m1
  else if k.yielding then m1.rest b .ready .none
  else if k.allParked && p.status == .ready && decide (k.prio < p.prio) then m1.rest b .waiting .parked
  else m1

/-- The next part of a clock. -/
def Mach.nextPhase (m : Mach) (b : Nat) (p : Phase) : Mach := m.modBank b (fun k => { k with phase := p, slot := .K })

/-- The bound of a parked WAITA has passed, so its return with BOUND is due (R166). -/
def Bank.boundDue (k : Bank) : Bool :=
  match k.k.waita with
  | some w => w.outcome.isNone && w.expired k.k.cyc
  | none => false

/-- What is due on a clock happens on it. A clock begins once entries whose count has passed have completed (R307) and a park
whose bound has passed has its outcome (R166); it passes the matrix queue once no entry has to start or can go on (R305,
R306). -/
def Mach.blocked (m : Mach) (b : Nat) : Bool :=
  let k := m.bank b
  k.status == .running && ((k.between && (k.boundDue || (k.mat.queue.take 2).any (fun e => k.completes e))) ||
    (k.phase == .close && m.matrixDue b))

/-- The next opportunity on the clock: K, L, X and D for every word but AWAIT, K, L, X and D for AWAIT (R226), then the matrix
queue (R305), the other engines (R103) and the end of the clock. -/
def Mach.nextSlot (m : Mach) (b : Nat) : Mach :=
  let k := m.bank b
  if k.status != .running then m
  else
    match k.phase, k.slot with
    | .engines, _ => m.clockEnd b
    | .close, _ => m.nextPhase b .engines
    | _, .K => m.modBank b (fun k => { k with slot := .L })
    | _, .L => m.modBank b (fun k => { k with slot := .X })
    | _, .X => m.modBank b (fun k => { k with slot := .D })
    | .main, .D => m.nextPhase b .await
    | .await, .D => m.nextPhase b .close

end Sys2Proof.Machine
end

