-- ==== Sys2Proof/Machine/Fetch.lean ====
section
/-! DEFINITION. Fetch: the word at a sequencer's position and what becomes of bits that give no instruction (R17, R115,
R207), and how the next turn is found. -/

namespace Sys2Proof.Machine

/-- The next turn: the head of the agenda, else the free choice of timing and the outside world (log 1). -/
def State.turn (s : State) : Turn :=
  match s.dev.agenda with
  | t :: _ => t
  | [] => Config.freeTurn s.dev.ticks

/-- The state once its turn is chosen. -/
def State.take (s : State) : State :=
  { s with dev := { s.dev with agenda := s.dev.agenda.tail, ticks := s.dev.ticks + 1 } }

/-- Naming the sequencer that has the next issue opportunity of a bank: K, L, X and D in turn (R31, R170). With K's the
clock begins: the words that the device updates are kept as they stood before it (R332). -/
def State.point (s : State) (b : Nat) : State :=
  let k := tget .empty s.dev.banks b
  { s with dev := { s.dev with
      actBank := b, actSeq := k.slot,
      banks := if k.phase == .main && k.slot == .K then tput s.dev.banks b { k with before := k.snapshot (s.dev.part k.part).log } else s.dev.banks } }

/-- What a sequencer finds at its position. -/
inductive Fetched where
  /-- The sequencer does not issue on this clock. -/
  | idle
  /-- A decoded instruction. -/
  | instr (i : Instr)
  /-- The word traps. -/
  | bad (t : TrapEnt)
  deriving Repr

/-- The word is an AWAIT: its opportunity comes in the second part of the clock (R226). -/
def isAwait (w : Word) : Bool :=
  match decodeWord w with
  | .ok (.await _) => true
  | _ => false

/-- The fetch of the acting sequencer. A word that is no instruction traps on the clock on which it would issue, once its
predicate is in place (R169, R185): poison first (R115), then the steps of R207. -/
def State.fetch (s : State) : Fetched :=
  let c := (Mach.of s).ctx
  if !(c.k.open c.q) || c.k.phase == .close || c.k.phase == .engines then .idle
  else
    match c.s.code[c.s.pos]? with
    | none => if c.k.clk < c.s.prevClk + c.s.prevOcc || c.k.phase == .await then .idle else .bad (c.trap .illegal)
    | some w =>
      let n := w.toNat
      let op := fld n 46 8
      if c.k.clk < c.s.earliest (unpackHdr n) || (isAwait w && (tfind c.s.poison c.s.pos).isNone) != (c.k.phase == .await) then .idle
      else
        match tfind c.s.poison c.s.pos with
        | some pa => .bad { c.trap .eccu with poison := true, pa := pa }
        | none =>
          match decodeWord w with
          | .ok i => .instr i
          | .error _ =>
            if (unpackHdr n).pred != 0 && !(c.s.keyReady c.k.clk (64 + (unpackHdr n).pred.toNat)) then .idle
            else .bad (c.trap (if opAssigned op && !(opStreams op (fld n 34 8) c.q) then .streamx else .illegal))

/-- Recording the trap of a word that is no instruction. -/
def State.badWord (s : State) (t : TrapEnt) : State := (Mach.of s).addTrap s.dev.actBank t |>.close s

/-- After the acting sequencer's opportunity: the next sequencer's, or the end of the clock (R170). -/
def State.advance (s : State) (b : Nat) : State := ((Mach.of s).nextSlot b).close s

/-- Whether the device answers configuration reads alone (R376). -/
def Dev.stoppedDevice (d : Dev) : Bool := d.pkg.err == 1 || d.pkg.err == 2

/-- Something is due on a bank's clock (R166, R305, R307). -/
def State.blocked (s : State) (b : Nat) : Bool := (Mach.of s).blocked b

/-- The sequencer that a word may be placed in: the first that may issue it. -/
def seqFor (w : Nat) : Seq := ([Seq.K, .L, .X, .D].find? (opStreams (fld w 46 8) (fld w 34 8))).getD .K

/-- A running bank 0 whose sequencer `q` is about to issue the word. -/
def Bank.atWord (k : Bank) (w : Nat) (q : Seq) : Bank :=
  let k' : Bank := { k with status := .running, why := .none, slot := q, clk := (k.seq q).earliest (unpackHdr w) }
  { k' with phase := if isAwait (word w) then .await else .main }.setSeq q { k'.seq q with code := [word w], poison := [], pos := 0, released := true, halted := false }

end Sys2Proof.Machine
end

