-- ==== Sys2Proof/Machine/Turns.lean ====
section
/-! DEFINITION. Turns: the turns that are no opcode-table row: acting on a bind record (R146, R147), and replacements
that caches make on their own (R99, R106) and what the retention ways find full (R98). -/

namespace Sys2Proof.Machine

/-- The device acts on a pending bind record (R146). -/
def recordTurn (b : Nat) (s : State) : Host.Outcome State Fault Refusal := commit s ((Mach.of s).actRecord b)

/-- A TLB entry is replaced (R106). -/
def evictTlbTurn (core entry : Nat) (s : State) : Host.Outcome State Fault Refusal :=
  commit s ((Mach.of s).modCore core (fun k => { k with tlb := k.tlb.eraseIdx entry }))

/-- A micro-TLB entry is replaced (R106). -/
def evictUtlbTurn (core entry : Nat) (s : State) : Host.Outcome State Fault Refusal :=
  commit s ((Mach.of s).modCore core (fun k => { k with utlb := k.utlb.eraseIdx entry }))

/-- A cached table entry is replaced (R106). -/
def evictTableTurn (core entry : Nat) (s : State) : Host.Outcome State Fault Refusal :=
  commit s ((Mach.of s).modCore core (fun k => { k with tcache := k.tcache.eraseIdx entry }))

/-- A line of K's L1 is replaced (R99). -/
def evictLineTurn (core line : Nat) (s : State) : Host.Outcome State Fault Refusal :=
  commit s ((Mach.of s).modCore core (fun k => { k with l1 := tdel k.l1 line }))

/-- A range of the partition that is active covers an address whose home is the slice (R98). -/
def Dev.pinnedAt (d : Dev) (slice : Nat) : Bool :=
  d.parts.any (fun e => e.2.pins.any (fun p => p.2.pages.any (fun x => d.home x.2 (some e.1) == slice)))

/-- A retained line finds every retention way of its set taken by lines of active ranges (R98): the pin-overflow count of a slice
that is home to an active range advances. -/
def pinOverflowTurn (slice : Nat) (s : State) : Host.Outcome State Fault Refusal :=
  let m := Mach.of s
  commit s (if slice < 320 && m.dev.pinnedAt slice then
      m.modSlice slice (fun k => { k with pinOvf := k.pinOvf + 1 })
    else m)

/-- The walk that a word waits for is made (R44, R106). -/
def walkTurn (b : Nat) (q : Seq) (s : State) : Host.Outcome State Fault Refusal := commit s ((Mach.of s).walkFor b q)

/-- The oldest logbook record that waits for its slot is written (R342). -/
def logTurn (part : Nat) (s : State) : Host.Outcome State Fault Refusal := commit s ((Mach.of s).logNext part)

/-- An uncorrectable error strikes a sector (R362, R363). -/
def upsetTurn (sector : Nat) (s : State) : Host.Outcome State Fault Refusal := commit s ((Mach.of s).upset sector)

/-- The host reads a word of the provider control space or of a VF's BAR (R346, R347), and is answered with it. -/
def readWordTurn (offset : Nat) (s : State) : Host.Outcome State Fault Refusal :=
  commit s ((Mach.of s).fromHost (fun m =>
    let r := m.providerRead offset
    r.1.modPkg (fun p => { p with hostReply := leBytes 8 r.2.toNat, hostPoison := false, unsupported := false })))

/-- What the host asks of the device. -/
def isRequest : Instr → Bool
  | .hostMemRead _ _ | .hostMemWrite _ _ | .hostSnoop _ _ | .lqTailWrite _ _ _ | .fansCont _ _ | .fansRetire _ _
  | .fansAerrClear _ _ | .freqGive _ _ | .freqTake _ _ | .resizeGo _ | .bind _ _ | .preempt _ _ | .reserve _ _ | .drain _ _
  | .save _ _ | .recNone _ _ | .attestRequest _ | .providerWordWrite _ _ | .msixUnmask _ _ => true
  | _ => false

/-- A request of the host is completed with unsupported-request status (R376). -/
def Mach.unsupportedRequest (m : Mach) : Mach :=
  m.fromHost (fun m => m.modPkg (fun p => { p with hostReply := [], hostPoison := false, unsupported := true }))

/-- A turn of a device that bring-up has stopped (R376): a request of the host over a port with a trained module is completed with
unsupported-request status, and nothing else happens. -/
def stoppedTurn (t : Turn) (s : State) : Host.Outcome State Fault Refusal :=
  let m := Mach.of s
  commit s (match t with
    | .event i => if isRequest i then m.unsupportedRequest else m
    | .readWord _ => m.unsupportedRequest
    | _ => m)

end Sys2Proof.Machine
end

