-- ==== Sys2Proof/Machine/Step.lean ====
section
/-! DEFINITION. Step: one step of the device: the turn that is next, and what it does. -/

namespace Sys2Proof.Machine

open Host (Outcome)

/-- The issue opportunity of a bank's next sequencer: the word it fetches is executed, and the opportunity passes on. Nothing
passes while something is due on the clock. -/
def issueTurn (b : Nat) (s : State) : Outcome State Fault Refusal :=
  if s.blocked b then .next s else
  let s := s.point b
  match s.fetch with
  | .idle => .next (s.advance b)
  | .bad t => .next ((s.badWord t).advance b)
  | .instr i =>
    match exec i s with
    | .next s' => .next (s'.advance b)
    | .fault f => .fault f
    | .refused r => .refused r

/-- A turn. -/
def runTurn (t : Turn) (s : State) : Outcome State Fault Refusal :=
  match t with
  | .issue b => issueTurn b s
  | .event i => exec i s
  | .record b => recordTurn b s
  | .evictTlb c e => evictTlbTurn c e s
  | .evictUtlb c e => evictUtlbTurn c e s
  | .evictTable c e => evictTableTurn c e s
  | .evictLine c l => evictLineTurn c l s
  | .pinOverflow n => pinOverflowTurn n s
  | .walk b q => walkTurn b q s
  | .logRecord p => logTurn p s
  | .upset n => upsetTurn n s
  | .readWord n => readWordTurn n s

/-- Whether a turn is a reset, which alone a stopped device still takes. -/
def isReset : Turn → Bool
  | .event .reset => true
  | _ => false

/-- One step. -/
def step (s : State) : Outcome State Fault Refusal :=
  if s.dev.stoppedDevice && !(isReset s.turn) then stoppedTurn s.turn s.take else runTurn s.turn s.take

/-- The instruction of these bits placed as the next word that bank 0 issues. The sequencer is the first that may issue
it. -/
def State.withFetchWord (s : State) (_nbits w : Nat) : State :=
  { s with dev := { s.dev with
      banks := tput s.dev.banks 0 ((tget .empty s.dev.banks 0).atWord w (seqFor w)), agenda := [.issue 0] } }

end Sys2Proof.Machine
end

