-- ==== Sys2Proof/Safety.lean ====
section
/-! DEFINITION. Safety: the terms that claims use: a legal memory, what it takes for a word to issue, the state that a word
leaves when it touches its own bank alone, and what a frame leaves alone. -/

namespace Sys2Proof.Machine

/-- Memory is in its canonical form: addresses strictly rise and no entry equals what an unlisted address reads as. -/
def State.MemOk (s : State) : Prop := Memory.wf s.mem = true

/-- States that a run of `n` steps from `s` reaches. -/
def Reaches (s : State) : Nat → State → Prop
  | 0, t => t = s
  | n + 1, t => ∃ u, Reaches s n u ∧ step u = .next t

/-! ## The acting sequencer -/

/-- The acting bank. -/
def State.bank (s : State) : Bank := tget .empty s.dev.banks s.dev.actBank

/-- The acting sequencer's registers. -/
def State.seq (s : State) : SeqState := s.bank.seq s.dev.actSeq

/-- The state with another acting bank. -/
def State.setBank (s : State) (k : Bank) : State :=
  { s with dev := { s.dev with banks := tput s.dev.banks s.dev.actBank k } }

/-- The time of a word has come: its sequencer can issue on this clock (R42, R48), the idle clocks and the occupancy of the word
before have passed (R43), and its predicate is in place (R44, R185). -/
def State.opens (s : State) (i : Instr) : Bool :=
  s.bank.open s.dev.actSeq && decide (s.seq.earliest (hdrOf i) ≤ s.bank.clk) &&
    ((hdrOf i).pred == 0 || s.seq.keyReady s.bank.clk (64 + (hdrOf i).pred.toNat))

/-- The time of a word has come and steps 2 to 4 of R207 hold. -/
def State.reaches (s : State) (i : Instr) : Bool :=
  s.opens i && streamsOk i s.dev.actSeq && legalOn i s.dev.actSeq && privOk s.bank.prov s.dev.actSeq i

/-- No older QFENCE of the sequencer holds the word back (R266). -/
def State.unfenced (s : State) (i : Instr) : Bool := !(fencedOf i) || !((Mach.of s).fenced (Mach.of s).ctx)

/-- The word issues on this clock with a true predicate (R185), but for what its own description asks. -/
def State.issues (s : State) (i : Instr) : Bool := s.reaches i && s.seq.pred (hdrOf i) && s.unfenced i

/-- The word issues on this clock with a false predicate (R185). -/
def State.skips (s : State) (i : Instr) : Bool := s.reaches i && !s.seq.pred (hdrOf i)

/-- The clock on which a word would otherwise issue, on which its traps are detected (R169): its time has come and, where its
predicate is true, no older QFENCE and no stall of its own holds it. -/
def State.wouldIssue (s : State) (i : Instr) (stalls : Bool) : Bool :=
  s.opens i && (!s.seq.pred (hdrOf i) || (s.unfenced i && !stalls))

/-- The cause of the first of steps 2 to 4 of R207 that fails for a word. -/
def State.Fails (s : State) (i : Instr) (c : Cause) : Prop :=
  (c = .streamx ∧ streamsOk i s.dev.actSeq = false) ∨
  (c = .illegal ∧ streamsOk i s.dev.actSeq = true ∧ legalOn i s.dev.actSeq = false) ∨
  (c = .priv ∧ streamsOk i s.dev.actSeq = true ∧ legalOn i s.dev.actSeq = true ∧ privOk s.bank.prov s.dev.actSeq i = false)

/-! ## Operands and results -/

/-- The values of source fields read in order, an element popped for each stream register that may be popped, with the bank that
the pops leave (R195, R196, R268). -/
def State.fetched (s : State) (srcs : List RegF) : Option (List Word × Bank) :=
  fetchFields s.dev.actSeq s.bank (srcs.filter (fun f => !(s.bank.srcRefused f)))

/-- The registers of a word hold it up (R44): one that it names is not in place (R211), a stream register that it may pop has no
element in place (R196), or one that it may push has no room for `n` elements. -/
def State.waits (s : State) (srcs : List RegF) (dst : RegF) (n : Nat) : Bool :=
  !((dst :: srcs).all (fun f => isQ f || s.seq.keyReady s.bank.clk f.toNat)) ||
    match s.fetched srcs with
    | none => true
    | some (_, k) => isQ dst && !(s.bank.dstRefused dst) && decide (k.room (qNum dst) < n)

/-- The binding of a stream register refuses a pop or a push of a word (R268). -/
def State.refuses (s : State) (srcs : List RegF) (dst : RegF) (n : Nat) : Bool :=
  srcs.any s.bank.srcRefused || (s.bank.dstRefused dst && decide (0 < n))

/-- The operands of a word, where nothing holds it up and no binding refuses it: the values and the bank that the pops leave. -/
def State.sources (s : State) (srcs : List RegF) (dst : RegF) (n : Nat) : Option (List Word × Bank) :=
  if s.waits srcs dst n || s.refuses srcs dst n then none else s.fetched srcs

/-- A bank after a result of latency `lat` for a register field: g0 discards, an address register takes the value alone, and
a stream register takes an element that is in place from then on (R195, R211). -/
def Bank.result (k : Bank) (q : Seq) (dst : RegF) (lat : Nat) (v : Word) : Bank :=
  if dst.toNat = 0 then k
  else if dst.toNat < 32 then k.setSeq q (((k.seq q).putG dst.toNat v).later k.clk dst.toNat lat)
  else if dst.toNat < 48 then k.setSeq q (((k.seq q).putA (dst.toNat - 32) v).later k.clk dst.toNat lat)
  else k.push (qNum dst) { val := v, wait := none, ready := k.clk + lat }

/-- A bank whose sequencer's word has issued: the clock and the occupancy of the issue, and the next position: `next` where
the word says so, else the word after, or the start of a loop body that ends here (R43, R220, R222). -/
def Bank.issued (k : Bank) (q : Seq) (occ : Nat) (next : Option Nat) : Bank := k.setSeq q ((k.seq q).retire k.clk occ next)

/-- A bank whose sequencer has left the loop bodies that do not hold the target of a transfer, from the innermost (R223). -/
def Bank.leaveLoops (k : Bank) (q : Seq) (t : Nat) : Bank :=
  k.setSeq q { k.seq q with loops := (k.seq q).loops.dropWhile (fun e => decide (t < e.start) || decide (e.stop < t)) }

/-- The state after a word that changes its own bank alone: `k` is that bank as the word leaves it. -/
def State.wordDone (s : State) (k : Bank) (occ : Nat) (next : Option Nat) : State :=
  s.setBank (k.issued s.dev.actSeq occ next)

/-- The state after a word that traps: the trap waits for the end of the clock (R169, R170). -/
def State.trapped (s : State) (t : TrapEnt) : State := s.setBank { s.bank with traps := s.bank.traps ++ [t] }

/-- A trap of the acting sequencer at its word. -/
def State.trapOf (s : State) (cause : Cause) : TrapEnt := (Mach.of s).ctx.trap cause

/-- The state with another bank `b`. -/
def State.withBank (s : State) (b : Nat) (k : Bank) : State :=
  { s with dev := { s.dev with banks := tput s.dev.banks b k } }

/-! ## Memory words -/

/-- Translate(va, kind) for the word of the acting sequencer (R105, R106, R137): what its translation unit holds, or how a walk
that it waited for was refused; none where its walk is still to be made (R44). -/
def State.translation (s : State) (va : Nat) (kind : Kind) : Option (Except TransErr Xlat) :=
  match (Mach.of s).xlateWord s.dev.actBank s.dev.actSeq va kind with
  | some r => some r.2
  | none =>
    match s.seq.walk with
    | some w => if w.va = va ∧ w.kind = kind then w.refused.map .error else none
    | none => none

/-- The state in which a word waits for a walk (R44): the walk is noted, unless it is under way. -/
def State.walking (s : State) (va : Nat) (kind : Kind) : State :=
  if ∃ w ∈ s.seq.walk, w.va = va ∧ w.kind = kind then s
  else s.setBank (s.bank.setSeq s.dev.actSeq { s.seq with walk := some { va := va, kind := kind, refused := none } })

/-- Every access that a sequencer has queued is performed (R125): what is left are MARK, FENCE and RMARK entries. -/
def SeqState.allPerformed (t : SeqState) : Prop := ∀ a ∈ t.accs, a.kind = .mark ∨ a.kind = .fence ∨ a.kind = .rmark

/-- A bank whose sequencer has passed its older QFENCE (R266). -/
def Bank.passed (k : Bank) (q : Seq) : Bank := k.setSeq q { k.seq q with qfence := none }

/-- The post-update of BASE, where it names an address register (R190, R233). -/
def Bank.postUpdated (k : Bank) (q : Seq) (base : RegF) : Bank :=
  if isA base then
    k.setSeq q ((k.seq q).putA (base.toNat - 32)
      (((k.seq q).areg (base.toNat - 32)).update ((k.seq q).areg (base.toNat - 32)).step))
  else k

/-- An access enters the queues of its sequencer, and the counters LDC and STC (R227, R237). -/
def Bank.queued (k : Bank) (q : Seq) (a : Acc) (ldc stc : Nat) : Bank :=
  let k' : Bank := { k with nextId := k.nextId + 1, ldc := k.ldc + ldc, stc := k.stc + stc }
  k'.setSeq q { k'.seq q with accs := (k'.seq q).accs ++ [a] }

/-- A destination of a result that comes later: g0 discards, a register awaits it, a stream register gives `n` slots (R196,
R240). -/
def Bank.awaiting (k : Bank) (q : Seq) (dst : RegF) (n id : Nat) : Bank :=
  if dst.toNat = 0 then k
  else if dst.toNat < 48 then k.setSeq q { k.seq q with awaits := (dst.toNat, id) :: (k.seq q).awaits }
  else k.reserve (qNum dst) n id

/-- What stands at `n` bytes of memory, little-endian (R14). -/
def State.le (s : State) (pa n : Nat) : Nat := leNat ((List.range n).map (fun i => memGet s.mem (pa + i)))

/-- Memory after the bytes `bs` are written at `pa`: those bytes, and every other byte as before. -/
def State.Wrote (s t : State) (pa : Nat) (bs : List Byte) : Prop :=
  ∀ a, memGet t.mem a = if pa ≤ a ∧ a < pa + bs.length then bs.getD (a - pa) 0 else memGet s.mem a

/-- A range of HBM that a read of a bank's task reaches now: the host does not hold it under CXL.cache (R342), the caps let it by
(R354), and it has no poison (R363). -/
def State.plain (s : State) (b pa n : Nat) : Bool :=
  isHbm pa && !((Mach.of s).readHeld ((tget .empty s.dev.banks b).by b) 0 pa n) && ((Mach.of s).poisoned pa n).isNone

/-- A range of HBM that a write of a bank's task reaches now: as for a read, and no atomic is half performed there (R128). -/
def State.plainStore (s : State) (b pa n : Nat) : Bool :=
  isHbm pa && !((Mach.of s).storeHeld ((tget .empty s.dev.banks b).by b) 0 0 pa n) && ((Mach.of s).poisoned pa n).isNone

/-- What a sequencer's queue holds once entries have left it: MARK and FENCE entries that hold back nothing more have left too
(R123). -/
def State.trimmed (s : State) (b : Nat) (accs : List Acc) : List Acc :=
  (Mach.of s).trimAccs (tget Bank.empty s.dev.banks b).part accs

/-- No capture and no replay for the task of a bank (R368). -/
def State.uncaptured (s : State) (b : Nat) : Bool := !bitOf ((Mach.of s).pcaptOf b) 0 && !bitOf ((Mach.of s).pcaptOf b) 1

/-! ## Engines -/

/-- A command enters a copy queue and CPC (R227, R256). -/
def Bank.commanded (k : Bank) (n : Nat) (d : Cmd) : Bank :=
  { k with nextId := k.nextId + 1, cpc := k.cpc + 1, copyq := tput k.copyq n { k.copy n with cmds := (k.copy n).cmds ++ [d] } }

/-- An address that the TLB of a bank's core holds: it translates to `x`, and the core's translation unit stays (R106). -/
def State.inTlb (s : State) (b va : Nat) (kind : Kind) (x : Xlat) : Prop :=
  (Mach.of s).xlate b false va kind = (Mach.of s, .ok x)

/-! ## Vector words -/

/-- A vector word issues: its scalar, where it has one, and the registers it names are in place (R44, R198). -/
def State.vecIssues (s : State) (i : Instr) (f : VF) (sx : Bool) (reads writes : List Nat) : Bool :=
  s.issues i && (!sx || s.seq.keyReady s.bank.clk f.sx.toNat) && s.bank.vecReady (mkKeys f.msk ++ reads) writes

/-- The scalar g[SX] of a vector word. -/
def State.scalar (s : State) (f : VF) : Word := s.seq.reg (f.sx.setWidth 6)

/-- The slice index or amount (g[SX] + SI) mod 2^64 (R18, R287). -/
def State.amount (s : State) (f : VF) : Nat := ((s.scalar f).toNat + f.si.toNat) % 2 ^ 64

/-- An element of a tile of the acting bank, in a type. -/
def State.elem (s : State) (t : Ty) (n r e : Nat) : Nat := elemAt t (s.bank.vec.tile n) r e

/-- The first operand of a vector word (R269): the element, row s, the position of e in cell (i, s), or its position in the
cell that s numbers in the tile; F64 takes the cell pair. -/
def State.operandA (s : State) (f : VF) (r e : Nat) : Nat :=
  let t := Ty.ofCode f.ty.toNat
  let n := tyElems t / 64
  let col := s.amount f % 64
  if f.sm = 0 then s.elem t f.ta.toNat r e
  else if f.sm = 1 then s.elem t f.ta.toNat (s.amount f % 16) e
  else
    let row := if f.sm = 2 then r else s.amount f % 1024 / 64
    s.elem t f.ta.toNat row (if t = .f64 then col / 2 else col * n + e % n)

/-- An element is selected by a mask: MK 0 selects all (R270). -/
def State.selects (s : State) (mk : BitVec 3) (t : Ty) (r e : Nat) : Bool :=
  mk == 0 || maskBit (s.bank.vec.mask mk.toNat) t r e

/-- A bank after a vector word: `v` is its vector state, the registers written may be named after `lat`, and VSEQ has
advanced where a tile is written (R271, R272). -/
def Bank.vecDone (k : Bank) (v : VecState) (lat : Nat) (writes : List Nat) (tile : Bool) : Bank :=
  { k with vec := { v.later k.clk lat writes with vseq := if tile then k.vec.vseq + 1 else k.vec.vseq } }

/-- A word writes tile TD alone: element e of row r is `g r e` where the write mask selects it, and as before elsewhere
(R270). -/
def State.WritesTile (s : State) (i : Instr) (f : VF) (lat occ : Nat) (g : Nat → Nat → Nat) : Prop :=
  ∃ c : List Cell32,
    exec i s = .next (s.wordDone (s.bank.vecDone (s.bank.vec.setTile f.td.toNat c) lat [f.td.toNat] true) occ none) ∧
    ∀ r < 16, ∀ e < tyElems (Ty.ofCode f.ty.toNat), elemAt (Ty.ofCode f.ty.toNat) c r e =
      if s.selects f.msk (Ty.ofCode f.ty.toNat) r e then g r e % 2 ^ tyBits (Ty.ofCode f.ty.toNat)
      else s.elem (Ty.ofCode f.ty.toNat) f.td.toNat r e

/-- A word writes mask TD alone: the bits of an element hold `g r e` where the write mask selects it, and are as before
elsewhere (R270). -/
def State.WritesMask (s : State) (i : Instr) (f : VF) (lat occ : Nat) (nf : List Nat) (g : Nat → Nat → Bool) : Prop :=
  ∃ c : List Byte,
    exec i s = .next (s.wordDone (s.bank.vecDone
      { s.bank.vec.setMask f.td.toNat c with nfAt := s.bank.vec.nfAt ++ nf } lat [maskKey f.td.toNat] false) occ none) ∧
    ∀ r < 16, ∀ e < tyElems (Ty.ofCode f.ty.toNat), maskBit c (Ty.ofCode f.ty.toNat) r e =
      if s.selects f.msk (Ty.ofCode f.ty.toNat) r e then g r e
      else maskBit (s.bank.vec.mask f.td.toNat) (Ty.ofCode f.ty.toNat) r e

/-- A code of a floating type lies within `b` ulps of a value, measured at that value (R285). -/
def codeWithin (t : Ty) (b : Nat) (v : Val) (c : Nat) : Prop :=
  ∀ f, tyFmt t = some f → ((tyValue t c).add v.neg).abs.le (.scaled b (ulpExp f v)) = true

/-- A value is beyond the largest finite value of a floating type (R285). -/
def codeBeyond (t : Ty) (v : Val) : Prop := ∃ f, tyFmt t = some f ∧ f.big.lt v = true

/-- The integer that a code of an integer type stands for (R62). -/
def codeInt (t : Ty) (c : Nat) : Int :=
  match tyInt t with
  | some (w, true) => sext w c
  | _ => c

/-- The code of an integer modulo 2^w. -/
def intCode (t : Ty) (n : Int) : Nat := (n % 2 ^ tyBits t).toNat

/-- An integer clamped to the range of an integer type (R62). -/
def clamped (t : Ty) (n : Int) : Int :=
  match tyInt t with
  | some (w, true) => max (-2 ^ (w - 1)) (min (2 ^ (w - 1) - 1) n)
  | some (w, false) => max 0 (min (2 ^ w - 1) n)
  | none => 0

/-- The rounding mode that a word's MOD selects (R200). -/
def State.mode (s : State) (f : VF) : Rnd :=
  if f.md = 0 then Rnd.ofCode s.bank.vec.rmode.toNat else if f.md = 1 then .rne else if f.md = 2 then .rtz else .rdh

/-- The dither hash of an element under a word's mode (R70, R272). -/
def State.dither (s : State) (f : VF) (r e : Nat) : Nat :=
  if s.mode f = .rdh then ditherHash s.bank.vec.dseed.toNat s.bank.vec.vseq.toNat r e else 0

/-- A byte of the bank's half of local memory (R101). -/
def VecState.localByte (v : VecState) (o : Nat) : Byte := (v.lrow (o / 256)).getD (o % 256) 0

/-- The selected elements of a row, ascending (R299). -/
def State.selectedOf (s : State) (f : VF) (row : Nat) : List Nat :=
  (List.range (tyElems (Ty.ofCode f.ty.toNat))).filter (fun e => s.selects f.msk (Ty.ofCode f.ty.toNat) row e)

/-- The members of the window of output (i, o) of a producer (R292); none past the last output. -/
def State.windowMembers (s : State) (f : VF) (i o : Nat) : List Nat :=
  let w := f.tc.toNat % 8 + 1
  if f.tc.getLsbD 3 then
    ((List.range w).filter (fun k => decide (i * w + k < 16))).map
      (fun k => s.elem (Ty.ofCode f.ty.toNat) f.ta.toNat (i * w + k) o)
  else
    ((List.range w).filter (fun k => decide (o * w + k < 64))).map
      (fun k => s.elem (Ty.ofCode f.ty.toNat) f.ta.toNat i (o * w + k))

/-! ## Matrix words -/

/-- A matrix word issues: the queue holds fewer than 16 entries, and the tiles that it reads or writes await no older write (R44,
R304, R306). -/
def State.matIssues (s : State) (i : Instr) (reads writes : List Nat) : Bool :=
  s.issues i && decide (s.bank.mat.queue.length < 16) && s.bank.regsIn (reads ++ writes)

/-- A bank whose matrix queue takes an entry (R304, R314). -/
def Bank.entered (k : Bank) (e : MEnt) : Bank :=
  { k with nextId := k.nextId + 1, mat := { k.mat with queue := k.mat.queue ++ [e],
                                                       chained := k.mat.chained || isChained e.word } }

/-- A word enters the matrix queue and changes nothing else: the entry records the rows, the binding, the parameters and the
mode of its issue, and has not started (R304). -/
def State.Enters (s : State) (i : Instr) (refs : List RowRef) (b : Option Binding) (params : List Word) (mode : Rnd) : Prop :=
  ∃ e : MEnt, e.word = i ∧ e.pos = s.seq.pos ∧ e.ord = s.bank.nextId ∧ e.refs = refs ∧ e.binding = b ∧ e.params = params ∧
    e.mode = mode ∧ e.started = false ∧ e.src = [] ∧ e.buf = [] ∧ e.out = [] ∧
    exec i s = .next (s.wordDone (s.bank.entered e) 1 none)

/-- A run of window rows of a trail, as an entry records it (R306). -/
def TrailGen.rowsFrom (g : TrailGen) (n first count : Nat) : RowRef := ⟨n, g.uid, g.oldest + first, count, g.desc⟩

/-! ## Device steps -/

/-- The state with another slice `i`. -/
def State.setSlice (s : State) (i : Nat) (v : Slice) : State :=
  { s with dev := { s.dev with slices := tput s.dev.slices i v } }

/-- The state with another die `i`. -/
def State.setDie (s : State) (i : Nat) (v : Die) : State := { s with dev := { s.dev with dies := tput s.dev.dies i v } }

/-- The state with another partition `i`. -/
def State.setPart (s : State) (i : Nat) (v : Part) : State := { s with dev := { s.dev with parts := tput s.dev.parts i v } }

/-- The state with another gang `i`. -/
def State.setGang (s : State) (i : Nat) (v : Gang) : State := { s with dev := { s.dev with gangs := tput s.dev.gangs i v } }

/-- The state with another graph `i`. -/
def State.setGraph (s : State) (i : Nat) (v : Graph) : State := { s with dev := { s.dev with graphs := tput s.dev.graphs i v } }

/-- The state with another graph `i`, whose nodes that became ready took order numbers (R133). -/
def State.graphMoved (s : State) (i : Nat) (v : Graph) : State :=
  { s with dev := { s.dev with graphs := tput s.dev.graphs i v, nextOrd := v.nextReady } }

/-- The gangs of two states are the same, but for gate words that a write found decided (R140). -/
def State.SameGangs (s t : State) (i : Nat) : Prop :=
  (tfind t.dev.gangs i).map (fun g => { g with gateLatch := none }) = (tfind s.dev.gangs i).map (fun g => { g with gateLatch := none })

/-- Eight bytes of HBM that the device writes for a partition now (R342, R363). -/
def State.ownStore (s : State) (pa : Nat) : Prop :=
  isHbm pa = true ∧ (Mach.of s).writeHeld pa 8 = false ∧ (Mach.of s).poisoned pa 8 = none ∧ pa % 32 ≤ 24

/-- The state with another hamper `i`. -/
def State.setHamper (s : State) (i : Nat) (v : List HampEnt) : State :=
  { s with dev := { s.dev with hampers := tput s.dev.hampers i v } }

/-- The state with another package. -/
def State.setPkg (s : State) (v : Pkg) : State := { s with dev := { s.dev with pkg := v } }

/-- The state after one more order number has been taken. -/
def State.ordered (s : State) : State := { s with dev := { s.dev with nextOrd := s.dev.nextOrd + 1 } }

/-- The state with another bind record of bank `b` (R146). -/
def State.setSlot (s : State) (b : Nat) (r : BindRec) : State :=
  s.setDie (b / 128) { s.dev.die (b / 128) with slots := tput (s.dev.die (b / 128)).slots (b % 128) r }

/-- The bind record that 16 bytes written to a slot hold, with an OP (R146). -/
def slotRecord (v : BitVec 128) (op stat : Nat) : BindRec :=
  { op := op, stat := stat, part := v.toNat / 2 ^ 8 % 16, task := v.toNat / 2 ^ 32 % 2 ^ 32, savePa := v.toNat / 2 ^ 64 }

/-- The reserved bits of a bind record are 0 (R146). -/
def slotOk (v : BitVec 128) : Prop := v.toNat / 2 ^ 12 % 2 ^ 20 = 0 ∧ v.toNat / 2 ^ 116 = 0

/-- Entries that enter a hamper one after another (R143). -/
def hampInserts (es l : List HampEnt) : List HampEnt := es.foldl (fun l e => hampInsert e l) l

/-! ## Frames -/

/-- Every byte of memory reads as before. -/
def State.SameMem (s t : State) : Prop := ∀ a, memGet t.mem a = memGet s.mem a

/-- Every bank but the acting one is as before. -/
def State.SameOtherBanks (s t : State) : Prop :=
  ∀ b, b ≠ s.dev.actBank → tget Bank.empty t.dev.banks b = tget Bank.empty s.dev.banks b

end Sys2Proof.Machine
end

