-- ==== Sys2Proof/Certificates/Slice0/Obligations.lean ====
section
/-! DEFINITION. Obligations: the statements about the model, for the provers. A statement of several parts is their
conjunction, each part in parentheses. -/

open Sys2Proof Sys2Proof.Machine

/-- Words written out from the samples of the spec, and the instructions they stand for (R212, R213, R215, R218, R220,
R226, R234, R217). -/
def Obligations.SampleWordsDecode : Prop :=
  decodeWord 0x0240000000000000 = .ok (.nop { h := { idle := 9, pred := 0, pneg := false }, dst := 0, sa := 0, sb := 0, fn := 0, imm := 0 }) ∧
  decodeWord 0x00004070C40E0000 = .ok (.mulh { h := { idle := 0, pred := 0, pneg := false }, dst := 7, sa := 3, sb := 4, fn := 14, imm := 0 }) ∧
  decodeWord 0x0000803109030000 = .ok (.cmp { h := { idle := 0, pred := 0, pneg := false }, dst := 3, sa := 4, sb := 9, fn := 3, imm := 0 }) ∧
  decodeWord 0x00010080C40A0000 = .ok (.sel { h := { idle := 0, pred := 0, pneg := false }, dst := 8, sa := 3, sb := 4, fn := 10, imm := 0 }) ∧
  decodeWord 0x0003806180000003 = .ok (.srai { h := { idle := 0, pred := 0, pneg := false }, dst := 6, sa := 6, imm := 3 }) ∧
  decodeWord 0x000641F00000000C = .ok (.call { h := { idle := 0, pred := 0, pneg := false }, lnk := 31, off := 12 }) ∧
  decodeWord 0x0008000000000007 = .ok (.post { h := { idle := 0, pred := 0, pneg := false }, dst := 0, sa := 0, imm := 7 }) ∧
  decodeWord 0x000A022180030000 = .ok (.amode { h := { idle := 0, pred := 0, pneg := false }, dst := 34, sa := 6, sb := 0, fn := 3, imm := 0 })

/-- Decoding the encoding of a well-formed instruction gives it back, every operand at every value (R184 to R194). -/
def Obligations.DecodeOfEncodeIsIdentity : Prop :=
  ∀ (i : Instr) (w : Nat), i.wf = true → encodeNat i = some w → w < 2 ^ 64 ∧ decodeNat w = .ok i

/-- A word that decodes is the encoding of what it decodes to: no two words stand for one instruction, and only well-
formed terms are read (R186, R207). -/
def Obligations.EncodeOfDecodeIsIdentity : Prop :=
  ∀ (w : Word) (i : Instr), decodeWord w = .ok i → i.wf = true ∧ encodeNat i = some w.toNat

/-- An OP outside the map of R201 is refused by name, whatever the other bits are (R207, step 1). A word that stands at a
position, whose clock has come, and that gives no instruction traps: with ECCU where the loader marked it poison (R115), and
once its predicate is in place with ILLEGAL for a reserved OP, with STREAMX for an OP that another sequencer issues, and with
ILLEGAL for reserved fields, in this order (R169, R207); a position beyond the segment traps with ILLEGAL (R17). -/
def Obligations.WordsThatAreNoInstructionTrap : Prop :=
  (
  ∀ (w : Word) (op : Nat), op = w.toNat / 2 ^ 46 % 256 →
    (∀ p ∈ [(0x00, 0x04), (0x08, 0x11), (0x18, 0x1D), (0x20, 0x25), (0x28, 0x2A), (0x30, 0x30), (0x40, 0x46), (0x48, 0x48),
        (0x4A, 0x4B), (0x50, 0x54), (0x58, 0x5B), (0x60, 0x68), (0x6A, 0x6A), (0x78, 0x78), (0x80, 0x87), (0x89, 0x9A),
        (0xA0, 0xA7), (0xB0, 0xB8), (0xC0, 0xC7), (0xD0, 0xD5), (0xE0, 0xED)], ¬ (p.1 ≤ op ∧ op ≤ p.2)) →
    decodeWord w = .error (.reservedOp op)) ∧
  (
  ∀ (s : State) (b : Nat), s.dev.stoppedDevice = false → s.turn = .issue b → s.take.blocked b = false →
    ∀ u : State, u = s.take.point b → u.bank.open u.dev.actSeq = true → u.bank.phase = .main →
    (∀ w : Word, u.seq.code[u.seq.pos]? = some w → u.seq.earliest (unpackHdr w.toNat) ≤ u.bank.clk →
      (∀ pa, tfind u.seq.poison u.seq.pos = some pa →
        step s = .next ((u.trapped { u.trapOf .eccu with poison := true, pa := pa }).advance b)) ∧
      (tfind u.seq.poison u.seq.pos = none →
        ((unpackHdr w.toNat).pred = 0 ∨ u.seq.keyReady u.bank.clk (64 + (unpackHdr w.toNat).pred.toNat) = true) →
        (opAssigned (w.toNat / 2 ^ 46 % 256) = false → step s = .next ((u.trapped (u.trapOf .illegal)).advance b)) ∧
        (opAssigned (w.toNat / 2 ^ 46 % 256) = true →
          opStreams (w.toNat / 2 ^ 46 % 256) (w.toNat / 2 ^ 34 % 256) u.dev.actSeq = false →
          step s = .next ((u.trapped (u.trapOf .streamx)).advance b)) ∧
        (∀ e, opAssigned (w.toNat / 2 ^ 46 % 256) = true →
          opStreams (w.toNat / 2 ^ 46 % 256) (w.toNat / 2 ^ 34 % 256) u.dev.actSeq = true → decodeWord w = .error e →
          step s = .next ((u.trapped (u.trapOf .illegal)).advance b)))) ∧
    (u.seq.code[u.seq.pos]? = none → u.seq.prevClk + u.seq.prevOcc ≤ u.bank.clk →
      step s = .next ((u.trapped (u.trapOf .illegal)).advance b)))

/-- What reset leaves (R41, R112, R113, R149, R180, R333 to R335, R337, R338, R349, R353, R368): every bank is empty, its control
words read 0 but for COREID, which gives its place; every partition word reads 0 but for QUANT of SCHED, and every die word but for
HEPOCH and HTHRESH; the launch and fault rings are disabled with HEAD and TAIL 0, the caps are 0xFF, no partition owns anything,
and memory lists nothing. The memory of the reset state is in its canonical form (the model's own invariant; log 4 says what an
unlisted byte reads as). -/
def Obligations.ResetValues : Prop :=
  (
  (∀ b, tget Bank.empty State.reset.dev.banks b = Bank.empty) ∧ Bank.empty.status = .empty ∧
  (∀ (b cw : Nat) (q : Seq), bankWord b Bank.empty q cw = if cw = 0x015 then word (coreId b) else 0) ∧
  (∀ q : Seq, (Bank.empty.seq q).loops = [] ∧ (Bank.empty.seq q).outq = [] ∧ (Bank.empty.seq q).g = [] ∧
    (Bank.empty.seq q).p = [] ∧ (Bank.empty.seq q).a = [] ∧ (Bank.empty.seq q).halted = false) ∧
  (∀ p cw : Nat, (Mach.of State.reset).partWord p cw = if cw = 0x101 then 0x01000000 else 0) ∧
  (∀ d cw : Nat, (Mach.of State.reset).dieWord d cw = if cw = 0x180 then 0x04001400 else 0) ∧
  (∀ p, ∀ x : Part, x = State.reset.dev.part p →
    (∀ r ∈ [x.lq, x.fq, x.plq], r.base = 0 ∧ r.en = false ∧ r.head = 0 ∧ r.tail = 0 ∧ r.terr = false) ∧
    x.hcap = 0xFF ∧ x.dcap = 0xFF ∧ x.xcap = 0xFF ∧ x.pexp = 0 ∧ x.pcapt = 0 ∧
    (∀ c ∈ [x.staged, x.current], c.quads = 0 ∧ c.slices = 0 ∧ c.groups = 0)) ∧
  State.reset.mem = []) ∧
  (
  State.reset.MemOk)

/-- From every state whose memory is in its canonical form, a step leaves it so: addresses strictly rise and no entry
equals what an unlisted byte reads as. -/
def Obligations.StepKeepsMemoryCanonical : Prop :=
  ∀ s t : State, s.MemOk → step s = .next t → t.MemOk

/-- A step at a turn that issues a word of a bank executes what its word decodes to, in the state in which that bank's
next sequencer is named, and then the opportunity passes on; a step at one of the device's own steps executes it. On a
clock the sequencers K, L, X and D have their opportunities for every word but AWAIT, and then for AWAIT, so that a
posting of the clock is counted before them (R226); then comes what the matrix queue and the other engines do on it. How a
clock is cut into steps, and that nothing is passed that is due on the clock, is the model's own (log 3). -/
def Obligations.StepRunsDecodedInstruction : Prop :=
  ∀ s : State, s.dev.stoppedDevice = false →
    (∀ (b : Nat) (w : Word) (i : Instr), s.turn = .issue b → s.take.blocked b = false →
      (s.take.point b).bank.open (s.take.point b).dev.actSeq = true →
      ((s.take.point b).bank.phase = if isAwait w then .await else .main) →
      (s.take.point b).seq.code[(s.take.point b).seq.pos]? = some w →
      tfind (s.take.point b).seq.poison (s.take.point b).seq.pos = none →
      (s.take.point b).seq.earliest (unpackHdr w.toNat) ≤ (s.take.point b).bank.clk →
      decodeWord w = .ok i →
      step s = match exec i (s.take.point b) with
        | .next t => .next (t.advance b)
        | .fault f => .fault f
        | .refused r => .refused r) ∧
    (∀ i : Instr, s.turn = .event i → step s = exec i s.take) ∧
    (∀ b : Nat, s.turn = .issue b → s.take.blocked b = true → step s = .next s.take) ∧
    (∀ (b : Nat) (w : Word) (f : IF), s.turn = .issue b → s.take.blocked b = false → (s.take.point b).bank.phase = .main →
      (s.take.point b).seq.code[(s.take.point b).seq.pos]? = some w → decodeWord w = .ok (.await f) →
      tfind (s.take.point b).seq.poison (s.take.point b).seq.pos = none →
      step s = .next ((s.take.point b).advance b)) ∧
    (∀ (b : Nat) (k : Bank), k = tget .empty s.dev.banks b → k.status = .running → k.phase ≠ .engines →
      s.advance b = s.withBank b (if k.phase = .close then { k with phase := .engines, slot := .K } else match k.slot with
        | .K => { k with slot := .L }
        | .L => { k with slot := .X }
        | .X => { k with slot := .D }
        | .D => { k with phase := if k.phase = .main then .await else .close, slot := .K }))

/-- Before its earliest clock, or while its sequencer is at rest, halted, not released or has trapped on this clock, a
word changes nothing (R42, R43, R48, R169); nor does it while its predicate is not in place (R44). On the clock on which it
would otherwise issue a word is checked in the order of R207: STREAMX, ILLEGAL, PRIV, whether its predicate is true or false, and
the trap is all that happens (R169). A word whose predicate is false takes its slot with its stated occupancy and does nothing
else (R185): for every program word, whatever its operands are. An ALU, immediate or address word, CMP, SEL, LOOP and JR wait and
change nothing while a register is not in place, or a stream register has no element or no room; on the clock on which nothing
else holds them they trap with QOVF where they pop a register bound OUT or push one bound IN or to a trail (R44, R169, R196,
R268). -/
def Obligations.WordsIssueByTheirChecks : Prop :=
  (
  ∀ (i : Instr) (w : Nat) (s : State), encodeNat i = some w →
    (s.bank.open s.dev.actSeq = false ∨
      s.bank.clk < s.seq.prevClk + Nat.max (hdrOf i).idle.toNat s.seq.prevOcc ∨
      ((hdrOf i).pred ≠ 0 ∧ s.seq.keyReady s.bank.clk (64 + (hdrOf i).pred.toNat) = false)) →
    exec i s = .next s) ∧
  (
  ∀ (i : Instr) (w : Nat) (s : State) (c : Cause), encodeNat i = some w → s.opens i = true → s.Fails i c →
    (s.seq.pred (hdrOf i) = false → exec i s = .next (s.trapped (s.trapOf c))) ∧
    (s.seq.pred (hdrOf i) = true → exec i s = .next (s.trapped (s.trapOf c)) ∨ exec i s = .next s)) ∧
  (
  ∀ (i : Instr) (s : State), s.skips i = true → exec i s = .next (s.wordDone s.bank (occOf i) none)) ∧
  (
  ∀ r ∈ ([Instr.add, .sub, .and, .or, .xor, .shl, .shr, .sra, .rotl, .min, .max, .minn, .maxn, .mul, .mulh, .mulhn, .div,
        .divn, .rem, .remn, .clz, .popc, .brev, .sext, .zext].map (fun r => (r, fun f => ([], [f.sa, f.sb], f.dst, 1))) ++
      [Instr.amode, .aadd, .astep].map (fun r => (r, fun f => ([], [f.sa], f.dst, 0))) ++
      [(.cmp, fun f => ([f.dst.toNat], [f.sa, f.sb], 0, 0)), (.sel, fun f => ([f.fn.toNat % 8], [f.sa, f.sb], f.dst, 1)),
       (.loop, fun f => ([], [f.sa], 0, 0)), (.jr, fun f => ([], [f.sa], f.dst, if f.dst = 0 then 0 else 1))]
      : List ((RF → Instr) × (RF → List Nat × List RegF × RegF × Nat))),
  ∀ (f : RF) (s : State) (ps : List Nat) (srcs : List RegF) (dst : RegF) (n : Nat), r.2 f = (ps, srcs, dst, n) →
    (s.issues (r.1 f) = true →
      (∃ p ∈ ps, s.seq.keyReady s.bank.clk (64 + p) = false) ∨ s.waits srcs dst n = true → exec (r.1 f) s = .next s) ∧
    (s.issues (r.1 f) = true → (∀ p ∈ ps, s.seq.keyReady s.bank.clk (64 + p) = true) → s.waits srcs dst n = false →
      s.refuses srcs dst n = true → exec (r.1 f) s = .next (s.trapped (s.trapOf .qovf))) ∧
    (∀ c : Cause, (∀ p ∈ ps, s.seq.keyReady s.bank.clk (64 + p) = true) → s.wouldIssue (r.1 f) (s.waits srcs dst n) = true →
      s.Fails (r.1 f) c → exec (r.1 f) s = .next (s.trapped (s.trapOf c)))) ∧
  (
  ∀ r ∈ ([Instr.addi, .andi, .ori, .xori, .shli, .shri, .srai, .muli, .ldi, .ldhi] : List (IF → Instr)), ∀ (f : IF) (s : State),
    (s.issues (r f) = true → s.waits [f.sa] f.dst 1 = true → exec (r f) s = .next s) ∧
    (s.issues (r f) = true → s.waits [f.sa] f.dst 1 = false → s.refuses [f.sa] f.dst 1 = true →
      exec (r f) s = .next (s.trapped (s.trapOf .qovf))) ∧
    (∀ c : Cause, s.wouldIssue (r f) (s.waits [f.sa] f.dst 1) = true → s.Fails (r f) c →
      exec (r f) s = .next (s.trapped (s.trapOf c))))

/-- The ALU words write the results of R214 with the latencies of R211, for every register that a field can name (g0
discards, an address register takes the value alone, a stream register takes an element), and change nothing but the pops
of their sources, that destination and their own issue. CLZ, POPC and BREV with an SB or IMM16 that is not 0 trap with
ILLEGAL; no ALU word traps on a value. -/
def Obligations.AluWordsWriteTheirResults : Prop :=
  (
  ∀ r ∈ ([
    (.add, 1, fun a b v => v = BitVec.ofNat 64 (a.toNat + b.toNat)),
    (.sub, 1, fun a b v => v = BitVec.ofInt 64 ((a.toNat : Int) - b.toNat)),
    (.and, 1, fun a b v => v = a &&& b), (.or, 1, fun a b v => v = a ||| b), (.xor, 1, fun a b v => v = a ^^^ b),
    (.shl, 1, fun a b v => v = BitVec.ofNat 64 (a.toNat * 2 ^ (b.toNat % 64))),
    (.shr, 1, fun a b v => v = BitVec.ofNat 64 (a.toNat / 2 ^ (b.toNat % 64))),
    (.sra, 1, fun a b v => v = BitVec.ofInt 64 (a.toInt / 2 ^ (b.toNat % 64))),
    (.rotl, 1, fun a b v => ∀ i < 64, v.getLsbD ((i + b.toNat) % 64) = a.getLsbD i),
    (.min, 1, fun a b v => v.toInt = min a.toInt b.toInt), (.max, 1, fun a b v => v.toInt = max a.toInt b.toInt),
    (.minn, 1, fun a b v => v.toNat = min a.toNat b.toNat), (.maxn, 1, fun a b v => v.toNat = max a.toNat b.toNat),
    (.mul, 3, fun a b v => v = BitVec.ofNat 64 (a.toNat * b.toNat)),
    (.mulh, 3, fun a b v => v = BitVec.ofInt 64 (a.toInt * b.toInt / 2 ^ 64)),
    (.mulhn, 3, fun a b v => v = BitVec.ofNat 64 (a.toNat * b.toNat / 2 ^ 64)),
    (.div, 20, fun a b v => v = if b = 0 then BitVec.allOnes 64 else BitVec.ofInt 64 (a.toInt.tdiv b.toInt)),
    (.divn, 20, fun a b v => v = if b = 0 then BitVec.allOnes 64 else BitVec.ofNat 64 (a.toNat / b.toNat)),
    (.rem, 20, fun a b v => v = if b = 0 then a else BitVec.ofInt 64 (a.toInt - b.toInt * a.toInt.tdiv b.toInt)),
    (.remn, 20, fun a b v => v = if b = 0 then a else BitVec.ofNat 64 (a.toNat % b.toNat)),
    (.clz, 1, fun a _ v => v.toNat ≤ 64 ∧ a.toNat < 2 ^ (64 - v.toNat) ∧ (v.toNat < 64 → 2 ^ (63 - v.toNat) ≤ a.toNat)),
    (.popc, 1, fun a _ v => v.toNat = ((List.range 64).filter (fun i => a.getLsbD i)).length),
    (.brev, 1, fun a _ v => ∀ i < 64, v.getLsbD i = a.getLsbD (63 - i)),
    (.sext, 1, fun a b v => ∀ i < 64, v.getLsbD i = a.getLsbD (min i ((if b.toNat % 64 = 0 then 64 else b.toNat % 64) - 1))),
    (.zext, 1, fun a b v => ∀ i < 64, v.getLsbD i =
      (decide (i < (if b.toNat % 64 = 0 then 64 else b.toNat % 64)) && a.getLsbD i))]
      : List ((RF → Instr) × Nat × (Word → Word → Word → Prop))),
  ∀ (f : RF) (s : State) (vs : List Word) (k : Bank), s.issues (r.1 f) = true →
    s.sources [f.sa, f.sb] f.dst 1 = some (vs, k) →
    ∃ v, r.2.2 (opnd vs 0) (opnd vs 1 + f.imm.signExtend 64) v ∧
      exec (r.1 f) s = .next (s.wordDone (k.result s.dev.actSeq f.dst r.2.1 v) 1 none)) ∧
  (
  (∀ r ∈ ([Instr.clz, .popc, .brev] : List (RF → Instr)), ∀ (f : RF) (s : State), 
    s.wouldIssue (r f) (s.waits [f.sa, f.sb] f.dst 1) = true → streamsOk (r f) s.dev.actSeq = true → f.sb ≠ 0 ∨ f.imm ≠ 0 →
    exec (r f) s = .next (s.trapped (s.trapOf .illegal))))

/-- The immediate words write the results of R218 and R219; a shift by an amount outside 0 to 63 traps with ILLEGAL. -/
def Obligations.ImmediateWordsWriteTheirResults : Prop :=
  (∀ r ∈ ([
    (.addi, 1, fun a n => BitVec.ofInt 64 (a.toInt + n.toInt)), (.andi, 1, fun a n => a &&& n.signExtend 64),
    (.ori, 1, fun a n => a ||| n.signExtend 64), (.xori, 1, fun a n => a ^^^ n.signExtend 64),
    (.muli, 3, fun a n => BitVec.ofInt 64 (a.toInt * n.toInt)), (.ldi, 1, fun _ n => BitVec.ofInt 64 n.toInt),
    (.ldhi, 1, fun a n => BitVec.ofNat 64 (a.toNat * 2 ^ 30 + n.toNat))]
      : List ((IF → Instr) × Nat × (Word → BitVec 30 → Word))),
    ∀ (f : IF) (s : State) (vs : List Word) (k : Bank), s.issues (r.1 f) = true → s.sources [f.sa] f.dst 1 = some (vs, k) →
      exec (r.1 f) s = .next (s.wordDone (k.result s.dev.actSeq f.dst r.2.1 (r.2.2 (opnd vs 0) f.imm)) 1 none)) ∧
  (∀ r ∈ ([
    (.shli, fun a n => BitVec.ofNat 64 (a.toNat * 2 ^ n)), (.shri, fun a n => BitVec.ofNat 64 (a.toNat / 2 ^ n)),
    (.srai, fun a n => BitVec.ofInt 64 (a.toInt / 2 ^ n))] : List ((IF → Instr) × (Word → Nat → Word))),
    ∀ (f : IF) (s : State) (vs : List Word) (k : Bank), s.issues (r.1 f) = true → s.sources [f.sa] f.dst 1 = some (vs, k) →
      (0 ≤ f.imm.toInt ∧ f.imm.toInt ≤ 63 →
        exec (r.1 f) s = .next (s.wordDone (k.result s.dev.actSeq f.dst 1 (r.2 (opnd vs 0) f.imm.toNat)) 1 none)) ∧
      (f.imm.toInt < 0 ∨ 63 < f.imm.toInt → exec (r.1 f) s = .next (s.trapped (s.trapOf .illegal))))

/-- CMP and PLOG write the predicate in DST with the conditions and operations of R203 (R215, R216). A reserved FN, and an
SB that is not 0 for NOT, trap with ILLEGAL. SEL writes value(SA) where p[FN[2:0]] XOR FN[3] holds and value(SB)
otherwise, popping both (R217); p0 reads true. SEL is OP 0x04, and its FN[7:4] and IMM16 are 0 or it traps with ILLEGAL.
-/
def Obligations.ComparesAndSelectsWriteTheirResults : Prop :=
  (
  (∀ (f : RF) (s : State) (vs : List Word) (k : Bank), s.issues (.cmp f) = true →
    s.seq.keyReady s.bank.clk (64 + f.dst.toNat) = true → s.sources [f.sa, f.sb] 0 0 = some (vs, k) →
    ∃ v : Bool, exec (.cmp f) s =
        .next (s.wordDone (k.setSeq s.dev.actSeq ((k.seq s.dev.actSeq).putPred f.dst.toNat v)) 1 none) ∧
      ∀ a b : Word, a = opnd vs 0 → b = opnd vs 1 + f.imm.signExtend 64 →
        (f.fn = 0 → (v = true ↔ a = b)) ∧ (f.fn = 1 → (v = true ↔ a ≠ b)) ∧
        (f.fn = 2 → (v = true ↔ a.toInt < b.toInt)) ∧ (f.fn = 3 → (v = true ↔ a.toNat < b.toNat)) ∧
        (f.fn = 4 → (v = true ↔ b.toInt ≤ a.toInt)) ∧ (f.fn = 5 → (v = true ↔ b.toNat ≤ a.toNat))) ∧
  (∀ (f : RF) (s : State), s.issues (.plog f) = true →
    (∀ n ∈ [f.dst, f.sa, f.sb], s.seq.keyReady s.bank.clk (64 + n.toNat) = true) →
    ∃ v : Bool, exec (.plog f) s = .next (s.wordDone (s.bank.setSeq s.dev.actSeq (s.seq.putPred f.dst.toNat v)) 1 none) ∧
      ∀ a b : Bool, a = s.seq.getPred f.sa.toNat → b = s.seq.getPred f.sb.toNat →
        (f.fn = 0 → v = (a && b)) ∧ (f.fn = 1 → v = (a || b)) ∧ (f.fn = 2 → v = (a != b)) ∧ (f.fn = 3 → v = (a && !b)) ∧
        (f.fn = 4 → v = (a || !b)) ∧ (f.fn = 5 → v = !a))) ∧
  (
  (∀ (f : RF) (s : State), (s.seq.keyReady s.bank.clk (64 + f.dst.toNat) = true) →
    s.wouldIssue (.cmp f) (s.waits [f.sa, f.sb] 0 0) = true → streamsOk (.cmp f) s.dev.actSeq = true → 5 < f.fn.toNat →
    exec (.cmp f) s = .next (s.trapped (s.trapOf .illegal))) ∧
  (∀ (f : RF) (s : State), (∀ n ∈ [f.dst, f.sa, f.sb], s.seq.keyReady s.bank.clk (64 + n.toNat) = true) →
    s.wouldIssue (.plog f) false = true → streamsOk (.plog f) s.dev.actSeq = true →
    5 < f.fn.toNat ∨ (f.fn = 5 ∧ f.sb ≠ 0) → exec (.plog f) s = .next (s.trapped (s.trapOf .illegal)))) ∧
  (
  ∀ (f : RF) (s : State) (vs : List Word) (k : Bank), s.issues (.sel f) = true →
    s.seq.keyReady s.bank.clk (64 + f.fn.toNat % 8) = true → s.sources [f.sa, f.sb] f.dst 1 = some (vs, k) →
    exec (.sel f) s = .next (s.wordDone (k.result s.dev.actSeq f.dst 1
      (if (if f.fn.toNat % 8 = 0 then true else tget false s.seq.p (f.fn.toNat % 8)) ^^ f.fn.getLsbD 3 then opnd vs 0
        else opnd vs 1)) 1 none)) ∧
  (
  (∀ (f : RF) (s : State), s.seq.keyReady s.bank.clk (64 + f.fn.toNat % 8) = true →
    s.wouldIssue (.sel f) (s.waits [f.sa, f.sb] f.dst 1) = true → streamsOk (.sel f) s.dev.actSeq = true → 16 ≤ f.fn.toNat ∨ f.imm ≠ 0 → exec (.sel f) s = .next (s.trapped (s.trapOf .illegal))) ∧
  (∀ f : RF, opOf (.sel f) = some (4, f.fn.toNat)) ∧
  decodeWord 0x00010080C40A0000 = .ok (.sel { h := { idle := 0, pred := 0, pneg := false }, dst := 8, sa := 3, sb := 4, fn := 10, imm := 0 }))

/-- BR, CALL, JR and BRQ transfer where R220 and R225 say, with the link of CALL and JR and the loops of R223 left; a
target below 0 or beyond the segment traps with ILLEGAL (R208). -/
def Obligations.TransfersReachTheirTargets : Prop :=
  ∀ s : State,
  (∀ f : JF, s.issues (.br f) = true → ∀ t : Int, t = s.seq.pos + f.off.toInt →
    (0 ≤ t ∧ t ≤ s.seq.code.length → exec (.br f) s = .next (s.wordDone (s.bank.leaveLoops s.dev.actSeq t.toNat) 1 (some t.toNat))) ∧
    (t < 0 ∨ s.seq.code.length < t → exec (.br f) s = .next (s.trapped (s.trapOf .illegal)))) ∧
  (∀ (f : JF) (vs : List Word) (k : Bank), s.issues (.call f) = true → s.sources [] f.lnk 0 = some (vs, k) →
    ∀ t : Int, t = s.seq.pos + f.off.toInt →
    (0 ≤ t ∧ t ≤ s.seq.code.length → exec (.call f) s =
      .next (s.wordDone (k.result s.dev.actSeq f.lnk 1 (BitVec.ofNat 64 (s.seq.pos + 1))) 1 (some t.toNat))) ∧
    (t < 0 ∨ s.seq.code.length < t → exec (.call f) s = .next (s.trapped (s.trapOf .illegal)))) ∧
  (∀ (f : RF) (vs : List Word) (k : Bank), s.issues (.jr f) = true →
    s.sources [f.sa] f.dst (if f.dst = 0 then 0 else 1) = some (vs, k) →
    ∀ t : Nat, t = (opnd vs 0 + f.imm.signExtend 64).toNat →
    (t ≤ s.seq.code.length → f.dst ≠ 0 → exec (.jr f) s =
      .next (s.wordDone (k.result s.dev.actSeq f.dst 1 (BitVec.ofNat 64 (s.seq.pos + 1))) 1 (some t))) ∧
    (t ≤ s.seq.code.length → f.dst = 0 → exec (.jr f) s = .next (s.wordDone (k.leaveLoops s.dev.actSeq t) 1 (some t))) ∧
    (s.seq.code.length < t → exec (.jr f) s = .next (s.trapped (s.trapOf .illegal)))) ∧
  (∀ f : JF, s.issues (.brq f) = true →
    (s.seq.outq = [] → exec (.brq f) s = .next s) ∧
    (∀ o os, s.seq.outq = o :: os → ∀ k : Bank, k = s.bank.setSeq s.dev.actSeq { s.seq with outq := os } →
      ∀ t : Int, t = s.seq.pos + f.off.toInt →
      (o = false → exec (.brq f) s = .next (s.wordDone k 1 none)) ∧
      (o = true → 0 ≤ t ∧ t ≤ s.seq.code.length →
        exec (.brq f) s = .next (s.wordDone (k.leaveLoops s.dev.actSeq t.toNat) 1 (some t.toNat))) ∧
      (o = true → t < 0 ∨ s.seq.code.length < t → exec (.brq f) s = .next (s.trapped (s.trapOf .illegal)))))

/-- LOOP pushes its body with the count, or passes it where the count is 0; it traps with ILLEGAL where the body reaches
past the segment, four loops are held, the body reaches past the innermost one, or its last word is a BR, CALL, JR, LOOP
or BRQ (R221, R222). The stack is empty at the start. What a word's completion does to its sequencer (R43, R222): the
clock and occupancy of the issue are kept; a word that does not transfer moves on to the next position, unless a loop body
ends there: an entry with REM above 1 counts down and leads back to START, an entry with REM 1 is left, and the one below
it is tested. -/
def Obligations.LoopsRunTheirBodies : Prop :=
  (
  ∀ (f : RF) (s : State) (vs : List Word) (k : Bank), s.issues (.loop f) = true → s.sources [f.sa] 0 0 = some (vs, k) →
    ∀ (e : Nat) (bad : Prop), e = s.seq.pos + f.imm.toNat →
    (bad ↔ s.seq.code.length ≤ e ∨ 4 ≤ s.seq.loops.length ∨ (∃ t ∈ s.seq.loops.head?, t.stop < e) ∨
      ∃ w ∈ s.seq.code[e]?, w.toNat / 2 ^ 46 % 256 ∈ [0x18, 0x19, 0x1A, 0x1B, 0x1C]) →
    (bad → exec (.loop f) s = .next (s.trapped (s.trapOf .illegal))) ∧
    (¬ bad → opnd vs 0 = 0 → exec (.loop f) s = .next (s.wordDone k 1 (some (e + 1)))) ∧
    (¬ bad → opnd vs 0 ≠ 0 → exec (.loop f) s = .next (s.wordDone (k.setSeq s.dev.actSeq
      { k.seq s.dev.actSeq with loops :=
        { start := s.seq.pos + 1, stop := e, rem := (opnd vs 0).toNat } :: (k.seq s.dev.actSeq).loops }) 1 (some (s.seq.pos + 1))))) ∧
  (
  (∀ r : Bool, (SeqState.start r).loops = [])) ∧
  (
  ∀ (t : SeqState) (clk occ n : Nat),
    (t.retire clk occ (some n)).pos = n ∧ (t.retire clk occ (some n)).loops = t.loops ∧
    (t.retire clk occ none).prevClk = clk ∧ (t.retire clk occ none).prevOcc = occ ∧
    ((∀ e ∈ t.loops.head?, e.stop ≠ t.pos) →
      (t.retire clk occ none).pos = t.pos + 1 ∧ (t.retire clk occ none).loops = t.loops) ∧
    (∀ e es, t.loops = e :: es → e.stop = t.pos → 1 < e.rem →
      (t.retire clk occ none).pos = e.start ∧ (t.retire clk occ none).loops = { e with rem := e.rem - 1 } :: es) ∧
    (∀ e es, t.loops = e :: es → e.stop = t.pos → e.rem ≤ 1 →
      t.retire clk occ none = { t with loops := es }.retire clk occ none))

/-- NOP, BOPUSH, POST, AWAIT and WAITC (R212, R224, R226, R228): the slot alone; the outcome pushed into every queue of
the mask unless one holds 16; the posting noted behind what precedes it, or QOVF; a posted event taken, or a wait; a wait
until every counter is at its threshold. A posting takes effect once every access before it has been performed, and for X
once every older VCHK has set NF (R125, R226): the count of its event rises by one, and nothing else changes. That on a running
bank it does so in the first part of a clock, or before K tests its AWAIT, is the model's own (logs 3 and 78). -/
def Obligations.CouplingWordsTakeEffect : Prop :=
  (
  ∀ s : State,
  (∀ f : RF, s.issues (.nop f) = true → exec (.nop f) s = .next (s.wordDone s.bank 1 none)) ∧
  (∀ f : RF, s.issues (.bopush f) = true → s.seq.keyReady s.bank.clk (64 + f.sa.toNat) = true →
    ((∃ q : Seq, f.fn.getLsbD q.idx = true ∧ 16 ≤ (s.bank.seq q).outq.length) → exec (.bopush f) s = .next s) ∧
    ((∀ q : Seq, f.fn.getLsbD q.idx = true → (s.bank.seq q).outq.length < 16) →
      exec (.bopush f) s = .next (s.wordDone (s.bank.mapSeqs (fun q t => if f.fn.getLsbD q.idx then
        { t with outq := t.outq ++ [s.seq.getPred f.sa.toNat ^^ f.fn.getLsbD 4] } else t)) 1 none))) ∧
  (∀ f : IF, s.issues (.post f) = true →
    (s.bank.event f.imm.toNat + s.bank.postsTo f.imm.toNat < 65535 →
      ∃ p : PostEnt, p.ev = f.imm.toNat ∧ p.before = s.bank.nextId ∧
        exec (.post f) s = .next (s.wordDone (s.bank.setSeq s.dev.actSeq { s.seq with posts := s.seq.posts ++ [p] }) 1 none)) ∧
    (65535 ≤ s.bank.event f.imm.toNat + s.bank.postsTo f.imm.toNat →
      exec (.post f) s = .next (s.trapped (s.trapOf .qovf)))) ∧
  (∀ f : IF, s.issues (.await f) = true →
    (s.bank.event f.imm.toNat = 0 → exec (.await f) s = .next s) ∧
    (0 < s.bank.event f.imm.toNat → exec (.await f) s = .next (s.wordDone
      { s.bank with events := tput s.bank.events f.imm.toNat (s.bank.event f.imm.toNat - 1) } 1 none))) ∧
  (∀ f : IF, s.issues (.waitc f) = true →
    ∀ holds : Prop, (holds ↔ ∀ c ∈ [(0, s.bank.ldc), (6, s.bank.stc), (12, s.bank.cpc), (18, s.bank.toc)],
      f.imm.toNat / 2 ^ c.1 % 64 = 63 ∨ c.2 ≤ f.imm.toNat / 2 ^ c.1 % 64) →
    (holds → exec (.waitc f) s = .next (s.wordDone s.bank 1 none)) ∧ (¬ holds → exec (.waitc f) s = .next s))) ∧
  (
  ∀ (b u : Nat) (s : State) (p : PostEnt) (ps : List PostEnt) (k : Bank), k = tget .empty s.dev.banks b →
    (k.seq (Seq.ofIdx u)).posts = p :: ps →
    (k.status = .running ∧ k.phase ≠ .main ∧ ¬ (k.phase = .await ∧ k.slot = .K) → exec (.postTakesEffect b u) s = .next s) ∧
    ((k.status = .running → k.phase = .main ∨ (k.phase = .await ∧ k.slot = .K)) →
    ((∀ a ∈ (k.seq (Seq.ofIdx u)).accs, a.id < p.before → a.kind = .mark ∨ a.kind = .fence ∨ a.kind = .rmark) →
      (∀ c ∈ k.vec.nfAt, p.nfBy < c) →
      ∃ t k', exec (.postTakesEffect b u) s = .next t ∧ s.SameMem t ∧
        k' = k.setSeq (Seq.ofIdx u) { k.seq (Seq.ofIdx u) with posts := ps } ∧
        t.dev = { s.dev with banks := tput s.dev.banks b { k' with events := tput k.events p.ev (k.event p.ev + 1) } }) ∧
    ((∃ a ∈ (k.seq (Seq.ofIdx u)).accs, a.id < p.before ∧ a.kind ≠ .mark ∧ a.kind ≠ .fence ∧ a.kind ≠ .rmark) ∨
        (∃ c ∈ k.vec.nfAt, c ≤ p.nfBy) →
      exec (.postTakesEffect b u) s = .next s)))

/-- GO releases L, X and D with K's CYC and the issue clock as their previous issue, once every access of K has been
performed; a second GO traps with ILLEGAL (R42, R125). HALT ends the stream (R48), and YIELD ends the run with the clock
(R229). TRAP and BKPT raise their causes at their word, with no other effect (R339). -/
def Obligations.RunControlAndTrapWordsTakeEffect : Prop :=
  (
  ∀ (f : RF) (s : State),
  (s.issues (.go f) = true → (∃ a ∈ s.seq.accs, a.kind ≠ .mark ∧ a.kind ≠ .fence ∧ a.kind ≠ .rmark) →
    exec (.go f) s = .next s) ∧
  (s.issues (.go f) = true → (∀ a ∈ s.seq.accs, a.kind = .mark ∨ a.kind = .fence ∨ a.kind = .rmark) → s.bank.goDone = true →
    exec (.go f) s = .next (s.trapped (s.trapOf .illegal))) ∧
  (s.issues (.go f) = true → s.bank.goDone = false → (∀ a ∈ s.seq.accs, a.kind = .mark ∨ a.kind = .fence ∨ a.kind = .rmark) →
    exec (.go f) s = .next (s.wordDone
      { s.bank with
        goDone := true
        l := { s.bank.l with cyc := s.bank.k.cyc, released := true, prevClk := s.bank.clk, prevOcc := 1 }
        x := { s.bank.x with cyc := s.bank.k.cyc, released := true, prevClk := s.bank.clk, prevOcc := 1 }
        d := { s.bank.d with cyc := s.bank.k.cyc, released := true, prevClk := s.bank.clk, prevOcc := 1 } } 1 none)) ∧
  (s.issues (.halt f) = true → exec (.halt f) s =
    .next (s.wordDone (s.bank.setSeq s.dev.actSeq { s.seq with halted := true }) 1 none)) ∧
  (s.issues (.yield f) = true → exec (.yield f) s = .next (s.wordDone { s.bank with yielding := true } 1 none))) ∧
  (
  ∀ (f : SF) (s : State),
    (s.issues (.trap f) = true → exec (.trap f) s = .next (s.trapped (s.trapOf .trap))) ∧
    (s.issues (.bkpt f) = true → exec (.bkpt f) s = .next (s.trapped (s.trapOf .bkpt))))

/-- AMODE sets mode, modulus and origin where the modulus suits the mode, and traps with ILLEGAL otherwise; ASTEP sets the
step; AADD adds with Update of R233, or plainly in bit-reverse mode (R234). Update of R233 in each mode: linear adds;
modulo adds within the low bits under a power-of-two modulus; circular steps within M values from the origin; bit-reverse
adds one to the reversed field above the step's bit. -/
def Obligations.AddressRegistersUpdate : Prop :=
  (
  ∀ (f : RF) (s : State) (vs : List Word) (k : Bank), s.sources [f.sa] f.dst 0 = some (vs, k) →
  ∀ (t : SeqState) (n : Nat) (a : AReg), t = k.seq s.dev.actSeq → n = f.dst.toNat - 32 → a = t.areg n →
  (s.issues (.amode f) = true →
    ∀ suits : Prop, (suits ↔ f.fn = 0 ∨ ((f.fn = 1 ∨ f.fn = 2) ∧ ∃ e, 1 ≤ e ∧ e ≤ 32 ∧ (opnd vs 0).toNat = 2 ^ e) ∨
      (f.fn = 3 ∧ 1 ≤ (opnd vs 0).toNat ∧ (opnd vs 0).toNat ≤ 2 ^ 32)) →
    (suits → exec (.amode f) s = .next (s.wordDone (k.setSeq s.dev.actSeq (t.putAReg n
      { val := a.val, step := a.step, modulus := opnd vs 0, origin := a.val, mode := f.fn.setWidth 2 })) 1 none)) ∧
    (¬ suits → exec (.amode f) s = .next (s.trapped (s.trapOf .illegal)))) ∧
  (s.issues (.astep f) = true → exec (.astep f) s = .next (s.wordDone (k.setSeq s.dev.actSeq (t.putAReg n
    { a with step := opnd vs 0 + f.imm.signExtend 64 })) 1 none)) ∧
  (s.issues (.aadd f) = true → ∀ inc : Word, inc = opnd vs 0 + f.imm.signExtend 64 →
    exec (.aadd f) s = .next (s.wordDone (k.setSeq s.dev.actSeq (t.putAReg n
      { a with val := if a.mode = 2 then a.val + inc else a.update inc })) 1 none))) ∧
  (
  (∀ (a : AReg) (inc : Word), a.mode = 0 → a.update inc = a.val + inc) ∧
  (∀ (a : AReg) (inc : Word) (e : Nat), a.mode = 1 → e ≤ 32 → a.modulus = BitVec.ofNat 64 (2 ^ e) →
    (a.update inc).toNat = a.val.toNat / 2 ^ e * 2 ^ e + (a.val.toNat + inc.toNat) % 2 ^ e) ∧
  (∀ (a : AReg) (inc : Word), a.mode = 3 → 1 ≤ a.modulus.toNat → a.modulus.toNat ≤ 2 ^ 32 →
    ∃ r : Nat, r < a.modulus.toNat ∧ ((r : Int) - ((a.val.toNat : Int) - a.origin.toNat + inc.toInt)) % a.modulus.toNat = 0 ∧
      a.update inc = a.origin + BitVec.ofNat 64 r) ∧
  (∀ (a : AReg) (inc : Word) (e j x : Nat), a.mode = 2 → e ≤ 32 → j < e → a.modulus = BitVec.ofNat 64 (2 ^ e) →
    a.step = BitVec.ofNat 64 (2 ^ j) → x = a.val.toNat % 2 ^ e / 2 ^ j →
    (a.update inc).toNat = a.val.toNat / 2 ^ e * 2 ^ e +
      revBits (e - j) ((revBits (e - j) x + 1) % 2 ^ (e - j)) * 2 ^ j + a.val.toNat % 2 ^ j))

/-- Scalar words that name one destination change, when they answer a next state, no byte of memory, no other bank, no
partition, die or package state, no other sequencer of their bank, and of their own sequencer no g, address or predicate
register but the one DST names (a predicate for CMP and PLOG, a g or address register for the others); tiles, masks,
witnesses, local memory, the matrix state, events, engines and trails stay, and of the stream registers only those that a
field names change. -/
def Obligations.ScalarWordsFrame : Prop :=
  ∀ r ∈ ([(.cmp, true), (.plog, true), (.nop, false), (.add, false), (.sub, false), (.and, false), (.or, false), (.xor, false),
      (.shl, false), (.shr, false), (.sra, false), (.rotl, false), (.min, false), (.max, false), (.minn, false),
      (.maxn, false), (.mul, false), (.mulh, false), (.mulhn, false), (.div, false), (.divn, false), (.rem, false),
      (.remn, false), (.clz, false), (.popc, false), (.brev, false), (.sext, false), (.zext, false), (.sel, false),
      (.jr, false), (.loop, false), (.amode, false), (.aadd, false), (.astep, false)] : List ((RF → Instr) × Bool)),
  ∀ (f : RF) (s t : State), exec (r.1 f) s = .next t →
    t.mem = s.mem ∧ s.SameOtherBanks t ∧ t.dev = { s.dev with banks := t.dev.banks } ∧
    (∀ q, q ≠ s.dev.actSeq → t.bank.seq q = s.bank.seq q) ∧
    (∀ n, r.2 = true ∨ n ≠ f.dst.toNat → tget 0 t.seq.g n = tget 0 s.seq.g n) ∧
    (∀ n, r.2 = true ∨ n + 32 ≠ f.dst.toNat → t.seq.areg n = s.seq.areg n) ∧
    (∀ n, r.2 = false ∨ n ≠ f.dst.toNat → tget false t.seq.p n = tget false s.seq.p n) ∧
    (∀ n, n + 48 ≠ f.dst.toNat → n + 48 ≠ f.sa.toNat → n + 48 ≠ f.sb.toNat → t.bank.qelems n = s.bank.qelems n) ∧
    t.seq.code = s.seq.code ∧ t.seq.cyc = s.seq.cyc ∧ t.seq.wout = s.seq.wout ∧ t.seq.accs = s.seq.accs ∧
    t.seq.outq = s.seq.outq ∧ t.seq.posts = s.seq.posts ∧ t.seq.halted = s.seq.halted ∧ t.seq.released = s.seq.released ∧
    t.bank.vec = s.bank.vec ∧ t.bank.mat = s.bank.mat ∧ t.bank.events = s.bank.events ∧ t.bank.copyq = s.bank.copyq ∧
    t.bank.trails = s.bank.trails ∧ t.bank.trec0 = s.bank.trec0 ∧ t.bank.trec1 = s.bank.trec1 ∧ t.bank.status = s.bank.status

/-- BAR (R50, R231, R232). It arrives at its gang's next barrier once K's accesses have been performed and its contribution is in
place, and waits while a member that is not retired has not arrived. The last arrival decides the barrier, and its BAR issues: its
destination takes the combination of every member's contribution; a `.quad` in a gang of more than four traps with ILLEGAL, and the
arrival stays. At a barrier that is decided a BAR issues with the outcome, or traps with ILLEGAL where its operation or its scope is
not the barrier's. Its gang is all that changes outside the bank. -/
def Obligations.BarrierReleasesOnLastArrival : Prop :=
  ∀ (f : RF) (s : State) (vs : List Word) (k : Bank) (t0 : Task) (g : Gang) (inst : Table Arrival) (own : Arrival) (key : Nat),
    s.issues (.bar f) = true → s.sources [f.sa] f.dst 1 = some (vs, k) → s.seq.allPerformed → s.bank.task = some t0 →
    key = gangKey t0.part t0.gangId → tfind s.dev.gangs key = some g → inst = tget [] g.barriers s.seq.bars →
    own = { op := f.fn.toNat % 4, scope := f.fn.toNat / 4 % 8, v := opnd vs 0 } → t0.rank ≤ g.glast → g.glast < 64 →
    t0.glast = g.glast →
    ∀ done : Word → State, (∀ v, done v = s.wordDone ((k.result s.dev.actSeq f.dst 1 v).setSeq s.dev.actSeq
      { (k.result s.dev.actSeq f.dst 1 v).seq s.dev.actSeq with bars := s.seq.bars + 1 }) 1 none) →
    ∀ only : State → State → Prop, (∀ t u, only t u ↔ t.mem = u.mem ∧ t.dev = { u.dev with gangs := t.dev.gangs } ∧
      ∀ x, x ≠ key → tfind t.dev.gangs x = tfind s.dev.gangs x) →
    (
    tfind inst barDecided = none →
    (∃ r x, r ≤ g.glast ∧ r ≠ t0.rank ∧ tfind inst r = none ∧ tfind g.members r = some x ∧ x.failed = none) →
    ∃ t : State, exec (.bar f) s = .next t ∧ only t s ∧
      tfind t.dev.gangs key = some { g with barriers := tput g.barriers s.seq.bars (tput inst t0.rank own) }) ∧
    (
    tfind inst barDecided = none → (∀ r x, tfind g.members r = some x → x.failed = none) →
    (∀ r, r ≤ g.glast → r ≠ t0.rank → ∃ a, tfind inst r = some a ∧ a.op = own.op ∧ a.scope = own.scope) →
    (∀ e ∈ inst, e.1 < 64 ∧ e.2.op = own.op ∧ e.2.scope = own.scope) →
    (own.scope = 2 → 3 < g.glast → ∃ (t : State) (g' : Gang), exec (.bar f) s = .next t ∧ only t (s.trapped (s.trapOf .illegal)) ∧
      tfind t.dev.gangs key = some g' ∧ tfind (tget [] g'.barriers s.seq.bars) t0.rank = some own) ∧
    ((own.scope = 2 → g.glast ≤ 3) → ∃ (v : Word) (t : State), exec (.bar f) s = .next t ∧ only t (done v) ∧
      ∀ all : List Word, all = (List.range (g.glast + 1)).map (fun r =>
          if r = t0.rank then own.v else ((tfind inst r).map (fun a => a.v)).getD 0) →
        (own.op = 0 → ∀ i, v.getLsbD i = all.any (fun w => w.getLsbD i)) ∧
        (own.op = 1 → ∀ i < 64, v.getLsbD i = all.all (fun w => w.getLsbD i)) ∧
        (own.op = 2 → v.toNat = (all.map (fun w => w.toNat)).foldl Nat.max 0) ∧
        (own.op = 3 → v = BitVec.ofNat 64 ((all.map (fun w => w.toNat)).foldl (fun a b => a + b) 0)))) ∧
    (
    ∀ out : Arrival, tfind inst barDecided = some out →
    (own.op ≠ out.op ∨ own.scope ≠ out.scope → ∃ t : State, exec (.bar f) s = .next t ∧ only t (s.trapped (s.trapOf .illegal)) ∧
      tfind t.dev.gangs key = some g) ∧
    (own.op = out.op → own.scope = out.scope → (own.scope = 2 → g.glast ≤ 3) →
      ∃ t : State, exec (.bar f) s = .next t ∧ only t (done out.v) ∧ tfind t.dev.gangs key = some g))

/-- CSRR, CSRW, CSRS and CSRC return the word as it stood before the clock (R331, R332) and note their write for the
clock's end; the word's value is the one R333 and R334 give, with the field maps of R112, R113, R149, R180, R257, R337 and R338
for the words that it refers there. The words that the device updates stand as the clock began. When a running bank's clock ends
without a trap, a YIELD or a park, CYC of every sequencer counts it, and a write of a control word noted on it is applied: DSEED and
VSEQ take their low 32 bits, RMODE its low three unless they are 7, a write of NF clears it unless a VCHK of this clock sets it, and
K's write of CYC sets the counts (R46, R69, R331 to R334). -/
def Obligations.ControlWordsReadAndWrite : Prop :=
  (
  ∀ r ∈ ([(.csrr, 0), (.csrw, 1), (.csrs, 2), (.csrc, 3)] : List ((SF → Instr) × Nat)),
  ∀ (f : SF) (s : State) (vs : List Word) (k : Bank), s.issues (r.1 f) = true →
    s.sources (if r.2 = 0 then [] else [f.sa]) f.dst 1 = some (vs, k) →
    ∃ (old : Word) (t : State), exec (r.1 f) s = .next t ∧ t.mem = s.mem ∧
      t.dev = { (s.wordDone { (k.result s.dev.actSeq f.dst 1 old) with csrs := s.bank.csrs ++
        (if r.2 = 0 then [] else [{ seq := s.dev.actSeq, cw := f.imm.toNat % 2 ^ 12, how := r.2, v := opnd vs 0 }]) } 1 none).dev with
          dies := t.dev.dies } ∧
      (f.imm ≠ 0x188 → t.dev.dies = s.dev.dies) ∧
      (∀ c ∈ [(0x000, s.seq.cyc), (0x001, s.seq.wout.setWidth 64), (0x008, s.bank.vec.rmode.setWidth 64),
          (0x009, if s.bank.vec.nf = true ∨ (s.dev.actSeq = .X ∧ s.bank.vec.nfAt ≠ []) then 1 else 0),
          (0x00A, s.bank.vec.dseed.setWidth 64), (0x00B, s.bank.before.vseq), (0x00C, s.bank.before.mseq),
          (0x00D, s.bank.before.cnt), (0x00E, s.bank.trec0), (0x00F, s.bank.trec1), (0x010, s.bank.mbox.extractLsb' 0 64),
          (0x011, s.bank.mbox.extractLsb' 64 64), (0x012, s.bank.mbox.extractLsb' 128 64),
          (0x013, s.bank.mbox.extractLsb' 192 64), (0x014, (s.bank.mbox.extractLsb' 136 6).setWidth 64),
          (0x015, word (coreId s.dev.actBank)), (0x020, s.bank.before.qstat.getD 0 0), (0x021, s.bank.before.qstat.getD 1 0),
          (0x022, s.bank.before.qstat.getD 2 0), (0x023, s.bank.before.qstat.getD 3 0), (0x104, s.bank.before.logctl),
          (0x106, s.bank.before.logstat)], f.imm = c.1 → old = c.2) ∧
      (∀ p : Part, p = s.dev.part s.bank.part → ∀ c ∈ [(0x100, p.troot),
          (0x101, (if p.lend then 1 else 0) + (if p.borrow then 2 else 0) + p.quant % 2 ^ 16 * 2 ^ 16 +
            (Mach.of s).pool s.bank.part % 2 ^ 16 * 2 ^ 32 + p.preempts % 2 ^ 16 * 2 ^ 48),
          (0x102, p.aseq.toNat + p.acode.toNat * 2 ^ 32 + (if p.aerr then 2 ^ 34 else 0)), (0x103, p.log.base),
          (0x105, p.log.tail.toNat), (0x110, p.fmapb), (0x111, p.vmapb), (0x112, p.freq.toNat),
          (0x113, (if p.fbusy then 1 else 0) + p.fres % 4 * 2 + (if p.ferr then 8 else 0))],
        f.imm.toNat = c.1 → old = BitVec.ofNat 64 c.2) ∧
      (∀ d : Die, d = s.dev.die (s.dev.actBank / 128) → ∀ c ∈ [
          (0x180, (if d.hen then 1 else 0) + d.hepoch % 256 * 2 ^ 8 + d.hthresh % 2 ^ 16 * 2 ^ 16 + d.pinhot % 2 ^ 16 * 2 ^ 32 +
            d.nmhot % 2 ^ 16 * 2 ^ 48),
          (0x181, d.verhot % 2 ^ 16 + d.nofrm % 2 ^ 16 * 2 ^ 16 + d.migs % 2 ^ 32 * 2 ^ 32), (0x182, d.wsel.toNat)],
        f.imm.toNat = c.1 → old = BitVec.ofNat 64 c.2) ∧
      (∀ (d : Die) (e : Nat), d = s.dev.die (s.dev.actBank / 128) →
        e = (if 80 ≤ d.wsel.toNat / 2 ^ 5 % 128 then 0 else
          ((tfind ((Mach.of s).slice (80 * (s.dev.actBank / 128) + d.wsel.toNat / 2 ^ 5 % 128)).watches
            (d.wsel.toNat % 32)).map (fun w => w.bits)).getD 0) →
        (f.imm = 0x188 → old = BitVec.ofNat 64 e ∧ ∃ ws, (t.dev.die (s.dev.actBank / 128)).wdat = some ws ∧
          ∀ n < 6, ws.getD n 0 = BitVec.ofNat 64 (e / 2 ^ (64 * n))) ∧
        (∀ n, 1 ≤ n → n ≤ 5 → f.imm.toNat = 0x188 + n →
          (∀ ws, d.wdat = some ws → old = ws.getD n 0) ∧ (d.wdat = none → old = BitVec.ofNat 64 (e / 2 ^ (64 * n)))))) ∧
  (
  ∀ (s : State) (b : Nat) (k : Bank) (r : Ring), k = tget .empty s.dev.banks b → k.phase = .main → k.slot = .K →
    r = (s.dev.part k.part).log →
    (s.point b).bank = { k with before :=
      { vseq := k.vec.vseq.setWidth 64, mseq := BitVec.ofNat 64 (k.mat.mseq % 2 ^ 32),
        cnt := BitVec.ofNat 64 (k.ldc % 2 ^ 16 + k.stc % 2 ^ 16 * 2 ^ 16 + k.cpc % 2 ^ 16 * 2 ^ 32 + k.toc % 2 ^ 16 * 2 ^ 48),
        qstat := (List.range 4).map (fun n => BitVec.ofNat 64 ((k.copy n).crc.toNat + (if (k.copy n).cmpf then 2 ^ 32 else 0) +
          (k.copy n).ncmp % 256 * 2 ^ 40 + (k.copy n).cmds.length % 32 * 2 ^ 48)),
        logctl := BitVec.ofNat 64 ((if r.en then 1 else 0) + r.lsize % 32 * 2 + r.head.toNat % 2 ^ 32 * 2 ^ 32),
        logstat := BitVec.ofNat 64 r.ovf } }) ∧
  (
  ∀ (s : State) (b : Nat) (k : Bank), k = tget .empty s.dev.banks b → k.status = .running → k.phase = .engines → k.traps = [] →
    k.yielding = false → k.k.waita = none → (∀ a ∈ k.k.accs, a.kind ≠ .rmark) →
    (k.csrs = [] → k.trels = [] → s.advance b = s.withBank b
      { k.mapSeqs (fun _ t => { t with cyc := t.cyc + 1 }) with
        clk := k.clk + 1, phase := .main, slot := .K, vec := k.vec.setNf k.clk, mat := k.mat.tick }) ∧
    (∀ (q : Seq) (how : Nat) (v : Word), how = 1 ∨ how = 2 ∨ how = 3 →
      ∀ new : Word → Word, (∀ old, new old = if how = 1 then v else if how = 2 then old ||| v else old &&& ~~~v) →
      ∀ k' : Bank, k' = tget .empty (s.advance b).dev.banks b →
      (k.csrs = [{ seq := q, cw := 0x00A, how := how, v := v }] →
        k'.vec.dseed = (new (k.vec.dseed.setWidth 64)).setWidth 32 ∧ k'.vec.vseq = k.vec.vseq ∧ k'.k.cyc = k.k.cyc + 1) ∧
      (k.csrs = [{ seq := q, cw := 0x00B, how := how, v := v }] →
        k'.vec.vseq = (new (k.vec.vseq.setWidth 64)).setWidth 32 ∧ k'.vec.dseed = k.vec.dseed ∧ k'.k.cyc = k.k.cyc + 1) ∧
      (k.csrs = [{ seq := q, cw := 0x008, how := how, v := v }] → ∀ n : BitVec 3,
        n = (new (k.vec.rmode.setWidth 64)).setWidth 3 → k'.vec.rmode = if n = 7 then k.vec.rmode else n) ∧
      (k.csrs = [{ seq := q, cw := 0x009, how := how, v := v }] →
        k'.vec.nf = ((k.vec.nf && !v.getLsbD 0) || k.vec.nfAt.any (fun c => decide (c ≤ k.clk)))) ∧
      (k.csrs = [{ seq := .K, cw := 0x000, how := how, v := v }] →
        k'.k.cyc = new k.k.cyc + 1 ∧
        (k.goDone = true → k'.l.cyc = new k.k.cyc + 1 ∧ k'.x.cyc = new k.k.cyc + 1 ∧ k'.d.cyc = new k.k.cyc + 1) ∧
        (k.goDone = false → k'.l.cyc = k.l.cyc + 1 ∧ k'.x.cyc = k.x.cyc + 1 ∧ k'.d.cyc = k.d.cyc + 1))))

/-- Taking the traps of a clock (R169 to R171, R174, R179, R334): the deciding trap is the first whose disposition is
Retire, else the first Hold, else the first; TREC0 and TREC1 take it, the partition gets one record that names it with the
mask of the other sequencers, and the bank is being retired or waits for the answer. -/
def Obligations.ClockEndTakesTraps : Prop :=
  ∀ (s : State) (b : Nat) (k : Bank) (d : TrapEnt) (retires holds : TrapEnt → Prop),
    (∀ t, retires t ↔ t.cause ≠ .page ∧ t.cause ≠ .bkpt ∧ t.cause ≠ .runaway ∧ t.cause ≠ .gate) →
    (∀ t, holds t ↔ t.cause = .bkpt) →
    k = tget .empty s.dev.banks b → k.status = .running → k.phase = .engines → k.csrs = [] →
    (∀ a ∈ k.k.accs, a.kind ≠ .rmark) →
    ((∃ pre post, k.traps = pre ++ d :: post ∧ retires d ∧ ∀ x ∈ pre, ¬ retires x) ∨
      ((∀ x ∈ k.traps, ¬ retires x) ∧ ∃ pre post, k.traps = pre ++ d :: post ∧ holds d ∧ ∀ x ∈ pre, ¬ holds x) ∨
      ((∀ x ∈ k.traps, ¬ retires x ∧ ¬ holds x) ∧ k.traps.head? = some d)) →
    ∀ (k' : Bank) (src : Nat), k' = tget .empty (s.advance b).dev.banks b →
      src = d.seq.idx + (k.traps.foldl (fun a t => if t.seq = d.seq then a else a + 2 ^ (4 + t.seq.idx)) 0) →
      (s.advance b).mem = s.mem ∧ k'.traps = [] ∧
      k'.trec0 = word (d.cause.code + src * 2 ^ 8 + d.pos * 2 ^ 16) ∧ k'.trec1 = word d.va ∧
      (retires d → k'.status = .retiring ∧ k'.failed = some d.cause) ∧
      (¬ retires d → k'.status = .waiting ∧ k'.why = .answer) ∧
      (∀ q, (k'.seq q).g = (k.seq q).g ∧ (k'.seq q).pos = (k.seq q).pos ∧ (k'.seq q).cyc = (k.seq q).cyc + 1) ∧
      ∃ r : FaultRec, ((s.advance b).dev.part k.part).records = (s.dev.part k.part).records ++ [r] ∧
        r.cause = d.cause.code ∧ r.src = src ∧ r.access = d.access.code ∧ r.core = coreId b ∧ r.taskId = k.taskId ∧
        r.pos = d.pos ∧ r.va = d.va ∧ r.pa = d.pa ∧ r.detail = d.detail ∧
        (retires d → r.flags % 4 = 2 ∧ r.bank = none) ∧ (¬ retires d → r.flags % 4 = 1 ∧ r.bank = some b)

/-- RMARK enters K's queue and changes nothing else (R340). Where no access of K is before it, its record of KIND 2 is written as
the clock ends: it stands in the logbook ring at its HEAD, which counts on (R332, R336, R340). ECALL waits for K's older accesses,
and is then pending with its service, argument and destination; an answer that comes to a running bank is written: for ECHO the
argument, for POOL the free frames of the version map, for RELINQ 0, which makes the bank a candidate (R341). Which services from 4
on are registered and what they answer is the firmware's (log 7); an unregistered one answers all ones. -/
def Obligations.RmarkAndEcallTakeEffect : Prop :=
  (
  ∀ (f : SF) (s : State) (vs : List Word) (k : Bank), s.issues (.rmark f) = true → s.dev.actSeq = .K →
    s.sources [f.sa] 0 0 = some (vs, k) →
    ∃ a : Acc, a.kind = .rmark ∧ a.x = opnd vs 0 ∧ a.fn = f.imm.toNat ∧ a.id = s.bank.nextId ∧ a.pos = s.seq.pos ∧
      exec (.rmark f) s = .next (s.wordDone (k.queued .K a 0 0) 1 none)) ∧
  (
  ∀ (b : Nat) (s : State) (k k' : Bank) (a : Acc) (p : Part) (r : Ring) (place : Nat) (rec : List Byte),
    k = tget .empty s.dev.banks b → k.status = .running → k.phase = .engines → k.traps = [] → k.yielding = false →
    k.k.waita = none → k.csrs = [] → k.k.accs = [a] → a.kind = .rmark → s.uncaptured b = true →
    p = s.dev.part k.part → r = p.log → p.logWait = [] → r.en = true → r.lsize ≤ 20 → r.full 20 = false → r.base % 4096 = 0 →
    place = r.base + 32 * (r.head.toNat % 2 ^ r.lsize) → (Mach.of s).writeHeld place 32 = false →
    rec = leBytes 8 a.x.toNat ++ leBytes 4 a.fn ++ [0, 0, 0, 2] ++ leBytes 4 a.pos ++
      leBytes 4 (k.mbox.toNat / 2 ^ 96 % 2 ^ 32) ++ leBytes 2 (coreId b) ++ [0, 0] ++ leBytes 4 r.head.toNat →
    k' = tget .empty (s.advance b).dev.banks b →
    s.Wrote (s.advance b) place rec ∧ ((s.advance b).dev.part k.part).log = { r with head := r.head + 1 } ∧ k'.k.accs = [] ∧
      k'.k.pos = k.k.pos ∧ k'.status = .running) ∧
  (
  (∀ (f : SF) (s : State) (vs : List Word) (k : Bank), s.issues (.ecall f) = true → s.sources [f.sa] f.dst 1 = some (vs, k) →
    ((∃ a ∈ s.seq.accs, a.kind = .load ∧ a.sent = false) → exec (.ecall f) s = .next s) ∧
    (s.seq.allPerformed → ∃ e : Ecall, e.svc = f.imm.toNat % 256 ∧ e.arg = opnd vs 0 ∧ e.dst = f.dst.toNat ∧ e.answer = none ∧
      e.slot = s.bank.nextId ∧ ∀ k1 : Bank, k1 = { (k.awaiting s.dev.actSeq f.dst 1 s.bank.nextId) with nextId := s.bank.nextId + 1 } →
      exec (.ecall f) s = .next (s.wordDone (k1.setSeq s.dev.actSeq
        { k1.seq s.dev.actSeq with ecalls := s.seq.ecalls ++ [e] }) 1 none))) ∧
  (∀ (b : Nat) (s : State) (k : Bank) (e : Ecall), k = tget .empty s.dev.banks b → k.status = .running → k.k.ecalls = [e] →
    e.answer = none → 0 < e.dst → e.dst < 32 →
    ∃ (t : State) (v : Word) (k' : Bank), exec (.ecallAnswer b) s = .next t ∧ t.mem = s.mem ∧ k' = tget .empty t.dev.banks b ∧
      k'.k.ecalls = [] ∧ tget 0 k'.k.g e.dst = v ∧ k'.k.awaits = k.k.awaits.filter (fun p => p.2 != e.slot) ∧
      (∀ n, n ≠ e.dst → tget 0 k'.k.g n = tget 0 k.k.g n) ∧ k'.l = k.l ∧ k'.x = k.x ∧ k'.d = k.d ∧
      (e.svc = 0 → v = e.arg) ∧ (e.svc = 1 → v = word ((Mach.of s).pool k.part)) ∧
      (e.svc = 3 → v = 0 ∧ b ∈ (t.dev.part k.part).relinq) ∧
      (4 ≤ e.svc → v = if Config.ecallRegistered e.svc = true then Config.ecallAnswer e.svc e.arg.toNat s.dev.ticks
        else BitVec.allOnes 64)))

/-- LD and LDQ enter their queue and LDC with the address, scope and destination that R240 gives, the destination or the
slots of a stream register taken at issue, and post-update their base (R190, R237, R239, R240). ST and STQ enter their
queue and STC with the address and the bytes of their source values, little-endian: the low bytes of one value, or of four
for 32 bytes, the first popped lowest (R237, R239, R240). No byte of memory changes at issue. -/
def Obligations.LoadsAndStoresEnterTheirQueues : Prop :=
  (
  ∀ r ∈ [Instr.ld, .ldq], ∀ (f : MF) (s : State) (vs : List Word) (k : Bank) (n slots ea : Nat) (x : Xlat),
    s.issues (r f) = true → s.seq.lqFull = false → n = (if f.sz = 4 then 32 else 2 ^ f.sz.toNat) →
    slots = (if n = 32 then 4 else 1) → s.sources [f.base, f.idx] f.ds slots = some (vs, k) →
    ea = (opnd vs 0 + opnd vs 1 + f.off.signExtend 64).toNat → s.seq.postRefused f.base = false → ea % n = 0 →
    s.translation ea .read = some (.ok x) →
    ∃ (a : Acc) (t : State), a.kind = .load ∧ a.id = s.bank.nextId ∧ a.va = ea ∧ a.pa = x.pa ∧ a.n = n ∧ a.sc = f.sc.toNat ∧
      a.dst = f.ds.toNat ∧ a.signed = (f.fn == 1) ∧ a.pos = s.seq.pos ∧ a.sent = false ∧
      exec (r f) s = .next t ∧ t.mem = s.mem ∧
      t.dev = { (s.wordDone ((((k.passed s.dev.actSeq).postUpdated s.dev.actSeq f.base).queued s.dev.actSeq a 1 0).awaiting
        s.dev.actSeq f.ds slots a.id) 1 none).dev with cores := t.dev.cores }) ∧
  (
  ∀ r ∈ [Instr.st, .stq], ∀ (f : MF) (s : State) (vs : List Word) (k : Bank) (n ea : Nat) (x : Xlat),
    s.issues (r f) = true → s.seq.sqFull = false → n = (if f.sz = 4 then 32 else 2 ^ f.sz.toNat) →
    s.sources ([f.base, f.idx] ++ (if n = 32 then [f.ds, f.ds, f.ds, f.ds] else [f.ds])) 0 0 = some (vs, k) →
    ea = (opnd vs 0 + opnd vs 1 + f.off.signExtend 64).toNat → s.seq.postRefused f.base = false → ea % n = 0 →
    s.translation ea .write = some (.ok x) →
    ∃ (a : Acc) (t : State), a.kind = .store ∧ a.id = s.bank.nextId ∧ a.va = ea ∧ a.pa = x.pa ∧ a.n = n ∧ a.sc = f.sc.toNat ∧
      a.data.length = n ∧ (∀ i < n, a.data.getD i 0 = BitVec.ofNat 8 ((opnd vs (2 + i / 8)).toNat / 256 ^ (i % 8))) ∧
      a.pos = s.seq.pos ∧ a.sent = false ∧ exec (r f) s = .next t ∧ t.mem = s.mem ∧
      t.dev = { (s.wordDone (((k.passed s.dev.actSeq).postUpdated s.dev.actSeq f.base).queued s.dev.actSeq a 0 1) 1 none).dev with
        cores := t.dev.cores })

/-- ATOM, RED, REDX and RDX enter their queues and counters (R237, R246 to R249): ATOM's address is its base and offset,
and IDX carries x; CAS reads DS first as the new value. A task with REPRO traps ATOM with ATOMREPRO. -/
def Obligations.AtomicsEnterTheirQueues : Prop :=
  ∀ (f : MF) (s : State) (vs : List Word) (k : Bank) (ea : Nat) (x : Xlat), s.seq.postRefused f.base = false →
    s.seq.lqFull = false → s.seq.sqFull = false → x.ca ≠ 1 →
  (s.issues (.atom f) = true → s.sources ([f.base, f.idx] ++ (if f.fn = 9 then [f.ds] else [])) f.ds 1 = some (vs, k) →
    ea = (opnd vs 0 + f.off.signExtend 64).toNat →
    (s.bank.repro = true → exec (.atom f) s = .next (s.trapped (s.trapOf .atomRepro))) ∧
    (s.bank.repro = false → ea % 2 ^ f.sz.toNat = 0 → s.translation ea .atomic = some (.ok x) →
      ∃ (a : Acc) (t : State), a.kind = .atom ∧ a.id = s.bank.nextId ∧ a.va = ea ∧ a.pa = x.pa ∧ a.n = 2 ^ f.sz.toNat ∧
        a.fn = f.fn.toNat ∧ a.x = opnd vs 1 ∧ (f.fn = 9 → a.w = opnd vs 2) ∧ a.dst = f.ds.toNat ∧ exec (.atom f) s = .next t ∧
        t.mem = s.mem ∧ t.dev = { (s.wordDone ((((k.passed s.dev.actSeq).postUpdated s.dev.actSeq f.base).queued s.dev.actSeq a 1 1).awaiting
          s.dev.actSeq f.ds 1 a.id) 1 none).dev with cores := t.dev.cores })) ∧
  (s.issues (.red f) = true → s.sources [f.base, f.idx, f.ds] 0 0 = some (vs, k) →
    ea = (opnd vs 0 + opnd vs 1 + f.off.signExtend 64).toNat → ea % 2 ^ f.sz.toNat = 0 → s.translation ea .atomic = some (.ok x) →
    ∃ (a : Acc) (t : State), a.kind = .red ∧ a.id = s.bank.nextId ∧ a.va = ea ∧ a.pa = x.pa ∧ a.n = 2 ^ f.sz.toNat ∧
      a.fn = f.fn.toNat ∧ a.x = opnd vs 2 ∧ exec (.red f) s = .next t ∧ t.mem = s.mem ∧
      t.dev = { (s.wordDone (((k.passed s.dev.actSeq).postUpdated s.dev.actSeq f.base).queued s.dev.actSeq a 0 1) 1 none).dev with
        cores := t.dev.cores }) ∧
  (s.issues (.redx f) = true → s.sources [f.base, f.idx, f.ds] 0 0 = some (vs, k) →
    ea = (opnd vs 0 + opnd vs 1 + f.off.signExtend 64).toNat → ea % (if f.fn = 1 then 512 else 64) = 0 →
    s.translation ea .atomic = some (.ok x) → isHbm x.pa = true →
    ∃ (a : Acc) (t : State), a.kind = .redx ∧ a.id = s.bank.nextId ∧ a.va = ea ∧ a.pa = x.pa ∧
      a.n = (if f.fn = 1 then 512 else 64) ∧ a.fn = f.fn.toNat ∧ a.x = opnd vs 2 ∧ exec (.redx f) s = .next t ∧ t.mem = s.mem ∧
      t.dev = { (s.wordDone (((k.passed s.dev.actSeq).postUpdated s.dev.actSeq f.base).queued s.dev.actSeq a 0 1) 1 none).dev with
        cores := t.dev.cores }) ∧
  (s.issues (.rdx f) = true → s.sources [f.base, f.idx] f.ds 1 = some (vs, k) →
    ea = (opnd vs 0 + opnd vs 1 + f.off.signExtend 64).toNat → ea % (if f.fn.getLsbD 3 then 512 else 64) = 0 →
    s.translation ea .read = some (.ok x) → isHbm x.pa = true →
    ∃ (a : Acc) (t : State), a.kind = .rdx ∧ a.id = s.bank.nextId ∧ a.va = ea ∧ a.pa = x.pa ∧
      a.n = (if f.fn.getLsbD 3 then 512 else 64) ∧ a.fn = f.fn.toNat ∧ a.dst = f.ds.toNat ∧ exec (.rdx f) s = .next t ∧
      t.mem = s.mem ∧ t.dev = { (s.wordDone ((((k.passed s.dev.actSeq).postUpdated s.dev.actSeq f.base).queued s.dev.actSeq a 1 0).awaiting
        s.dev.actSeq f.ds 1 a.id) 1 none).dev with cores := t.dev.cores })

/-- MARK and FENCE stand in both queues without a stall (a FENCE of scope 0 as a MARK), and leave them at once where nothing is
before them; a FENCE.sys stays for the dirty lines of host memory and the writing peer requests of its partition (log 92). RINV
enters K's load queue, RPIN and RUNPIN the store queue; PREF changes no value: its base is post-updated, unless R233 refuses that
(R123, R241 to R245). The checks of a memory word in the order of R238, with what its trap carries (R169, R179): a refused
post-update gives ILLEGAL, a misaligned address ALIGN (whose VA rests on log 65), a refused translation PAGE, PROT or ECCU; a page
with CA 01, or outside HBM for an exact cell, PROT. A word whose translation is not in the TLB waits for a walk (R44). No byte of
memory and no register changes. -/
def Obligations.OrderingWordsQueueOrTrap : Prop :=
  (
  ∀ (f : MF) (s : State),
  (∀ r ∈ ([(.mark, true), (.fence, false)] : List ((MF → Instr) × Bool)), s.issues (r.1 f) = true →
    ∀ (kind : AccKind) (lines : List Nat) (tags : List PeerReq), kind = (if r.2 = true ∨ f.sc = 0 then .mark else .fence) →
    lines = (if kind = .fence ∧ f.sc = 5 then ((s.dev.dirtyLines (some s.bank.part)).map (fun l => l.1)) else []) →
    tags = (if kind = .fence ∧ f.sc = 5 then s.dev.pkg.reqs.filter (fun r => r.part == s.bank.part && r.opc != 1) else []) →
    (∀ h ∈ s.seq.accs.head?, h.kind ≠ .mark → h.kind ≠ .fence → ∃ a : Acc, a.kind = kind ∧ a.sc = f.sc.toNat ∧
      a.id = s.bank.nextId ∧
      exec (r.1 f) s = .next (s.wordDone ((s.bank.passed s.dev.actSeq).queued s.dev.actSeq a 0 0) 1 none)) ∧
    (s.seq.accs = [] → lines = [] → tags = [] →
      exec (r.1 f) s = .next (s.wordDone { (s.bank.passed s.dev.actSeq) with nextId := s.bank.nextId + 1 } 1 none)) ∧
    (s.seq.accs = [] → lines ≠ [] ∨ tags ≠ [] → ∃ a : Acc, a.kind = .fence ∧ a.sc = 5 ∧ a.id = s.bank.nextId ∧ a.armed = true ∧
      a.lines = lines ∧ a.tags = tags.map (fun r => r.tag) ∧
      exec (r.1 f) s = .next (s.wordDone ((s.bank.passed s.dev.actSeq).queued s.dev.actSeq a 0 0) 1 none))) ∧
  (s.issues (.rinv f) = true → s.seq.lqFull = false → f.sz = 4 → ∃ a : Acc, a.kind = .rinv ∧ a.fn = 4 ∧ a.id = s.bank.nextId ∧
    exec (.rinv f) s = .next (s.wordDone ((s.bank.passed s.dev.actSeq).queued s.dev.actSeq a 0 0) 1 none)) ∧
  (∀ (vs : List Word) (k : Bank) (ea : Nat), s.issues (.rinv f) = true → s.seq.lqFull = false → f.sz = 3 →
    s.sources [f.base, f.idx, f.ds] 0 0 = some (vs, k) → ea = (opnd vs 0 + opnd vs 1 + f.off.signExtend 64).toNat →
    (2 ^ 32 < (opnd vs 2).toNat → exec (.rinv f) s = .next (s.trapped (s.trapOf .illegal))) ∧
    ((opnd vs 2).toNat ≤ 2 ^ 32 → 2 ^ 56 ≤ ea → exec (.rinv f) s = .next (s.trapped { s.trapOf .prot with va := ea })) ∧
    ((opnd vs 2).toNat ≤ 2 ^ 32 → ea < 2 ^ 56 → ∃ a : Acc, a.kind = .rinv ∧ a.fn = 3 ∧ a.va = ea ∧ a.n = (opnd vs 2).toNat ∧
      exec (.rinv f) s = .next (s.wordDone ((k.passed s.dev.actSeq).queued s.dev.actSeq a 0 0) 1 none))) ∧
  (∀ (vs : List Word) (k : Bank) (ea l : Nat), s.issues (.rpin f) = true → s.seq.sqFull = false →
    s.sources [f.base, f.idx, f.ds] 0 0 = some (vs, k) → ea = (opnd vs 0 + opnd vs 1 + f.off.signExtend 64).toNat →
    l = (opnd vs 2).toNat / 2 ^ 8 % 32 →
    (s.seq.postRefused f.base = false → (opnd vs 2).toNat < 2 ^ 13 → (opnd vs 2).toNat / 2 ^ 4 % 16 = 0 → 12 ≤ l → l ≤ 30 →
      ea % 2 ^ l = 0 → ea + 2 ^ l ≤ 2 ^ 56 →
      ∃ a : Acc, a.kind = .pin ∧ a.va = ea ∧ a.n = l ∧ a.fn = (opnd vs 2).toNat % 16 ∧ exec (.rpin f) s =
        .next (s.wordDone (((k.passed s.dev.actSeq).queued s.dev.actSeq a 0 0).postUpdated s.dev.actSeq f.base) 1 none)) ∧
    (2 ^ 13 ≤ (opnd vs 2).toNat ∨ (opnd vs 2).toNat / 2 ^ 4 % 16 ≠ 0 ∨ l < 12 ∨ 30 < l ∨ ea % 2 ^ l ≠ 0 ∨ 2 ^ 56 < ea + 2 ^ l →
      exec (.rpin f) s = .next (s.trapped (s.trapOf .illegal)))) ∧
  (∀ (vs : List Word) (k : Bank), s.issues (.runpin f) = true → s.seq.sqFull = false → s.sources [f.ds] 0 0 = some (vs, k) →
    ((opnd vs 0).toNat < 16 → f.base = 0 → f.idx = 0 → f.off = 0 → ∃ a : Acc, a.kind = .pin ∧ a.n = 0 ∧ a.fn = (opnd vs 0).toNat ∧
      exec (.runpin f) s = .next (s.wordDone ((k.passed s.dev.actSeq).queued s.dev.actSeq a 0 0) 1 none)) ∧
    (16 ≤ (opnd vs 0).toNat → exec (.runpin f) s = .next (s.trapped (s.trapOf .illegal)))) ∧
  (∀ up : Bank → Bank, (∀ k, up k = if s.seq.postRefused f.base then k.passed s.dev.actSeq
      else (k.passed s.dev.actSeq).postUpdated s.dev.actSeq f.base) → s.issues (.pref f) = true →
    (∀ (vs : List Word) (k : Bank) (r : Except TransErr Xlat), s.sources [f.base, f.idx] 0 0 = some (vs, k) →
      s.translation (opnd vs 0 + opnd vs 1 + f.off.signExtend 64).toNat .read = some r →
      ∃ t, exec (.pref f) s = .next t ∧ t.mem = s.mem ∧ t.dev = { (s.wordDone (up k) 1 none).dev with
        cores := t.dev.cores, parts := t.dev.parts, pkg := { s.dev.pkg with links := t.dev.pkg.links } }) ∧
    (∀ (vs : List Word) (k : Bank), s.waits [f.base, f.idx] 0 0 = false → s.refuses [f.base, f.idx] 0 0 = true →
      s.fetched [f.base, f.idx] = some (vs, k) → exec (.pref f) s = .next (s.wordDone (up k) 1 none)))) ∧
  (
  ∀ r ∈ ([(.ld, .read, false, false), (.ldq, .read, false, false), (.st, .write, false, false), (.stq, .write, false, false),
      (.red, .atomic, true, false), (.redx, .atomic, true, true), (.rdx, .read, true, true)]
      : List ((MF → Instr) × Kind × Bool × Bool)),
  ∀ (f : MF) (s : State) (vs : List Word) (k : Bank) (n ea : Nat), s.issues (r.1 f) = true → s.seq.lqFull = false →
    s.seq.sqFull = false →
    n = (match r.1 f with
      | .redx _ => if f.fn = 1 then 512 else 64
      | .rdx _ => if f.fn.getLsbD 3 then 512 else 64
      | _ => if f.sz = 4 then 32 else 2 ^ f.sz.toNat) →
    (match r.1 f with
      | .ld _ | .ldq _ | .rdx _ => s.sources [f.base, f.idx] f.ds (if n = 32 then 4 else 1)
      | _ => s.sources ([f.base, f.idx] ++ (if n = 32 then [f.ds, f.ds, f.ds, f.ds] else [f.ds])) 0 0) = some (vs, k) →
    ea = (opnd vs 0 + opnd vs 1 + f.off.signExtend 64).toNat →
    (s.seq.postRefused f.base = true → exec (r.1 f) s = .next (s.trapped (s.trapOf .illegal))) ∧
    (s.seq.postRefused f.base = false → ea % n ≠ 0 →
      exec (r.1 f) s = .next (s.trapped { s.trapOf .align with va := ea, access := r.2.1 })) ∧
    (s.seq.postRefused f.base = false → ea % n = 0 →
      (s.translation ea r.2.1 = none → exec (r.1 f) s = .next (s.walking ea r.2.1)) ∧
      (∀ mg mf, s.translation ea r.2.1 = some (.error (.page mg mf)) → exec (r.1 f) s =
        .next (s.trapped { s.trapOf .page with va := ea, access := r.2.1, migrating := mg, malformed := mf })) ∧
      (s.translation ea r.2.1 = some (.error .prot) →
        exec (r.1 f) s = .next (s.trapped { s.trapOf .prot with va := ea, access := r.2.1 })) ∧
      (∀ pa, s.translation ea r.2.1 = some (.error (.eccu pa)) → exec (r.1 f) s =
        .next (s.trapped { s.trapOf .eccu with va := ea, access := r.2.1, poison := true, pa := pa })) ∧
      (∀ x, s.translation ea r.2.1 = some (.ok x) → (r.2.2.1 = true ∧ x.ca = 1) ∨ (r.2.2.2 = true ∧ isHbm x.pa = false) →
        exec (r.1 f) s = .next (s.trapped { s.trapOf .prot with va := ea, access := r.2.1 }))))

/-- A load whose turn has come delivers what memory holds at its address, little-endian, zero- or sign-extended, or four
words into the slots of its stream register; it leaves LDC, and no byte of memory changes (R118, R120, R227, R240). A load
that one older store covers takes that store's bytes (R121). -/
def Obligations.LoadsDeliverMemory : Prop :=
  ∀ (b : Nat) (q : Seq) (id : Nat) (s : State) (k : Bank) (older : List Acc) (a : Acc) (bs : List Byte) (v : Nat) (w : Word),
    k = tget .empty s.dev.banks b → findAcc id (k.seq q).accs = some (older, a) → a.kind = .load → a.sent = false →
    a.half = false → (∀ o ∈ older, o.kind = .store ∨ o.kind = .pin) → (∀ x ∈ (k.seq q).accs, x.kind ≠ .rmark) →
    a.n ∈ [1, 2, 4, 8, 32] → s.uncaptured b = true →
    (((∀ o ∈ older, o.kind = .store → ¬ (o.pa < a.pa + a.n ∧ a.pa < o.pa + o.n)) ∧ s.plain b a.pa a.n = true ∧
        (q = .K → 2 ≤ a.sc) ∧ tfind (s.dev.part (s.dev.lineOwner (some k.part))).hostLines (a.pa / 64) = none ∧
        bs = (List.range a.n).map (fun i => memGet s.mem (a.pa + i))) ∨
      (∃ o, older = [o] ∧ o.kind = .store ∧ o.pa ≤ a.pa ∧ a.pa + a.n ≤ o.pa + o.n ∧ o.data.length = o.n ∧
        (q = .K → 2 ≤ a.sc) ∧ bs = (o.data.drop (a.pa - o.pa)).take a.n)) →
    v = leNat bs → (w.toNat = if a.signed = true ∧ a.n ≤ 8 ∧ 2 ^ (8 * a.n - 1) ≤ v then v + 2 ^ 64 - 2 ^ (8 * a.n) else v % 2 ^ 64) →
    ∃ (t : State) (k' : Bank), exec (.loadPerformed b q.idx id) s = .next t ∧ t.mem = s.mem ∧ k' = tget .empty t.dev.banks b ∧
      k'.ldc = k.ldc - 1 ∧ k'.stc = k.stc ∧ (k'.seq q).accs = s.trimmed b ((k.seq q).accs.filter (fun x => x.id != id)) ∧
      (a.dst < 32 → ∀ n, n ≠ 0 → tget 0 (k'.seq q).g n = if n = a.dst then w else tget 0 (k.seq q).g n) ∧
      (32 ≤ a.dst → a.dst < 48 → (k'.seq q).areg (a.dst - 32) = { (k.seq q).areg (a.dst - 32) with val := w }) ∧
      (0 < a.dst → a.dst < 48 → (k'.seq q).awaits = (k.seq q).awaits.filter (fun p => p.2 != id)) ∧
      (48 ≤ a.dst → k'.qelems (a.dst - 48) = fillSlots id k.clk (k.qelems (a.dst - 48))
        (if a.n = 32 then (List.range 4).map (fun i => word (leNat ((bs.drop (8 * i)).take 8))) else [w])) ∧
      (k'.seq q).p = (k.seq q).p ∧ k'.vec = k.vec ∧ k'.mat = k.mat ∧ (∀ q', q' ≠ q → k'.seq q' = k.seq q') ∧
      (∀ b', b' ≠ b → tget Bank.empty t.dev.banks b' = tget Bank.empty s.dev.banks b')

/-- A store whose turn has come writes its bytes at its physical address and no other byte of memory, and leaves STC and
its queue (R118, R120, R227, R240). -/
def Obligations.StoresWriteTheirBytes : Prop :=
  ∀ (b : Nat) (q : Seq) (id : Nat) (s : State) (k : Bank) (older : List Acc) (a : Acc),
    k = tget .empty s.dev.banks b → findAcc id (k.seq q).accs = some (older, a) → a.kind = .store → a.sent = false →
    (∀ o ∈ older, (o.kind = .store ∨ o.kind = .pin) ∧ s.dev.home o.pa (some k.part) ≠ s.dev.home a.pa (some k.part)) →
    (∀ x ∈ (k.seq q).accs, x.kind ≠ .rmark) → s.plainStore b a.pa a.n = true → isHbm (a.pa + a.n - 1) = true →
    a.data.length = a.n → 0 < a.n → a.n ≤ 32 →
    ∃ (t : State) (k' : Bank), exec (.storePerformed b q.idx id) s = .next t ∧ s.Wrote t a.pa a.data ∧
      k' = tget .empty t.dev.banks b ∧ k'.stc = k.stc - 1 ∧ k'.ldc = k.ldc ∧
      (k'.seq q).accs = s.trimmed b ((k.seq q).accs.filter (fun x => x.id != id)) ∧
      (∀ q', (k'.seq q').g = (k.seq q').g ∧ (k'.seq q').a = (k.seq q').a ∧ (k'.seq q').p = (k.seq q').p) ∧ k'.q = k.q ∧
      k'.vec = k.vec ∧ k'.mat = k.mat ∧ k'.trec0 = k.trec0

/-- An ATOM, RED or REDX has two halves (R116, R120). Its read half fixes what it will write and changes no byte of memory: the new
value of its operation on n bytes, a failed CAS what it read (R247); ATOM's destination takes the old value and it leaves LDC. REDX
adds its operand exactly to the finite cell it names, whose integer N counts 2^(-149) or 2^(-1074) (R249). The write half writes
those bytes and no others, and the atomic leaves STC and its queue; until then no other write, and no other atomic, reaches them
(R128). RDX delivers a finite cell's value rounded in its mode (R249). -/
def Obligations.AtomicsReadModifyWrite : Prop :=
  (
  ∀ (b : Nat) (q : Seq) (id : Nat) (s : State) (k : Bank) (a : Acc) (old x w new : Nat),
    k = tget .empty s.dev.banks b → findAcc id (k.seq q).accs = some ([], a) →
    a.kind = .atom ∨ a.kind = .red → a.sent = false → a.half = false →
    a.n = 4 ∨ a.n = 8 → a.pa % a.n = 0 → s.plainStore b a.pa a.n = true → s.uncaptured b = true → a.fn ≤ 9 →
    old = s.le a.pa a.n → x = a.x.toNat % 2 ^ (8 * a.n) → w = a.w.toNat % 2 ^ (8 * a.n) → new < 2 ^ (8 * a.n) →
    (∀ sg : Nat → Int, (∀ v, sg v = if 2 ^ (8 * a.n - 1) ≤ v then (v : Int) - 2 ^ (8 * a.n) else v) →
      (a.fn = 0 → new = (old + x) % 2 ^ (8 * a.n)) ∧ (a.fn = 1 → new = old &&& x) ∧ (a.fn = 2 → new = old ||| x) ∧
      (a.fn = 3 → new = old ^^^ x) ∧ (a.fn = 4 → sg new = min (sg old) (sg x)) ∧ (a.fn = 5 → sg new = max (sg old) (sg x)) ∧
      (a.fn = 6 → new = min old x) ∧ (a.fn = 7 → new = max old x) ∧ (a.fn = 8 → new = x) ∧
      (a.fn = 9 → new = if old = x then w else old)) →
    ∃ (t : State) (k' : Bank), exec (.loadPerformed b q.idx id) s = .next t ∧ t.mem = s.mem ∧
      k' = tget .empty t.dev.banks b ∧ k'.stc = k.stc ∧ k'.ldc = k.ldc - (if a.kind = .atom then 1 else 0) ∧
      (k'.seq q).accs = (k.seq q).accs.map (fun y => if y.id = id then { y with half := true, data := leBytes a.n new } else y) ∧
      (∀ n, n ≠ 0 → tget 0 (k'.seq q).g n = if a.kind = .atom ∧ a.dst < 32 ∧ n = a.dst then word old else tget 0 (k.seq q).g n)) ∧
  (
  ∀ (b : Nat) (q : Seq) (id : Nat) (s : State) (k : Bank) (a : Acc), k = tget .empty s.dev.banks b →
    findAcc id (k.seq q).accs = some ([], a) → a.kind = .atom ∨ a.kind = .red ∨ a.kind = .redx → a.sent = false → a.half = true →
    (∀ y ∈ (k.seq q).accs, y.kind ≠ .rmark) → isHbm a.pa = true → (Mach.of s).hostHolds a.pa a.n = false →
    (Mach.of s).poisoned a.pa a.n = none → a.data.length = a.n → 0 < a.n →
    (∃ (t : State) (k' : Bank), exec (.storePerformed b q.idx id) s = .next t ∧ s.Wrote t a.pa a.data ∧
      k' = tget .empty t.dev.banks b ∧ k'.stc = k.stc - 1 ∧ k'.ldc = k.ldc ∧
      (k'.seq q).accs = s.trimmed b ((k.seq q).accs.filter (fun y => y.id != id))) ∧
    (∀ pa n, pa < a.pa + a.n → a.pa < pa + n → (b, k) ∈ s.dev.banks → (Mach.of s).writeHeld pa n = true)) ∧
  (
  ∀ (b : Nat) (q : Seq) (id : Nat) (s : State) (k : Bank) (a : Acc) (f64 : Bool) (sz e0 : Nat), k = tget .empty s.dev.banks b →
    findAcc id (k.seq q).accs = some ([], a) → a.sent = false → a.half = false → (∀ y ∈ (k.seq q).accs, y.kind ≠ .rmark) →
    sz = (if f64 then 512 else 64) → e0 = (if f64 then 1074 else 149) → a.n = sz → a.pa % sz = 0 →
    (∀ (n m : Int) (e : Nat) (new : List Byte), a.kind = .redx → a.fn = (if f64 then 1 else 0) → s.plainStore b a.pa sz = true →
      s.le (a.pa + (sz - 8)) 8 = 0 →
      (n % 2 ^ (8 * (sz - 8)) = s.le a.pa (sz - 8) ∧ -(2 ^ (8 * (sz - 8) - 1)) ≤ n ∧ n < 2 ^ (8 * (sz - 8) - 1)) →
      (if f64 then fmtF64.value a.x.toNat else fmtF32.value (a.x.toNat % 2 ^ 32)) = .fin m e → e ≤ e0 →
      -(2 ^ (8 * (sz - 8) - 1)) ≤ n + m * 2 ^ (e0 - e) → n + m * 2 ^ (e0 - e) < 2 ^ (8 * (sz - 8) - 1) →
      new = leBytes (sz - 8) ((n + m * 2 ^ (e0 - e)) % 2 ^ (8 * (sz - 8))).toNat ++ [0, 0, 0, 0, 0, 0, 0, 0] →
      ∃ (t : State) (k' : Bank), exec (.loadPerformed b q.idx id) s = .next t ∧ t.mem = s.mem ∧ k' = tget .empty t.dev.banks b ∧
        (k'.seq q).accs = (k.seq q).accs.map (fun y => if y.id = id then { y with half := true, data := new } else y)) ∧
    (a.kind = .rdx → a.fn / 8 % 2 = (if f64 then 1 else 0) → a.fn % 8 ≤ 5 → s.plain b a.pa sz = true → s.uncaptured b = true →
      ∃ (t : State) (k' : Bank), exec (.loadPerformed b q.idx id) s = .next t ∧ t.mem = s.mem ∧ k' = tget .empty t.dev.banks b ∧
        k'.ldc = k.ldc - 1 ∧ (0 < a.dst → a.dst < 32 → ∀ n : Int, s.le (a.pa + (sz - 8)) 8 = 0 →
          (n % 2 ^ (8 * (sz - 8)) = s.le a.pa (sz - 8) ∧ -(2 ^ (8 * (sz - 8) - 1)) ≤ n ∧ n < 2 ^ (8 * (sz - 8) - 1)) →
          n.natAbs < 2 ^ ((if f64 then 1400 else 200) + e0) →
          tget 0 (k'.seq q).g a.dst = word (round (if f64 then .f64 else .f32) (Rnd.ofCode (a.fn % 8)) false 0 (.fin n e0)))))

/-- WAITA makes its first read: a word that differs has outcome DIFF, an equal one with bound 0 BOUND, and else the
sequencer parks in a slot of the word's home slice; the word stalls and writes nothing (R165, R250, R251). It traps with ALIGN
(whose VA rests on log 65) and PROT as R238 and R250 say. When the bound has passed in K's CYC, the outcome is BOUND, and a bank
that switched out under the park rule is ready (R166, R173). The return of a WAITA reads the word again: its destination takes that
value, its predicate says whether it differs from the expected one, WOUT takes the outcome code, its slot is free, and the word has
issued (R166, R251). -/
def Obligations.WaitaReadsParksAndReturns : Prop :=
  (
  (∀ (f : MF) (s : State) (vs : List Word) (k : Bank) (n ea v e : Nat) (x : Xlat), s.issues (.waita f) = true → s.dev.actSeq = .K →
    s.seq.waita = none → s.seq.accs = [] → s.seq.keyReady s.bank.clk (64 + f.off.toNat % 8) = true →
    s.sources [f.base, f.idx, f.ds] f.ds 1 = some (vs, k) → ea = (opnd vs 0).toNat → n = 2 ^ f.sz.toNat →
    (ea % n ≠ 0 → exec (.waita f) s = .next (s.trapped { s.trapOf .align with va := ea })) ∧
    (ea % n = 0 → s.translation ea .read = none → exec (.waita f) s = .next (s.walking ea .read)) ∧
    (ea % n = 0 → s.translation ea .read = some (.ok x) → x.ca = 1 ∨ isHbm x.pa = false →
      exec (.waita f) s = .next (s.trapped { s.trapOf .prot with va := ea })) ∧
    (ea % n = 0 → s.translation ea .read = some (.ok x) → x.ca ≠ 1 → s.plain s.dev.actBank x.pa n = true →
      s.uncaptured s.dev.actBank = true → v = s.le x.pa n → e = (opnd vs 1).toNat % 2 ^ (8 * n) →
      ∃ (t : State) (w : Waita), exec (.waita f) s = .next t ∧ t.mem = s.mem ∧ t.seq.waita = some w ∧ t.seq.pos = s.seq.pos ∧
        t.seq.g = s.seq.g ∧ t.bank.q = s.bank.q ∧ w.pa = x.pa ∧ w.n = n ∧ w.expected = e ∧ w.bound = (opnd vs 2).toNat ∧
        w.since = s.seq.cyc.toNat ∧ w.dst = f.ds.toNat ∧ w.pdst = f.off.toNat % 8 ∧
        (v ≠ e → w.outcome = some 0) ∧ (v = e → opnd vs 2 = 0 → w.outcome = some 2) ∧
        (v = e → opnd vs 2 ≠ 0 → w.outcome = none ∧ w.slice = s.dev.home x.pa (some s.bank.part) ∧
          ∃ p, tfind ((Mach.of t).slice w.slice).parks w.slot = some p ∧ p.pa = x.pa ∧ p.n = n ∧ p.bank = s.dev.actBank))) ∧
  (∀ (b : Nat) (s : State) (k : Bank) (w : Waita) (passed : Prop), k = tget .empty s.dev.banks b → k.k.waita = some w →
    w.outcome = none → (passed ↔ w.bound ≤ (k.k.cyc.toNat + (2 ^ 64 - w.since)) % 2 ^ 64) →
    (passed → ¬ (k.status = .waiting ∧ k.why = .parked) → exec (.waitaBoundExpiry b) s =
      .next (s.withBank b { k with k := { k.k with waita := some { w with outcome := some 2 } } })) ∧
    (passed → k.status = .waiting → k.why = .parked → exec (.waitaBoundExpiry b) s =
      .next (s.ordered.withBank b { k with
        k := { k.k with waita := some { w with outcome := some 2 } }, status := .ready, why := .none, readyAt := s.dev.nextOrd })) ∧
    (¬ passed → exec (.waitaBoundExpiry b) s = .next s))) ∧
  (
  ∀ (b : Nat) (s : State) (k k1 : Bank) (w : Waita) (code v : Nat) (vs : List Word), k = tget .empty s.dev.banks b →
    k.status = .running → k.k.waita = some w → w.outcome = some code → code < 4 → w.forced = none → s.plain b w.pa w.n = true →
    s.uncaptured b = true → fetchFields .K k w.srcs = some (vs, k1) → 0 < w.dst → w.dst < 32 → w.n = 4 ∨ w.n = 8 →
    v = s.le w.pa w.n →
    ∃ (t : State) (k' : Bank), exec (.waitaReturn b) s = .next t ∧ t.mem = s.mem ∧ k' = tget .empty t.dev.banks b ∧
      k'.k.waita = none ∧ (∀ n, n ≠ 0 → tget 0 k'.k.g n = if n = w.dst then word v else tget 0 k.k.g n) ∧
      (∀ n, tget false k'.k.p n = if n = w.pdst then decide (v ≠ w.expected) else tget false k.k.p n) ∧
      k'.k.wout = BitVec.ofNat 2 code ∧ k'.k.pos = (k.k.retire k.clk 1 none).pos ∧ k'.q = k1.q ∧ k'.l = k.l ∧ k'.x = k.x ∧
      k'.d = k.d ∧ ∀ p, tfind ((Mach.of s).slice w.slice).parks w.slot = some p → p.bank = b →
        tfind ((Mach.of t).slice w.slice).parks w.slot = none)

/-- WSET reads its request and, where every check passes, writes the entries of the watch and returns the handle that
names its lead entry; a request or a range in the peer window traps with PROT (R359), a reserved field, or a request that R152
refuses, with WATCHX (R151 to R153, R252, R253). WCLR
disarms every entry of a watch, and frees them unless a trigger is pending; WARM arms them again; WINFO gives the words of
the task's own record or of the watch's state; a handle that names no lead entry of the partition, or has bits above 15,
traps with WATCHX (R161, R162, R254, R255). -/
def Obligations.WatchesAreSetClearedAndRead : Prop :=
  (
  ∀ (f : MF) (s : State) (vs : List Word) (k : Bank) (ea : Nat) (x y : Xlat) (req : List Byte) (size dlim rbud : Nat),
    s.issues (.wset f) = true → s.dev.actSeq = .K → s.seq.allPerformed → s.sources [f.base, f.idx] f.ds 1 = some (vs, k) →
    ea = (opnd vs 0 + opnd vs 1 + f.off.signExtend 64).toNat → ea % 32 = 0 → s.translation ea .read = some (.ok x) →
    (isPeer x.pa = true → exec (.wset f) s = .next (s.trapped { s.trapOf .prot with va := ea })) ∧
    (s.plain s.dev.actBank x.pa 32 = true → req = (List.range 32).map (fun i => memGet s.mem (x.pa + i)) →
    ∀ field : Nat → Nat → Nat, (∀ o n, field o n = leNat ((req.drop o).take n)) →
    size = field 23 1 % 16 → dlim = field 24 1 % 16 → rbud = field 26 1 →
    (field 23 1 / 32 ≠ 0 ∨ field 24 1 / 16 ≠ 0 ∨ field 25 1 / 32 ≠ 0 ∨ field 27 5 ≠ 0 →
      exec (.wset f) s = .next (s.trapped (s.trapOf .watchx))) ∧
    (field 23 1 / 32 = 0 → field 24 1 / 16 = 0 → field 25 1 / 32 = 0 → field 27 5 = 0 →
      (Mach.of s).translateLeaf s.bank.part (field 0 8) .read = .ok y →
      ∀ ok : Prop, (ok ↔ size ≤ 11 ∧ field 0 8 % 2 ^ (size + 5) = 0 ∧ y.pa + 2 ^ (size + 5) ≤ y.page + pageBytes y.size ∧
        isHbm y.pa = true ∧ (tfind (s.dev.part s.bank.part).images (field 16 4)).isSome = true ∧ dlim ≠ 0 ∧ rbud ≠ 0) →
      (isPeer y.pa = true → exec (.wset f) s = .next (s.trapped { s.trapOf .prot with va := field 0 8 })) ∧
      (¬ ok → isPeer y.pa = false → exec (.wset f) s = .next (s.trapped (s.trapOf .watchx))) ∧
      (ok → ∀ ls, ls = s.dev.watchSlices y.pa size → ls ≠ [] →
        (∀ l ∈ ls, ((Mach.of s).slice l).freeWatch ≠ none) →
        ∃ (t : State) (h l e : Nat) (w : Watch), exec (.wset f) s = .next t ∧ t.mem = s.mem ∧ l = ls.headD 0 ∧
          h = e + l % 80 * 2 ^ 5 + l / 80 * 2 ^ 12 ∧ tfind ((Mach.of t).slice l).watches e = some w ∧ w.lead = true ∧
          w.arm = true ∧ w.leadh = h ∧ w.pbase = y.pa / 32 ∧ w.size = size ∧ w.vbase = field 0 8 ∧ w.uword = word (field 8 8) ∧
          w.image = field 16 4 ∧ w.qmask = field 20 2 ∧ w.prio = min (field 22 1) s.bank.prio ∧ w.dlim = dlim ∧ w.rbud = rbud ∧
          w.pend = false ∧ w.count = 0 ∧ w.rused = 0 ∧ w.part = s.bank.part ∧
          t.dev.banks = (s.wordDone (((k.passed .K).postUpdated .K f.base).result .K f.ds 1 (word h)) 1 none).dev.banks)))) ∧
  (
  ∀ (f : RF) (s : State) (vs : List Word) (k : Bank) (h : Nat), s.seq.allPerformed →
    s.sources [f.sa] f.dst (if f.dst = 0 then 0 else 1) = some (vs, k) → h = (opnd vs 0).toNat →
    (∀ r ∈ [Instr.wclr, .warm, .winfo], s.issues (r f) = true → (∀ i, r f = .winfo i → f.fn.getLsbD 4 = true) →
      (∀ sl e w, s.dev.leadOf h = some (sl, e, w) → w.part ≠ s.bank.part) → exec (r f) s = .next (s.trapped (s.trapOf .watchx))) ∧
    (∀ sl e w, s.dev.leadOf h = some (sl, e, w) → w.part = s.bank.part → w.cleared = false →
      (s.issues (.wclr f) = true → ∃ t, exec (.wclr f) s = .next t ∧ t.mem = s.mem ∧
        t.dev = { (s.wordDone (k.passed s.dev.actSeq) 1 none).dev with slices := t.dev.slices } ∧
        (∀ l u v, tfind ((Mach.of s).slice l).watches u = some v → v.leadh ≠ h → tfind ((Mach.of t).slice l).watches u = some v) ∧
        (w.pend = false → ∀ l u v, tfind ((Mach.of t).slice l).watches u = some v → v.leadh ≠ h) ∧
        (w.pend = true → ∀ l u v, tfind ((Mach.of t).slice l).watches u = some v → v.leadh = h → v.arm = false ∧ v.cleared = true)) ∧
      (s.issues (.warm f) = true → w.arm = false → ∃ t, exec (.warm f) s = .next t ∧ t.mem = s.mem ∧
        t.dev = { (s.wordDone (k.passed s.dev.actSeq) 1 none).dev with slices := t.dev.slices } ∧
        ∀ l u v, tfind ((Mach.of t).slice l).watches u = some v → v.leadh = h → v.arm = true) ∧
      (s.issues (.winfo f) = true → f.fn.getLsbD 4 = true → ∃ v : Word, exec (.winfo f) s =
          .next (s.wordDone ((k.passed s.dev.actSeq).result s.dev.actSeq f.dst 1 v) 1 none) ∧
        (f.fn.toNat % 4 = 0 → v = word (w.vbase + (if w.pend then w.first else 0))) ∧
        (f.fn.toNat % 4 = 1 → v = word (w.vbase + (if w.pend then w.last else 0))) ∧ (f.fn.toNat % 4 = 2 → v = w.uword) ∧
        (f.fn.toNat % 4 = 3 → v = word (w.leadh + (if w.pend then w.count * 2 ^ 16 + w.pdepth * 2 ^ 32 else 0) +
          b2n w.queued * 2 ^ 40 + b2n w.arm * 2 ^ 48 + b2n w.pend * 2 ^ 49)))) ∧
    (∀ (us : List Word) (k1 : Bank), s.issues (.winfo f) = true → f.fn.getLsbD 4 = false → s.sources [] f.dst 1 = some (us, k1) →
      exec (.winfo f) s = .next (s.wordDone ((k1.passed s.dev.actSeq).result s.dev.actSeq f.dst 1
        (word (leNat ((s.bank.lookout.drop (8 * (f.fn.toNat % 4))).take 8)))) 1 none)))

/-- Copy-family words enter their queue with their operands, and CPC; what R260 and R261 refuse at issue traps: a length
above its limit or no multiple of 8 with ILLEGAL, a missing binding with QOVF, a misaligned CRCQ.PUT with ALIGN (whose VA rests on log 65). A full queue holds the word. -/
def Obligations.CopyWordsEnterTheirQueue : Prop :=
  (∀ r ∈ [Instr.cpy, .cpySnk, .cpySrc, .cpy2, .gath, .scat, .crcqSum, .crcqPut, .crcqSeed], ∀ (f : QF) (s : State),
    s.issues (r f) = true → 16 ≤ (s.bank.copy f.qn.toNat).cmds.length → exec (r f) s = .next s) ∧
  ∀ (f : QF) (s : State) (vs : List Word) (k : Bank) (n da sa ln : Nat) (done : Cmd → State), n = f.qn.toNat →
    (s.bank.copy n).cmds.length < 16 → s.sources [f.da, f.sa, f.ln] 0 0 = some (vs, k) → da = (opnd vs 0).toNat →
    sa = (opnd vs 1).toNat → ln = (opnd vs 2).toNat →
    (∀ d, done d = s.wordDone ((k.passed s.dev.actSeq).commanded n d) 1 none) →
    (∀ r ∈ ([(.cpy, .cpy), (.crcqSum, .crcSum)] : List ((QF → Instr) × CmdKind)), s.issues (r.1 f) = true →
      (2 ^ 40 < ln → exec (r.1 f) s = .next (s.trapped (s.trapOf .illegal))) ∧
      (ln ≤ 2 ^ 40 → ∃ d : Cmd, d.kind = r.2 ∧ d.sa = sa ∧ (r.2 = .cpy → d.da = da) ∧ d.len = ln ∧ d.crc = f.crc.toNat ∧
        d.started = false ∧ exec (r.1 f) s = .next (done d))) ∧
    (∀ r ∈ ([(.cpySnk, .snk, .copyIn n), (.cpySrc, .src, .copyOut n)] : List ((QF → Instr) × CmdKind × QBinding)),
      s.issues (r.1 f) = true → f.fn ≠ 3 →
      (2 ^ 40 < ln ∨ ln % 8 ≠ 0 → exec (r.1 f) s = .next (s.trapped (s.trapOf .illegal))) ∧
      (ln ≤ 2 ^ 40 → ln % 8 = 0 → (∀ q < 16, s.bank.qbound q ≠ r.2.2) → exec (r.1 f) s = .next (s.trapped (s.trapOf .qovf))) ∧
      (ln ≤ 2 ^ 40 → ln % 8 = 0 → (∃ q < 16, s.bank.qbound q = r.2.2) → ∃ d : Cmd, d.kind = r.2.1 ∧ (r.2.1 = .snk → d.sa = sa) ∧
        (r.2.1 = .src → d.da = da) ∧ d.len = ln ∧ d.crc = f.crc.toNat ∧ d.started = false ∧ exec (r.1 f) s = .next (done d))) ∧
    (s.issues (.cpySnk f) = true → f.fn = 3 → exec (.cpySnk f) s = .next (s.trapped (s.trapOf .illegal))) ∧
    (s.issues (.cpy2 f) = true →
      (2 ^ 40 < ln % 2 ^ 32 * (ln / 2 ^ 32) → exec (.cpy2 f) s = .next (s.trapped (s.trapOf .illegal))) ∧
      (ln % 2 ^ 32 * (ln / 2 ^ 32) ≤ 2 ^ 40 → ∃ d : Cmd, d.kind = .cpy2 ∧ d.da = da ∧ d.sa = sa ∧ d.len = ln % 2 ^ 32 ∧
        d.rows = ln / 2 ^ 32 ∧ d.ds = (if isA f.da then (s.seq.areg (f.da.toNat - 32)).step.toNat else ln % 2 ^ 32) ∧
        d.ss = (if isA f.sa then (s.seq.areg (f.sa.toNat - 32)).step.toNat else ln % 2 ^ 32) ∧ d.started = false ∧
        exec (.cpy2 f) s = .next (done d))) ∧
    (∀ r ∈ ([(.gath, .gath), (.scat, .scat)] : List ((QF → Instr) × CmdKind)), s.issues (r.1 f) = true →
      (2 ^ 24 < ln → exec (r.1 f) s = .next (s.trapped (s.trapOf .illegal))) ∧
      (ln ≤ 2 ^ 24 → (∀ q < 16, s.bank.qbound q ≠ .copyOut n) → exec (r.1 f) s = .next (s.trapped (s.trapOf .qovf))) ∧
      (ln ≤ 2 ^ 24 → (∃ q < 16, s.bank.qbound q = .copyOut n) → ∃ d : Cmd, d.kind = r.2 ∧ d.da = da ∧ d.sa = sa ∧ d.len = ln ∧
        d.esz = 2 ^ (f.fn.toNat % 4) ∧ d.ix = f.fn.getLsbD 2 ∧ d.started = false ∧ exec (r.1 f) s = .next (done d))) ∧
    (s.issues (.crcqPut f) = true →
      (da % 4 ≠ 0 → exec (.crcqPut f) s = .next (s.trapped { s.trapOf .align with va := da, access := .write })) ∧
      (da % 4 = 0 → ∃ d : Cmd, d.kind = .crcPut ∧ d.da = da ∧ d.started = false ∧ exec (.crcqPut f) s = .next (done d))) ∧
    (s.issues (.crcqSeed f) = true → ∃ d : Cmd, d.kind = .crcSeed ∧ d.seed = opnd vs 1 ∧ d.started = false ∧
      exec (.crcqSeed f) s = .next (done d))

/-- TRSET, TRADV and TREL wait while 16 commands are queued at their trail (R44, R256). TRSET sets a trail whose descriptor suits
R263 and whose ring is free, and adds an input trail's rows to TOC; it waits for a released ring that it overlaps. TRADV and TREL
queue behind the trail's earlier commands; TREL frees the number for the words of its clock, and the window as the clock ends (R265,
R300). Each traps with TRAILX where R263 to R265 say, on the clock on which it would issue (R169). A trail's next row begins in
ascending order while fewer than DEPTH are outstanding, with its sectors (R102, R116); a sector read puts its bytes in the row's slot
of local memory, and a sector write puts the slot's bytes in memory and no others; a row whose sectors are all performed has
arrived, or has been written and frees its slot, and leaves TOC (R263, R264). How the rows and sectors of a trail are numbered, and
that a row's end is an event of its own, is the model's (log 61). -/
def Obligations.TrailWordsAndRows : Prop :=
  (
  ∀ (f : QF) (s : State) (n : Nat), n = f.qn.toNat →
    (∀ r ∈ [Instr.trset, .tradv, .trel], s.issues (r f) = true → 16 ≤ (s.bank.trail n).queued → exec (r f) s = .next s) ∧
    (∀ (vs : List Word) (k : Bank), s.issues (.trset f) = true → (s.bank.trail n).queued < 16 → s.sources [f.sa] 0 0 = some (vs, k) →
      (s.bank.descs[f.imm.toNat]? = none → exec (.trset f) s = .next (s.trapped (s.trapOf .trailx))) ∧
      (∀ d, s.bank.descs[f.imm.toNat]? = some d →
        ∀ suits free : Prop, (suits ↔ d.dir ≤ 1 ∧ d.rowlen % 4 = 0 ∧ 4 ≤ d.rowlen ∧ d.rowlen ≤ 4096 ∧ 1 ≤ d.ringrows ∧
          d.ringrows ≤ 2048 ∧ 1 ≤ d.depth ∧ d.depth ≤ min 256 d.ringrows ∧ d.ring % 4 = 0 ∧
          d.ring + d.ringrows * d.rowlen ≤ 0x100000) →
        (free ↔ (∀ g ∈ s.bank.settings false, g.desc.ringOverlaps d = false) ∧
          s.bank.toc + (if d.dir = 0 then d.ringrows else 0) ≤ 65535) →
        (suits → ¬ free → exec (.trset f) s = .next s) ∧
        (¬ suits → exec (.trset f) s = .next (s.trapped (s.trapOf .trailx))) ∧
        (suits → free → s.bank.trailNow n ≠ none ∨ (∃ g ∈ s.bank.settings true, g.desc.ringOverlaps d = true) →
          exec (.trset f) s = .next (s.trapped (s.trapOf .trailx))) ∧
        (suits → free → s.bank.trailNow n = none → (∀ g ∈ s.bank.settings true, g.desc.ringOverlaps d = false) →
          ∃ (g : TrailGen) (k' : Bank), g.desc = d ∧ g.base = (opnd vs 0).toNat ∧ g.oldest = 0 ∧ g.cmds = [] ∧ g.released = false ∧
            g.opened = false ∧ (∀ j, tfind g.rows j = if d.dir = 0 ∧ j < d.ringrows then some .pending else none) ∧
            k' = { (k.passed s.dev.actSeq) with
              nextId := s.bank.nextId + 1, toc := s.bank.toc + (if d.dir = 0 then d.ringrows else 0),
              trails := tput s.bank.trails n { s.bank.trail n with gens := (s.bank.trail n).gens ++ [g], isSet := true },
              trels := s.bank.trels.filter (fun x => x != n) } ∧
            exec (.trset f) s = .next (s.wordDone k' 1 none)))) ∧
    (∀ (vs : List Word) (k : Bank), s.issues (.tradv f) = true → (s.bank.trail n).queued < 16 → s.sources [f.ln] 0 0 = some (vs, k) →
      ∀ c, c = (opnd vs 0).toNat + f.imm.toNat →
      (s.bank.trailNow n = none → exec (.tradv f) s = .next (s.trapped (s.trapOf .trailx))) ∧
      (∀ g, s.bank.trailNow n = some g →
        (c = 0 ∨ g.desc.ringrows < c → exec (.tradv f) s = .next (s.trapped (s.trapOf .trailx))) ∧
        (0 < c → c ≤ g.desc.ringrows → 65535 < s.bank.toc + c → exec (.tradv f) s = .next s) ∧
        (0 < c → c ≤ g.desc.ringrows → s.bank.toc + c ≤ 65535 →
          ∃ (x : TrailCmd) (k' : Bank), x.adv = some c ∧ x.ord = s.bank.nextId ∧ k' = { (k.passed s.dev.actSeq) with
              nextId := s.bank.nextId + 1, toc := s.bank.toc + c,
              trails := tput s.bank.trails n ((s.bank.trail n).modGen g.uid (fun g => { g with cmds := g.cmds ++ [x] })) } ∧
            exec (.tradv f) s = .next (s.wordDone k' 1 none)))) ∧
    (s.issues (.trel f) = true → (s.bank.trail n).queued < 16 →
      (s.bank.trailNow n = none → exec (.trel f) s = .next (s.trapped (s.trapOf .trailx))) ∧
      (∀ g, s.bank.trailNow n = some g →
        ∃ (x : TrailCmd) (tr : Trail), x.adv = none ∧ tr = (s.bank.trail n).modGen g.uid
            (fun g => { g with cmds := g.cmds ++ [x], released := true }) ∧
          exec (.trel f) s = .next (s.wordDone { (s.bank.passed s.dev.actSeq) with
            nextId := s.bank.nextId + 1, trails := tput s.bank.trails n tr, trels := n :: s.bank.trels } 1 none)))) ∧
  (
  (∀ (b : Nat) (s : State) (k : Bank), k = tget .empty s.dev.banks b → k.status = .running → k.phase = .engines → k.traps = [] →
    k.yielding = false → k.k.waita = none → (∀ a ∈ k.k.accs, a.kind ≠ .rmark) → k.csrs = [] →
    ∀ n ∈ k.trels, ((tget .empty (s.advance b).dev.banks b : Bank).trail n).isSet = false) ∧
  (∀ (b n : Nat) (s : State) (k : Bank) (g : TrailGen) (gs : List TrailGen) (j : Nat) (st : RowState), k = tget .empty s.dev.banks b →
    (k.trail n).gens = g :: gs → (k.trail n).fault = none → k.status = .running → g.closing = false → g.opened = true →
    g.cmds = [] → k.trailQ n = none → (∀ i x, (i, x) ∈ g.rows → i < j → x ≠ .pending ∧ x ≠ .writing) → tfind g.rows j = some st →
    st = .pending ∨ (st = .writing ∧ tfind g.sectors j = none) → (g.rows.map (fun r => r.1)).Pairwise (fun a b => a < b) →
    g.sectors.length < g.desc.depth → (∀ r ∈ g.sectors, g.batchOf r.1 = g.batchOf j) →
    ∃ (t : State) (k' : Bank) (g' : TrailGen), exec (.engineCommandStart b (4 + n)) s = .next t ∧ t.mem = s.mem ∧
      k' = tget .empty t.dev.banks b ∧ (k'.trail n).gens = g' :: gs ∧
      g'.rows = (if st = .pending then tput g.rows j .begun else g.rows) ∧ g'.sectors = tput g.sectors j (g.rowChunks j) ∧
      k'.toc = k.toc) ∧
  (∀ (b n : Nat) (s : State) (k : Bank) (g : TrailGen) (gs : List TrailGen) (j : Nat) (c : Chunk) (x : Xlat),
    k = tget .empty s.dev.banks b → (k.trail n).gens = g :: gs → (k.trail n).fault = none → g.desc.dir = 0 →
    (tget [] g.sectors j).find? (fun d => d.off == c.off) = some c → c.sent = false → c.off < g.desc.rowlen →
    s.inTlb b c.va .read x → s.plain b x.pa c.n = true →
    ∃ (t : State) (k' : Bank) (g' : TrailGen), exec (.loadPerformed b (8 + n) (j * g.desc.rowlen + c.off)) s = .next t ∧
      t.mem = s.mem ∧ k' = tget .empty t.dev.banks b ∧ (k'.trail n).gens = g' :: gs ∧ g'.rows = g.rows ∧
      g'.sectors = tput g.sectors j ((tget [] g.sectors j).filter (fun d => d.off != c.off)) ∧ k'.toc = k.toc ∧
      k'.vec.lread (g.desc.slotAt j + c.off) c.n = (List.range c.n).map (fun i => memGet s.mem (x.pa + i)) ∧
      (∀ o, o < g.desc.slotAt j + c.off ∨ g.desc.slotAt j + c.off + c.n ≤ o → k'.vec.lread o 1 = k.vec.lread o 1)) ∧
  (∀ (b n : Nat) (s : State) (k : Bank) (g : TrailGen) (gs : List TrailGen) (j : Nat), k = tget .empty s.dev.banks b →
    (k.trail n).gens = g :: gs → (k.trail n).fault = none → g.closing = false → k.trailQ n = none → j ∉ g.retired →
    g.desc.dir = 0 → tfind g.sectors j = some [] →
    ∃ (t : State) (k' : Bank) (g' : TrailGen), exec (.trailRowArrival b n j) s = .next t ∧ t.mem = s.mem ∧
      k' = tget .empty t.dev.banks b ∧ (k'.trail n).gens = g' :: gs ∧ g'.rows = tput g.rows j .arrived ∧
      tfind g'.sectors j = none ∧ k'.toc = k.toc - 1 ∧ k'.vec = k.vec) ∧
  (∀ (b n : Nat) (s : State) (k : Bank) (g : TrailGen) (gs : List TrailGen) (j : Nat) (c : Chunk) (x : Xlat),
    k = tget .empty s.dev.banks b → (k.trail n).gens = g :: gs → (k.trail n).fault = none → g.desc.dir ≠ 0 →
    (tget [] g.sectors j).find? (fun d => d.off == c.off) = some c → c.off < g.desc.rowlen →
    s.inTlb b c.va .write x → s.plainStore b x.pa c.n = true →
    ∃ (t : State) (k' : Bank) (g' : TrailGen), exec (.storePerformed b (8 + n) (j * g.desc.rowlen + c.off)) s = .next t ∧
      s.Wrote t x.pa (k.vec.lread (g.desc.slotAt j + c.off) c.n) ∧ k' = tget .empty t.dev.banks b ∧
      (k'.trail n).gens = g' :: gs ∧ g'.rows = g.rows ∧
      g'.sectors = tput g.sectors j ((tget [] g.sectors j).filter (fun d => d.off != c.off)) ∧ k'.toc = k.toc ∧ k'.vec = k.vec) ∧
  (∀ (b n : Nat) (s : State) (k : Bank) (g : TrailGen) (gs : List TrailGen) (j : Nat), k = tget .empty s.dev.banks b →
    (k.trail n).gens = g :: gs → (k.trail n).fault = none → g.closing = false → k.trailQ n = none → g.desc.dir ≠ 0 →
    tfind g.sectors j = some [] →
    ∃ (t : State) (k' : Bank) (g' : TrailGen), exec (.drainRowWritten b n j) s = .next t ∧ t.mem = s.mem ∧
      k' = tget .empty t.dev.banks b ∧ (k'.trail n).gens = g' :: gs ∧
      (∀ i, tfind g'.rows i = if i = j then none else tfind g.rows i) ∧ tfind g'.sectors j = none ∧ k'.toc = k.toc - 1))

/-- QFENCE notes what it names and issues; a younger memory word waits until that is performed (R124, R266). QBIND binds
and unbinds a stream register, traps with QOVF where R267 says and with ILLEGAL for a copy queue above 3, and waits while what it
names holds a command. A QFENCE that names nothing traps with ILLEGAL. -/
def Obligations.JoinAndBindWordsTakeEffect : Prop :=
  (∀ (f : QF) (s : State), s.issues (.qfence f) = true → f.imm ≠ 0 → ∃ z : Qfence, z.before = s.bank.nextId ∧ z.loads = f.imm.getLsbD 4 ∧
    z.stores = f.imm.getLsbD 5 ∧ z.trails = f.imm.getLsbD 6 ∧ (∀ c, c ∈ z.copies ↔ c < 4 ∧ f.imm.getLsbD c = true) ∧
    ∀ k : Bank, k = { s.bank with nextId := s.bank.nextId + 1 } →
    exec (.qfence f) s = .next (s.wordDone (k.setSeq s.dev.actSeq { k.seq s.dev.actSeq with qfence := some z }) 1 none)) ∧
  (∀ (f : QF) (s : State), s.issues (.qfence f) = true → f.imm = 0 → exec (.qfence f) s = .next (s.trapped (s.trapOf .illegal))) ∧
  (∀ (i : Instr) (s : State) (z : Qfence) (a : Acc), s.reaches i = true → s.seq.pred (hdrOf i) = true → fencedOf i = true →
    s.seq.qfence = some z → a ∈ s.seq.accs → a.id < z.before →
    (z.loads = true ∧ a.kind = .load) ∨ (z.stores = true ∧ a.kind = .store) → exec i s = .next s) ∧
  (∀ (f : QF) (s : State) (n : Nat) (new : QBinding), s.issues (.qbind f) = true → n = f.imm.toNat % 16 → f.fn ≠ 3 →
    new = (if f.fn = 0 then .copyIn f.qn.toNat else if f.fn = 1 then .copyOut f.qn.toNat else .trail f.qn.toNat) →
    (∀ e ∈ s.bank.mat.queue, n ∉ matrixQ e.word) →
    (f.fn = 2 → (s.bank.trail f.qn.toNat).queued = 0) → (f.fn ≠ 2 → (s.bank.copy f.qn.toNat).cmds = []) →
    (f.fn ≠ 2 → 3 < f.qn.toNat → exec (.qbind f) s = .next (s.trapped (s.trapOf .illegal))) ∧
    ((f.fn ≠ 2 → f.qn.toNat ≤ 3) → ∀ taken : Prop, (taken ↔ s.bank.qbound n ≠ .none ∨ ∃ r < 16,
      (f.fn = 2 ∧ s.bank.qbound r = .trail f.qn.toNat) ∨
      (f.fn ≠ 2 ∧ (s.bank.qbound r = .copyIn f.qn.toNat ∨ s.bank.qbound r = .copyOut f.qn.toNat))) →
    (taken → exec (.qbind f) s = .next (s.trapped (s.trapOf .qovf))) ∧
    (¬ taken → exec (.qbind f) s = .next (s.wordDone { (s.bank.passed s.dev.actSeq) with qbind := tput s.bank.qbind n new } 1 none)))) ∧
  (∀ (f : QF) (s : State) (n : Nat), s.issues (.qbind f) = true → n = f.imm.toNat % 16 → f.fn = 3 →
    (∀ e ∈ s.bank.mat.queue, n ∉ matrixQ e.word) →
    (s.bank.qbound n = .none → exec (.qbind f) s = .next (s.trapped (s.trapOf .qovf))) ∧
    (∀ c, (s.bank.qbound n = .copyIn c ∨ s.bank.qbound n = .copyOut c) → (s.bank.copy c).cmds = [] →
      exec (.qbind f) s = .next (s.wordDone { (s.bank.passed s.dev.actSeq) with qbind := tput s.bank.qbind n .none } 1 none)) ∧
    (∀ c, (s.bank.qbound n = .copyIn c ∨ s.bank.qbound n = .copyOut c) → (s.bank.copy c).cmds ≠ [] →
      exec (.qbind f) s = .next s) ∧
    (∀ t, s.bank.qbound n = .trail t → (s.bank.trail t).queued = 0 →
      exec (.qbind f) s = .next (s.wordDone { (s.bank.passed s.dev.actSeq) with qbind := tput s.bank.qbind n .none } 1 none)) ∧
    (∀ t, s.bank.qbound n = .trail t → (s.bank.trail t).queued ≠ 0 → exec (.qbind f) s = .next s))

/-- A copy queue's head command begins on a running bank with the sectors that it reads and writes, `.CRCS` starting its
chain; a sector read fills its bytes in and a sector write puts them in memory, changing no other byte; once every event
is performed the command leaves its queue and CPC, a `.CRCC` that fails setting CMPF and NCMP (R256 to R260). A page fault
of a copy queue stops that queue alone, with a record that names the queue, the address and the progress offset and awaits
an answer; the bank goes on (R178, R179). -/
def Obligations.CopyCommandsRunAndFault : Prop :=
  (
  (∀ (b n : Nat) (s : State) (k : Bank) (d : Cmd) (ds : List Cmd), k = tget .empty s.dev.banks b → n < 4 →
    (k.copy n).cmds = d :: ds → d.started = false → k.status = .running → (k.copy n).fault = none → d.kind = .cpy → d.hashed = 0 →
    0 < d.len →
    ∃ (t : State) (k' : Bank) (d' : Cmd), exec (.engineCommandStart b n) s = .next t ∧ t.mem = s.mem ∧
      k' = tget .empty t.dev.banks b ∧ (k'.copy n).cmds = d' :: ds ∧ d'.started = true ∧
      (k'.copy n).crc = (if d.crc = 2 then 0xFFFFFFFF else (k.copy n).crc) ∧
      (∀ i < d.len, ∃ c ∈ d'.reads, c.off ≤ i ∧ i < c.off + c.n ∧ c.va = (d.sa + c.off) % 2 ^ 64 ∧ c.va / 32 = (c.va + c.n - 1) / 32) ∧
      (∀ i < d.len, ∃ c ∈ d'.writes, c.off ≤ i ∧ i < c.off + c.n ∧ c.va = (d.da + c.off) % 2 ^ 64 ∧ c.va / 32 = (c.va + c.n - 1) / 32)) ∧
  (∀ (b n : Nat) (s : State) (k : Bank) (d : Cmd) (ds : List Cmd) (c : Chunk) (x : Xlat), k = tget .empty s.dev.banks b → n < 4 →
    (k.copy n).cmds = d :: ds → (k.copy n).fault = none → d.started = true → d.kind = .cpy → k.status = .running →
    s.inTlb b c.va .read x → s.plain b x.pa c.n = true → c.sent = false → c.off + c.n ≤ d.len → 0 < c.n →
    d.reads.find? (fun r => r.off == c.off) = some c →
    ∃ (t : State) (k' : Bank) (d' : Cmd), exec (.loadPerformed b (4 + n) c.off) s = .next t ∧ t.mem = s.mem ∧
      k' = tget .empty t.dev.banks b ∧ (k'.copy n).cmds = d' :: ds ∧ d'.reads = d.reads.filter (fun r => r.off != c.off) ∧
      (∀ i, d'.byte i = if c.off ≤ i ∧ i < c.off + c.n then memGet s.mem (x.pa + (i - c.off)) else d.byte i)) ∧
  (∀ (b n : Nat) (s : State) (k : Bank) (d : Cmd) (ds : List Cmd) (c : Chunk) (x : Xlat), k = tget .empty s.dev.banks b → n < 4 →
    (k.copy n).cmds = d :: ds → (k.copy n).fault = none → d.started = true → d.kind = .cpy → d.reads = [] → d.writes = [c] →
    s.inTlb b c.va .write x → s.plainStore b x.pa c.n = true → x.pa % 32 + c.n ≤ 32 → 0 < c.n →
    ∃ (t : State) (k' : Bank) (d' : Cmd), exec (.storePerformed b (4 + n) c.off) s = .next t ∧
      s.Wrote t x.pa ((List.range c.n).map (fun i => d.byte (c.off + i))) ∧ k' = tget .empty t.dev.banks b ∧
      (k'.copy n).cmds = d' :: ds ∧ d'.writes = []) ∧
  (∀ (b n : Nat) (s : State) (k : Bank) (d : Cmd) (ds : List Cmd) (bad : Bool), k = tget .empty s.dev.banks b → n < 4 →
    (k.copy n).cmds = d :: ds → d.started = true → d.reads = [] → d.writes = [] → d.kind = .cpy → (k.copy n).fault = none → s.uncaptured b = true →
    bad = (d.crc == 3 && leNat ((List.range 4).map (fun i => d.byte (d.len + i))) != ((k.copy n).crc ^^^ 0xFFFFFFFF).toNat) →
    ∃ (t : State) (k' : Bank), exec (.engineCommandComplete b n) s = .next t ∧ t.mem = s.mem ∧ k' = tget .empty t.dev.banks b ∧
      (k'.copy n).cmds = ds ∧ k'.cpc = k.cpc - 1 ∧ (k'.copy n).crc = (k.copy n).crc ∧
      (k'.copy n).cmpf = ((k.copy n).cmpf || bad) ∧ (k'.copy n).ncmp = (if bad then min ((k.copy n).ncmp + 1) 255 else (k.copy n).ncmp))) ∧
  (
  ∀ (b n : Nat) (s : State) (k : Bank) (d : Cmd) (ds : List Cmd) (c : Chunk) (mg mf : Bool), k = tget .empty s.dev.banks b → n < 4 →
    k.status = .running → (k.copy n).cmds = d :: ds → (k.copy n).fault = none → d.started = true → d.reads.head? = some c → c.sent = false →
    ((Mach.of s).xlate b false c.va .read).2 = .error (.page mg mf) →
    ∃ (t : State) (k' : Bank) (r : FaultRec), exec (.enginePageFault b n) s = .next t ∧ t.mem = s.mem ∧
      k' = tget .empty t.dev.banks b ∧ (k'.copy n).fault ≠ none ∧ (k'.copy n).cmds = d :: ds ∧ k'.status = .running ∧
      k'.k = k.k ∧ k'.l = k.l ∧ k'.x = k.x ∧ k'.d = k.d ∧ (∀ j, j ≠ n → k'.copy j = k.copy j) ∧
      (t.dev.part k.part).records = (s.dev.part k.part).records ++ [r] ∧ r.cause = 5 ∧ r.src = 4 ∧ r.access = n * 16 ∧
      r.va = c.va ∧ r.detail = d.progress ∧ r.pos = 0 ∧ r.taskId = k.taskId ∧ r.flags = 1 + b2n mg * 4 + b2n mf * 8 ∧
      r.bank = some b ∧ r.queue = some n)

/-- The element-wise words write, for every row and element that the write mask selects, the result of R275 (VCLAMP:
R284), and nothing but tile TD: floating results are exact results rounded once under the word's mode, integers are modulo
2^w, or clamped for VSADD and VSSUB. Occupancy and latency are those of R271. -/
def Obligations.ElementwiseWordsWriteTheirElements : Prop :=
  (∀ r ∈ ([
    (.vadd, 2, fun t m h a b _ => if (tyFmt t).isSome then round t m false h ((tyValue t a).add (tyValue t b))
      else intCode t (codeInt t a + codeInt t b)),
    (.vsub, 2, fun t m h a b _ => if (tyFmt t).isSome then round t m false h ((tyValue t a).add (tyValue t b).neg)
      else intCode t (codeInt t a - codeInt t b)),
    (.vmul, 2, fun t m h a b _ => if (tyFmt t).isSome then round t m false h ((tyValue t a).mul (tyValue t b))
      else intCode t (codeInt t a * codeInt t b)),
    (.vfma, 3, fun t m h a b c =>
      if (tyFmt t).isSome then round t m false h (((tyValue t a).mul (tyValue t b)).add (tyValue t c))
      else intCode t (codeInt t a * codeInt t b + codeInt t c)),
    (.vmin, 2, fun t _ _ a b _ =>
      if elemNan t a || elemNan t b then nanCode t else if elemLt t b a then b else a),
    (.vmax, 2, fun t _ _ a b _ =>
      if elemNan t a || elemNan t b then nanCode t else if elemLt t a b then b else a),
    (.vabs, 1, fun t _ _ a _ _ => if (tyFmt t).isSome then if elemNan t a then nanCode t else a % 2 ^ (tyBits t - 1)
      else intCode t (codeInt t a).natAbs),
    (.vneg, 1, fun t _ _ a _ _ =>
      if (tyFmt t).isSome then if elemNan t a then nanCode t else Nat.xor a (2 ^ (tyBits t - 1))
      else intCode t (-codeInt t a)),
    (.vand, 2, fun _ _ _ a b _ => Nat.land a b), (.vor, 2, fun _ _ _ a b _ => Nat.lor a b),
    (.vxor, 2, fun _ _ _ a b _ => Nat.xor a b),
    (.vshl, 2, fun t _ _ a b _ => a * 2 ^ (b % tyBits t)), (.vshr, 2, fun t _ _ a b _ => a / 2 ^ (b % tyBits t)),
    (.vsra, 2, fun t _ _ a b _ => intCode t (sext (tyBits t) a / 2 ^ (b % tyBits t))),
    (.vsadd, 2, fun t _ _ a b _ => intCode t (clamped t (codeInt t a + codeInt t b))),
    (.vssub, 2, fun t _ _ a b _ => intCode t (clamped t (codeInt t a - codeInt t b))),
    (.vclamp, 3, fun t _ _ a lo hi => if elemNan t a || elemNan t lo || elemNan t hi then nanCode t
      else if elemLt t hi a then hi else if elemLt t a lo then lo else a)]
      : List ((VF → Instr) × Nat × (Ty → Rnd → Nat → Nat → Nat → Nat → Nat))),
    ∀ (f : VF) (s : State) (t : Ty), t = Ty.ofCode f.ty.toNat →
      s.vecIssues (r.1 f) f (f.sm != 0) ([f.ta.toNat, f.tb.toNat, f.tc.toNat].take r.2.1) [f.td.toNat] = true →
      s.WritesTile (r.1 f) f (if t = .f64 then 10 else 6) (if t = .f64 then 8 else 4) (fun i e =>
        r.2.2 t (s.mode f) (s.dither f i e) (s.operandA f i e) (s.elem t f.tb.toNat i e) (s.elem t f.tc.toNat i e)))

/-- VRCP and VSQRT round the exact result once under the word's mode; every special function gives the special results of
R285, a NaN for a NaN, 2^a exactly for an integer a whose result is representable, +Inf for a 2^a beyond the largest finite value,
and log2 of 2^n exactly. Elsewhere VRSQ is within 1 ulp, and VEXP2, VLOG2, VSIN, VCOS and VTANH are within 2 ulps, of the model's
fixed-point value of the function (R285, R286; which value within the bound it is rests on log 6); VSIN, VCOS and VTANH have no
magnitude above 1. That the fixed-point value is the function's own is not stated here. -/
def Obligations.SpecialFunctionWordsWriteTheirElements : Prop :=
  ∀ r ∈ ([
    (.vrcp, fun t m h a r => ((tyValue t a).isZero = true → r = roundInf t false (codeNeg t a)) ∧
      (∀ n k, tyValue t a = .inf n → k = tyBits t - 1 → r = if n then 2 ^ k else 0) ∧
      ((tyValue t a).isFin = true → (tyValue t a).isZero = false → r = roundDiv t m false h (.ofInt 1) (tyValue t a))),
    (.vrsq, fun t _ _ a r => ((tyValue t a).isZero = true → r = roundInf t false (codeNeg t a)) ∧
      ((tyValue t a).lt .zero = true → r = nanCode t) ∧ (tyValue t a = .inf false → r = 0) ∧
      (∀ n k : Nat, 0 < n → tyValue t a = .fin n k → codeWithin t 1 (hpRsq n k) r)),
    (.vsqrt, fun t m h a r => ((tyValue t a).isZero = true → r = a) ∧ ((tyValue t a).lt .zero = true → r = nanCode t) ∧
      (tyValue t a = .inf false → r = roundInf t false false) ∧
      (Val.zero.lt (tyValue t a) = true → (tyValue t a).isFin = true → r = roundSqrt t m false h (tyValue t a))),
    (.vexp2, fun t _ _ a r => (tyValue t a = .inf true → r = 0) ∧ (tyValue t a = .inf false → r = roundInf t false false) ∧
      ((tyValue t a).isZero = true → r = round t .rne false 0 (.ofInt 1)) ∧
      (∀ n : Int, (tyValue t a).numEq (.ofInt n) = true →
        (∀ c, c < 2 ^ tyBits t → (tyValue t c).numEq (.scaled 1 n) = true → r = c) ∧
        (codeBeyond t (.scaled 1 n) → r = roundInf t false false)) ∧
      (∀ (n : Int) (k : Nat), n % 2 ^ k ≠ 0 → -4096 * 2 ^ k ≤ n → n < 2048 * 2 ^ k → tyValue t a = .fin n k →
        (codeBeyond t (hpExp2 n k) → r = roundInf t false false) ∧ (codeBeyond t (hpExp2 n k) ∨ codeWithin t 2 (hpExp2 n k) r))),
    (.vlog2, fun t _ _ a r => ((tyValue t a).isZero = true → r = roundInf t false true) ∧
      ((tyValue t a).lt .zero = true → r = nanCode t) ∧ (tyValue t a = .inf false → r = roundInf t false false) ∧
      (∀ n k : Nat, tyValue t a = .fin (2 ^ n) k → r = round t .rne false 0 (.ofInt ((n : Int) - k))) ∧
      (∀ n k : Nat, 0 < n → (∀ j, n ≠ 2 ^ j) → tyValue t a = .fin n k → codeWithin t 2 (hpLog2 n k) r)),
    (.vsin, fun t _ _ a r => (∀ n, tyValue t a = .inf n → r = nanCode t) ∧ ((tyValue t a).isZero = true → r = a) ∧
      (∀ n k, n ≠ 0 → tyValue t a = .fin n k → codeWithin t 2 (hpSin n k) r ∧ (tyValue t r).abs.le (.ofInt 1) = true)),
    (.vcos, fun t _ _ a r => (∀ n, tyValue t a = .inf n → r = nanCode t) ∧
      ((tyValue t a).isZero = true → r = round t .rne false 0 (.ofInt 1)) ∧
      (∀ n k, n ≠ 0 → tyValue t a = .fin n k → codeWithin t 2 (hpCos n k) r ∧ (tyValue t r).abs.le (.ofInt 1) = true)),
    (.vtanh, fun t _ _ a r => (∀ n, tyValue t a = .inf n → r = round t .rne false 0 (.ofInt (if n then -1 else 1))) ∧
      ((tyValue t a).isZero = true → r = a) ∧
      (∀ n k, n ≠ 0 → tyValue t a = .fin n k → codeWithin t 2 (hpTanh n k) r ∧ (tyValue t r).abs.le (.ofInt 1) = true))]
      : List ((VF → Instr) × (Ty → Rnd → Nat → Nat → Nat → Prop))),
  ∀ (f : VF) (s : State) (t : Ty), t = Ty.ofCode f.ty.toNat →
    s.vecIssues (r.1 f) f (f.sm != 0) [f.ta.toNat] [f.td.toNat] = true →
    ∃ g : Nat → Nat → Nat, s.WritesTile (r.1 f) f (if t = .f64 then 40 else 16) (if t = .f64 then 32 else 8) g ∧
      ∀ i < 16, ∀ e < tyElems t,
        ((tyValue t (s.operandA f i e)).isNan = true → g i e = nanCode t) ∧
        r.2 t (s.mode f) (s.dither f i e) (s.operandA f i e) (g i e)

/-- VCMP writes mask TD with the conditions of R276; VSEL, VMOV, VMOV.INS, VSPLAT and VIOTA write tile TD as R277 to R279
say; an element moves as its bits. -/
def Obligations.CompareAndMoveWordsWriteTheirElements : Prop :=
  ∀ (f : VF) (s : State) (t : Ty) (lat occ : Nat), t = Ty.ofCode f.ty.toNat → lat = (if t = .f64 then 10 else 6) →
    occ = (if t = .f64 then 8 else 4) →
  (s.vecIssues (.vcmp f) f (f.sm != 0) [f.ta.toNat, f.tb.toNat] [maskKey f.td.toNat] = true →
    ∃ g, s.WritesMask (.vcmp f) f lat occ [] g ∧ ∀ i < 16, ∀ e < tyElems t, ∀ (a b : Val),
      a = tyValue t (s.operandA f i e) → b = tyValue t (s.elem t f.tb.toNat i e) →
      (f.tc = 0 → g i e = a.numEq b) ∧ (f.tc = 1 → g i e = !a.numEq b) ∧ (f.tc = 2 → g i e = a.lt b) ∧
      (f.tc = 3 → g i e = (a.lt b || a.numEq b)) ∧ (f.tc = 4 → g i e = b.lt a) ∧
      (f.tc = 5 → g i e = (b.lt a || a.numEq b)) ∧ (f.tc = 6 → g i e = (a.isNan || b.isNan)) ∧
      (f.tc = 7 → g i e = !(a.isNan || b.isNan))) ∧
  (s.vecIssues (.vsel f) f (f.sm != 0) [f.ta.toNat, f.tb.toNat, maskKey f.tc.toNat] [f.td.toNat] = true →
    s.WritesTile (.vsel f) f lat occ (fun i e =>
      if maskBit (s.bank.vec.mask f.tc.toNat) t i e then s.operandA f i e else s.elem t f.tb.toNat i e)) ∧
  (s.vecIssues (.vmov f) f (f.sm != 0) [f.ta.toNat] [f.td.toNat] = true →
    s.WritesTile (.vmov f) f lat occ (s.operandA f)) ∧
  (s.vecIssues (.vmovIns f) f true [f.ta.toNat, f.tb.toNat] [f.td.toNat] = true →
    s.WritesTile (.vmovIns f) f lat occ (fun i e =>
      let n := tyElems t / 64
      let col := if t = .f64 then s.amount f % 64 / 2 else s.amount f % 64
      let cell := if t = .f64 then e else e / n
      let within := if t = .f64 then 0 else e % n
      if f.sm = 1 then (if i = s.amount f % 16 then s.elem t f.tb.toNat 0 e else s.elem t f.ta.toNat i e)
      else if f.sm = 2 then (if cell = col then s.elem t f.tb.toNat i within else s.elem t f.ta.toNat i e)
      else if cell = col ∧ i = s.amount f % 1024 / 64 then s.elem t f.tb.toNat 0 within
      else s.elem t f.ta.toNat i e)) ∧
  (s.vecIssues (.vsplat f) f true [] [f.td.toNat] = true →
    s.WritesTile (.vsplat f) f lat occ (fun _ _ => (s.scalar f).toNat)) ∧
  (s.vecIssues (.viota f) f true [] [f.td.toNat] = true →
    s.WritesTile (.viota f) f lat occ (fun i e => (s.scalar f).toNat + f.si.toNat + i * tyElems t + e))

/-- VCVT, VDEQ, VQUANT and VCHK do what R280 to R283 say: parts of a row, one rounding, blocks under their headers, and NF
once the mask is written. VDEQ and VQUANT trap with ILLEGAL on a scale exponent outside ±2,400, and each of the four traps with
ILLEGAL where a block operand names an odd register (R273). The code of SPEC in a KB4 header rests on log 10. -/
def Obligations.ConversionWordsWriteTheirElements : Prop :=
  ∀ (f : VF) (s : State) (t : Ty), t = Ty.ofCode f.ty.toNat →
  (∀ src, src = Ty.ofCode (f.tc.toNat % 16) →
    s.vecIssues (.vcvt f) f false (if src = .kb4 ∨ src = .kb8 then [f.ta.toNat, f.ta.toNat + 1] else [f.ta.toNat])
      [f.td.toNat] = true → (src = .kb4 ∨ src = .kb8 → f.ta.toNat % 2 = 0) →
    s.WritesTile (.vcvt f) f (if t = .f64 ∨ src = .f64 then 10 else 6) (if t = .f64 ∨ src = .f64 then 8 else 4) (fun i e =>
      if tyElems t ≤ tyElems src then
        round t (s.mode f) (f.tc.getLsbD 4) (s.dither f i e)
          (s.bank.vec.value src f.ta.toNat i (f.si.toNat * tyElems t + e))
      else if f.si.toNat * tyElems src ≤ e ∧ e < f.si.toNat * tyElems src + tyElems src then
        round t (s.mode f) (f.tc.getLsbD 4) (s.dither f i e)
          (s.bank.vec.value src f.ta.toNat i (e - f.si.toNat * tyElems src))
      else s.elem t f.td.toNat i e)) ∧
  (∀ src, src = Ty.ofCode f.tc.toNat → (s.scalar f).toInt.natAbs ≤ 2400 →
    (f.ta.toNat % 2 = 0 → s.vecIssues (.vdeq f) f true [f.ta.toNat, f.ta.toNat + 1] [f.td.toNat] = true →
      s.WritesTile (.vdeq f) f (if t = .f64 then 10 else 6) (if t = .f64 then 8 else 4) (fun i e =>
        round t (s.mode f) false (s.dither f i e)
          ((s.bank.vec.value src f.ta.toNat i (f.si.toNat * tyElems t + e)).scale (s.scalar f).toInt))) ∧
    (f.td.toNat % 2 = 0 → s.vecIssues (.vquant f) f true [f.ta.toNat] [f.td.toNat, f.td.toNat + 1] = true →
      ∃ c h : List Cell32, exec (.vquant f) s = .next (s.wordDone (s.bank.vecDone
          ((s.bank.vec.setTile f.td.toNat c).setTile (f.td.toNat + 1) h) 10 [f.td.toNat, f.td.toNat + 1] true) 4 none) ∧
        ∀ ht, ht = (if t = .kb4 then .i16 else .n8) → ∀ i < 16, ∀ j < tyElems t / 8, ∀ b : Block,
          b = quantBlock t (s.mode f) (fun x => s.dither f i (8 * j + x)) ((List.range 8).map (fun x =>
            (s.bank.vec.value src f.ta.toNat i (8 * j + x - f.si.toNat * tyElems src)).scale (s.scalar f).toInt)) →
          (f.si.toNat * tyElems src ≤ 8 * j ∧ 8 * j < f.si.toNat * tyElems src + tyElems src →
            elemAt ht h i j = b.hdr % 2 ^ tyBits ht ∧
            ∀ x < 8, elemAt t c i (8 * j + x) = if s.selects f.msk t i (8 * j + x) then b.codes.getD x 0 % 2 ^ tyBits t
              else s.elem t f.td.toNat i (8 * j + x)) ∧
          (8 * j < f.si.toNat * tyElems src ∨ f.si.toNat * tyElems src + tyElems src ≤ 8 * j →
            elemAt ht h i j = s.elem ht (f.td.toNat + 1) i j ∧
            ∀ x < 8, elemAt t c i (8 * j + x) = s.elem t f.td.toNat i (8 * j + x)))) ∧
  (f.ta.toNat % 2 = 1 ∨ 2400 < (s.scalar f).toInt.natAbs →
    s.vecIssues (.vdeq f) f true (if f.ta.toNat % 2 = 1 then [f.ta.toNat] else [f.ta.toNat, f.ta.toNat + 1]) [f.td.toNat] = true →
    exec (.vdeq f) s = .next (s.trapped (s.trapOf .illegal))) ∧
  (f.td.toNat % 2 = 1 ∨ 2400 < (s.scalar f).toInt.natAbs →
    s.vecIssues (.vquant f) f true [f.ta.toNat] (if f.td.toNat % 2 = 1 then [f.td.toNat] else [f.td.toNat, f.td.toNat + 1]) = true →
    exec (.vquant f) s = .next (s.trapped (s.trapOf .illegal))) ∧
  (f.ta.toNat % 2 = 1 → Ty.ofCode (f.tc.toNat % 16) = .kb4 ∨ Ty.ofCode (f.tc.toNat % 16) = .kb8 →
    s.vecIssues (.vcvt f) f false [f.ta.toNat] [f.td.toNat] = true →
    exec (.vcvt f) s = .next (s.trapped (s.trapOf .illegal))) ∧
  (f.ta.toNat % 2 = 1 → t = .kb4 ∨ t = .kb8 → s.vecIssues (.vchk f) f false [f.ta.toNat] [maskKey f.td.toNat] = true →
    exec (.vchk f) s = .next (s.trapped (s.trapOf .illegal))) ∧
  (∀ (lat : Nat) (bad : Bool), lat = (if t = .f64 then 10 else 6) →
    s.vecIssues (.vchk f) f false (if t = .kb4 ∨ t = .kb8 then [f.ta.toNat, f.ta.toNat + 1] else [f.ta.toNat])
      [maskKey f.td.toNat] = true → (t = .kb4 ∨ t = .kb8 → f.ta.toNat % 2 = 0) →
    (bad = true ↔ ∃ i < 16, ∃ e < tyElems t, s.selects f.msk t i e = true ∧
      (s.bank.vec.value t f.ta.toNat i e).isFin = false) →
    s.WritesMask (.vchk f) f lat (if t = .f64 then 8 else 4) (if bad then [s.bank.clk + lat] else [])
      (fun i e => !(s.bank.vec.value t f.ta.toNat i e).isFin))

/-- The axis words write tile TD as R287 to R289 say: rotations and broadcasts by s modulo E or 16, reductions and scans
of their sets with one rounding, and the transposition of the four blocks. -/
def Obligations.AxisWordsWriteTheirElements : Prop :=
  (∀ r ∈ ([
    (.vrrot, 10, fun a n i e => (i, (((e : Int) - (a : Int)) % (n : Int)).toNat)), (.vrbc, 10, fun a n i _ => (i, a % n)),
    (.vcrot, 7, fun a _ i e => ((((i : Int) - (a : Int)) % 16).toNat, e)), (.vcbc, 7, fun a _ _ e => (a % 16, e))]
      : List ((VF → Instr) × Nat × (Nat → Nat → Nat → Nat → Nat × Nat))),
    ∀ (f : VF) (s : State) (t : Ty), t = Ty.ofCode f.ty.toNat →
      s.vecIssues (r.1 f) f true [f.ta.toNat] [f.td.toNat] = true →
      s.WritesTile (r.1 f) f r.2.1 4 (fun i e =>
        s.elem t f.ta.toNat (r.2.2 (s.amount f) (tyElems t) i e).1 (r.2.2 (s.amount f) (tyElems t) i e).2)) ∧
  (∀ r ∈ ([
    (.vrred, 10, fun n i _ => (List.range n).map (fun x => (i, x))),
    (.vrscan, 10, fun _ i e => (List.range (e + 1)).map (fun x => (i, x))),
    (.vcred, 7, fun _ _ e => (List.range 16).map (fun x => (x, e))),
    (.vcscan, 7, fun _ i e => (List.range (i + 1)).map (fun x => (x, e)))]
      : List ((VF → Instr) × Nat × (Nat → Nat → Nat → List (Nat × Nat)))),
    ∀ (f : VF) (s : State) (t : Ty), t = Ty.ofCode f.ty.toNat →
      s.vecIssues (r.1 f) f false [f.ta.toNat] [f.td.toNat] = true →
      ∃ g, s.WritesTile (r.1 f) f r.2.1 4 g ∧ ∀ i < 16, ∀ e < tyElems t, ∀ cs : List Nat,
        cs = (r.2.2 (tyElems t) i e).map (fun p => s.elem t f.ta.toNat p.1 p.2) →
        (f.tc.toNat % 4 = 0 → (tyFmt t).isSome = true →
          g i e = round t (s.mode f) false (s.dither f i e) (Val.sum (cs.map (tyValue t)))) ∧
        (f.tc.toNat % 4 = 0 → (tyFmt t).isSome = false → g i e =
          intCode t (if f.tc.getLsbD 4 then clamped t (cs.map (codeInt t)).sum else (cs.map (codeInt t)).sum)) ∧
        (f.tc.toNat % 4 = 1 ∨ f.tc.toNat % 4 = 2 →
          (cs.any (elemNan t) = true → g i e = nanCode t) ∧
          (cs.any (elemNan t) = false → g i e ∈ cs ∧ ∀ x ∈ cs,
            if f.tc.toNat % 4 = 1 then elemLt t (g i e) x = false else elemLt t x (g i e) = false))) ∧
  (∀ (f : VF) (s : State), s.vecIssues (.vtrn f) f false [f.ta.toNat] [f.td.toNat] = true →
    s.WritesTile (.vtrn f) f 12 4 (fun i e => s.elem (Ty.ofCode f.ty.toNat) f.ta.toNat (e % 16) (16 * (e / 16) + i)))

/-- The producers reduce the windows of R292 into tile TD and give each output its witness byte; the register takes VALID
1, OPER, AXIS, WIN, SITE and TY. Positions past the last output take 0. VADJ sends each gradient to the inputs that the
witness names (R293) and clears the register without KEEP; a register that does not suit the word traps with WITNESS. -/
def Obligations.WitnessWordsTakeEffect : Prop :=
  (
  (∀ r ∈ ([
    (.vwmax, 0, fun t _ _ cs v b =>
      (cs.any (elemNan t) = true → v = nanCode t ∧ ∀ k < cs.length, b.testBit k = elemNan t (cs.getD k 0)) ∧
      (cs.any (elemNan t) = false → v ∈ cs ∧ (∀ x ∈ cs, elemLt t v x = false) ∧
        ∀ k < cs.length, (b.testBit k = true ↔ cs.getD k 0 = v))),
    (.vwmin, 1, fun t _ _ cs v b =>
      (cs.any (elemNan t) = true → v = nanCode t ∧ ∀ k < cs.length, b.testBit k = elemNan t (cs.getD k 0)) ∧
      (cs.any (elemNan t) = false → v ∈ cs ∧ (∀ x ∈ cs, elemLt t x v = false) ∧
        ∀ k < cs.length, (b.testBit k = true ↔ cs.getD k 0 = v))),
    (.vwmed, 2, fun t _ _ cs v b =>
      (cs.any (elemNan t) = true → v = nanCode t ∧
        ∃ k < cs.length, b = 2 ^ k ∧ elemNan t (cs.getD k 0) = true ∧ ∀ j < k, elemNan t (cs.getD j 0) = false) ∧
      (cs.any (elemNan t) = false → (cs.filter (fun x => elemLt t x v)).length ≤ (cs.length - 1) / 2 ∧
        (cs.length - 1) / 2 < (cs.filter (fun x => !elemLt t v x)).length ∧
        ∃ k < cs.length, b = 2 ^ k ∧ cs.getD k 0 = v ∧ ∀ j < k, cs.getD j 0 ≠ v)),
    (.vwssum, 3, fun t m h cs v b =>
      ((tyFmt t).isSome = false → v = intCode t (clamped t (cs.map (codeInt t)).sum) ∧
        b = if clamped t (cs.map (codeInt t)).sum = (cs.map (codeInt t)).sum then 0 else 1) ∧
      ((tyFmt t).isSome = true → v = round t m true h (Val.sum (cs.map (tyValue t))) % 2 ^ tyBits t ∧
        b = match Val.sum (cs.map (tyValue t)) with
          | .nan => 2
          | .inf _ => 3
          | x => if fmtF32.big.lt x.abs then 1 else 0))]
      : List ((VF → Instr) × Nat × (Ty → Rnd → Nat → List Nat → Nat → Nat → Prop))),
    ∀ (f : VF) (s : State) (t : Ty) (n lat : Nat), t = Ty.ofCode f.ty.toNat → n = f.sx.toNat % 8 →
      lat = (if f.tc.getLsbD 3 then 7 else 10) →
      s.vecIssues (r.1 f) f false [f.ta.toNat] [f.td.toNat, witKey n] = true →
      ∃ (c : List Cell32) (w : Witness), w.bytes.length = 1024 ∧
        { w with bytes := [] } = ⟨[], true, r.2.1, if f.tc.getLsbD 3 then 1 else 0, f.tc.toNat % 8 + 1, f.si.toNat, f.ty.toNat⟩ ∧
        exec (r.1 f) s = .next (s.wordDone (s.bank.vecDone ((s.bank.vec.setTile f.td.toNat c).setWitness n w) lat
          [f.td.toNat, witKey n] true) 4 none) ∧
        ∀ i < 16, ∀ o < 64,
          (s.windowMembers f i o = [] → elemAt t c i o = 0 ∧ w.bytes.getD (64 * i + o) 0 = 0) ∧
          (s.windowMembers f i o ≠ [] → r.2.2 t (s.mode f) (s.dither f i o) (s.windowMembers f i o) (elemAt t c i o)
            (w.bytes.getD (64 * i + o) 0).toNat)) ∧
  (∀ (f : VF) (s : State) (t : Ty) (n : Nat), t = Ty.ofCode f.ty.toNat → n = f.sx.toNat % 8 →
    s.vecIssues (.vwclamp f) f false [f.ta.toNat, f.tb.toNat, f.tc.toNat] [f.td.toNat, witKey n] = true →
    ∃ (c : List Cell32) (w : Witness), w.bytes.length = 1024 ∧
      { w with bytes := [] } = ⟨[], true, 4, 0, 1, f.si.toNat, f.ty.toNat⟩ ∧
      exec (.vwclamp f) s = .next (s.wordDone (s.bank.vecDone ((s.bank.vec.setTile f.td.toNat c).setWitness n w) 7
        [f.td.toNat, witKey n] true) 4 none) ∧
      ∀ i < 16, ∀ o < 64, ∀ a lo hi : Nat, a = s.elem t f.ta.toNat i o → lo = s.elem t f.tb.toNat i o →
        hi = s.elem t f.tc.toNat i o → ∀ v b : Nat, v = elemAt t c i o → b = (w.bytes.getD (64 * i + o) 0).toNat →
        (elemNan t a || elemNan t lo || elemNan t hi → v = nanCode t ∧ b = 3) ∧
        (!(elemNan t a || elemNan t lo || elemNan t hi) →
          (elemLt t hi a = true → v = hi ∧ b = 2) ∧ (elemLt t hi a = false → elemLt t a lo = true → v = lo ∧ b = 1) ∧
          (elemLt t hi a = false → elemLt t a lo = false → v = a ∧ b = 0)))) ∧
  (
  ∀ (f : VF) (s : State) (n rule : Nat) (w : Witness) (keep : Bool) (writes : List Nat), n = f.sx.toNat % 8 →
    w = s.bank.vec.witness n → rule = f.tb.toNat % 4 → keep = f.tb.getLsbD 2 →
    writes = f.td.toNat :: (if keep then [] else [witKey n]) →
    s.vecIssues (.vadj f) f false [f.ta.toNat, witKey n] writes = true →
    (w.valid = true ∧ w.site = f.si.toNat ∧ w.axis = f.tc.toNat / 8 % 2 ∧ w.win = f.tc.toNat % 8 + 1 ∧
        (w.oper < 3 ∨ rule = 0) →
      ∃ c : List Cell32, exec (.vadj f) s = .next (s.wordDone (s.bank.vecDone
          (if keep then s.bank.vec.setTile f.td.toNat c else (s.bank.vec.setTile f.td.toNat c).setWitness n .cleared)
          (if f.tc.getLsbD 3 then 7 else 10) writes true) 4 none) ∧
        ∀ i < 16, ∀ e < 64, ∀ o k g b : Nat,
          o = (if f.tc.getLsbD 3 then 64 * (i / w.win) + e else 64 * i + e / w.win) →
          k = (if f.tc.getLsbD 3 then i % w.win else e % w.win) →
          g = s.elem .f32 f.ta.toNat (o / 64) (o % 64) → b = (w.bytes.getD o 0).toNat →
          elemAt .f32 c i e = if !(s.selects f.msk .f32 i e) then s.elem .f32 f.td.toNat i e
            else if w.oper = 4 then (if b % 4 = 0 then g else 0)
            else if w.oper = 3 then (if b % 2 = 0 then g else 0)
            else if rule = 0 then (if b % 2 ^ (k + 1) = 2 ^ k then g else 0)
            else if !b.testBit k then 0
            else if rule = 1 then roundDiv .f32 .rne false 0 (tyValue .f32 g)
              (.ofInt ((List.range 8).filter (fun x => b.testBit x)).length) % 2 ^ 32
            else g) ∧
    (w.valid = false ∨ w.site ≠ f.si.toNat ∨ w.axis ≠ f.tc.toNat / 8 % 2 ∨ w.win ≠ f.tc.toNat % 8 + 1 ∨
        (3 ≤ w.oper ∧ rule ≠ 0) →
      exec (.vadj f) s = .next (s.trapped (s.trapOf .witness))))

/-- VWOUT and VWIN move a witness image of 130 elements, one a clock; each issues on the clock of its last element. VWIN
takes every image that VWOUT gives of a register of R290, the cleared one too, and traps with WITNESS on an image it refuses; the
popped elements stay popped and the register is unchanged (R294, R295). Use against the binding traps with QOVF before any element
moves, on the clock on which nothing else holds the word (R268, R169). -/
def Obligations.WitnessImagesMove : Prop :=
  (∀ (f : VF) (s : State) (k : Bank) (v : Word), s.vecIssues (.vwout f) f false [witKey f.ta.toNat] [] = true →
    (s.seq.moved = 0 → s.bank.pushRefused f.tb.toNat = false) →
    0 < s.bank.room f.tb.toNat →
    v = BitVec.ofNat 64 (leNat (((s.bank.vec.witness f.ta.toNat).image.drop (8 * s.seq.moved)).take 8)) →
    k = s.bank.push f.tb.toNat { val := v, wait := none, ready := s.bank.clk + 2 } →
    (s.seq.moved < 129 →
      exec (.vwout f) s = .next (s.setBank (k.setSeq s.dev.actSeq { s.seq with moved := s.seq.moved + 1 }))) ∧
    (129 ≤ s.seq.moved →
      exec (.vwout f) s = .next (s.wordDone (k.setSeq s.dev.actSeq { s.seq with moved := 0 }) 1 none))) ∧
  (∀ (f : VF) (s : State) (k : Bank) (v : Word), s.vecIssues (.vwin f) f false [] [witKey f.td.toNat] = true →
    (s.seq.moved = 0 → s.bank.popRefused f.tb.toNat = false) →
    s.bank.pop f.tb.toNat = some (v, k) →
    (s.seq.moved < 129 → exec (.vwin f) s = .next (s.setBank (k.setSeq s.dev.actSeq
      { s.seq with moved := s.seq.moved + 1, popped := s.seq.popped ++ [v] }))) ∧
    (∀ w, 129 ≤ s.seq.moved → Witness.ofImage ((s.seq.popped ++ [v]).flatMap (fun x => leBytes 8 x.toNat)) = some w →
      exec (.vwin f) s = .next (s.wordDone ((k.setSeq s.dev.actSeq { s.seq with moved := 0, popped := [] }).vecDone
        (k.vec.setWitness f.td.toNat w) 2 [witKey f.td.toNat] false) 1 none)) ∧
    (129 ≤ s.seq.moved → Witness.ofImage ((s.seq.popped ++ [v]).flatMap (fun x => leBytes 8 x.toNat)) = none →
      exec (.vwin f) s = .next (s.setBank { k with traps := s.bank.traps ++ [s.trapOf .witness] }))) ∧
  (∀ (f : VF) (s : State), s.seq.moved = 0 →
    (s.vecIssues (.vwout f) f false [witKey f.ta.toNat] [] = true → s.bank.pushRefused f.tb.toNat = true →
      exec (.vwout f) s = .next (s.trapped (s.trapOf .qovf))) ∧
    (s.vecIssues (.vwin f) f false [] [witKey f.td.toNat] = true → s.bank.popRefused f.tb.toNat = true →
      exec (.vwin f) s = .next (s.trapped (s.trapOf .qovf)))) ∧
  Witness.ofImage Witness.cleared.image = some .cleared ∧ (∀ w : Witness, w.bytes.length = 1024 → w.oper ≤ 4 → w.axis ≤ 1 → 1 ≤ w.win → w.win ≤ 8 → w.site ≤ 63 →
    w.ty = 0 ∨ w.ty = 7 ∨ w.ty = 12 → w.valid = true →
    Witness.ofImage w.image = some w ∧ w.image.length = 1040 ∧
    w.image.take 6 = [1, BitVec.ofNat 8 w.oper, BitVec.ofNat 8 w.axis, BitVec.ofNat 8 w.win, BitVec.ofNat 8 w.site,
      BitVec.ofNat 8 w.ty] ∧ w.image.drop 16 = w.bytes)

/-- VLDW copies rows of an input trail's window into a tile and VSTW fills slots of a drain ring, byte for byte (R296,
R297); a trail that is not set, of the other direction, or of fewer rows than s + n traps with TRAILX. VPOPQ, VPUSHQ,
VCPUSH and VCPOP move a tile row through a stream register (R298, R299); use against the binding traps with QOVF, on the clock on which nothing else holds
the word (R169). VLDW and VSTW see the window as it stood before a TRADV or TREL of their clock (R300). -/
def Obligations.RowWordsMoveRows : Prop :=
  (
  ∀ (f : VF) (s : State) (n : Nat) (g : TrailGen), n = (if f.tc = 0 then 16 else f.tc.toNat) →
  (s.vecIssues (.vldw f) f true [] [f.td.toNat] = true →
    ((s.bank.trail f.ta.toNat).current = none ∨ (s.bank.trail f.ta.toNat).current = some g ∧
        (g.desc.dir ≠ 0 ∨ g.desc.ringrows < s.amount f + n) →
      exec (.vldw f) s = .next (s.trapped (s.trapOf .trailx))) ∧
    ((s.bank.trail f.ta.toNat).current = some g → g.desc.dir = 0 → s.amount f + n ≤ g.desc.ringrows →
      (∀ r < n, tfind g.rows (g.oldest + s.amount f + r) = some .arrived) →
      ∃ c : List Cell32, exec (.vldw f) s =
          .next (s.wordDone (s.bank.vecDone (s.bank.vec.setTile f.td.toNat c) 6 [f.td.toNat] true) 4 none) ∧
        ∀ i < 16, ∀ j < 64, elemAt .n32 c i j = if i < n ∧ s.selects f.msk .n32 i j = true then
            leNat ((List.range 4).map (fun x => if 4 * j + x < min g.desc.rowlen 256
              then s.bank.vec.localByte (g.desc.ring + (g.oldest + s.amount f + i) % g.desc.ringrows * g.desc.rowlen + 4 * j + x)
              else 0))
          else s.elem .n32 f.td.toNat i j)) ∧
  (s.vecIssues (.vstw f) f true [f.tb.toNat] [] = true →
    ((s.bank.trail f.ta.toNat).current = none ∨ (s.bank.trail f.ta.toNat).current = some g ∧
        (g.desc.dir ≠ 1 ∨ g.desc.ringrows < s.amount f + n) →
      exec (.vstw f) s = .next (s.trapped (s.trapOf .trailx))) ∧
    (∀ (slot : Nat → Nat) (trails : Table Trail), trails = tput s.bank.trails f.ta.toNat
        ((s.bank.trail f.ta.toNat).modGen g.uid (fun h => { h with
          rows := (List.range n).foldl (fun rs r => tput rs (g.oldest + s.amount f + r) .full) h.rows })) →
      (s.bank.trail f.ta.toNat).current = some g → g.desc.dir = 1 →
      s.amount f + n ≤ g.desc.ringrows → (∀ r < n, g.slotFree (g.oldest + s.amount f + r) = true) →
      (∀ r, slot r = g.desc.ring + (g.oldest + s.amount f + r) % g.desc.ringrows * g.desc.rowlen) →
      ∃ v : VecState, v = { s.bank.vec with lmem := v.lmem } ∧
        exec (.vstw f) s = .next (s.wordDone { s.bank with vec := v, trails := trails } 4 none) ∧
        (∀ r < n, ∀ x < min g.desc.rowlen 256, v.localByte (slot r + x) =
          if f.msk = 0 ∨ ((s.bank.vec.mask f.msk.toNat).getD (64 * r + x / 4) 0).getLsbD (2 * (x % 4)) = true
          then BitVec.ofNat 8 (s.elem .n32 f.tb.toNat r (x / 4) / 2 ^ (8 * (x % 4)))
          else s.bank.vec.localByte (slot r + x)) ∧
        ∀ o, (∀ r < n, o < slot r ∨ slot r + min g.desc.rowlen 256 ≤ o) → v.localByte o = s.bank.vec.localByte o))) ∧
  (
  ∀ (f : VF) (s : State) (t : Ty) (n row : Nat), t = Ty.ofCode f.ty.toNat → n = f.tb.toNat → row = s.amount f % 16 →
  (∀ (vs : List Word) (k : Bank), s.vecIssues (.vpopq f) f true [] [f.td.toNat] = true → s.bank.popRefused n = false →
    Bank.popN 32 s.bank n = some (vs, k) →
    ∃ c : List Cell32, exec (.vpopq f) s =
        .next (s.wordDone (k.vecDone (s.bank.vec.setTile f.td.toNat c) 2 [f.td.toNat] true) 1 none) ∧
      ∀ i < 16, ∀ j < 64, elemAt .n32 c i j = if i = row then (vs.getD (j / 2) 0).toNat / 2 ^ (32 * (j % 2)) % 2 ^ 32
        else s.elem .n32 f.td.toNat i j) ∧
  (s.vecIssues (.vpushq f) f true [f.ta.toNat] [] = true → s.bank.pushRefused n = false → 32 ≤ s.bank.room n →
    exec (.vpushq f) s = .next (s.wordDone (s.bank.pushAll n (s.bank.clk + 2) ((List.range 32).map (fun x =>
      BitVec.ofNat 64 (s.elem .n32 f.ta.toNat row (2 * x) + s.elem .n32 f.ta.toNat row (2 * x + 1) * 2 ^ 32)))) 1 none)) ∧
  (s.vecIssues (.vcpush f) f true [f.ta.toNat] [] = true → s.seq.keyReady s.bank.clk f.td.toNat = true →
    s.bank.pushRefused n = false → (s.selectedOf f row).length ≤ s.bank.room n →
    exec (.vcpush f) s = .next (s.wordDone ((s.bank.pushAll n (s.bank.clk + 4)
      ((s.selectedOf f row).map (fun e => BitVec.ofNat 64 (s.elem t f.ta.toNat row e)))).result s.dev.actSeq
        (f.td.setWidth 6) 4 (BitVec.ofNat 64 (s.selectedOf f row).length)) 1 none)) ∧
  (∀ (vs : List Word) (k : Bank), s.vecIssues (.vcpop f) f true [] [f.td.toNat] = true → s.bank.popRefused n = false →
    Bank.popN (s.selectedOf f row).length s.bank n = some (vs, k) →
    ∃ c : List Cell32, exec (.vcpop f) s =
        .next (s.wordDone (k.vecDone (s.bank.vec.setTile f.td.toNat c) 4 [f.td.toNat] true) 1 none) ∧
      ∀ i < 16, ∀ e < tyElems t, elemAt t c i e = if i = row ∧ s.selects f.msk t row e = true
        then (vs.getD ((List.range e).filter (fun x => s.selects f.msk t row x)).length 0).toNat % 2 ^ tyBits t
        else s.elem t f.td.toNat i e) ∧
  (s.bank.popRefused n = true →
    (s.vecIssues (.vpopq f) f true [] [f.td.toNat] = true → exec (.vpopq f) s = .next (s.trapped (s.trapOf .qovf))) ∧
    (s.vecIssues (.vcpop f) f true [] [f.td.toNat] = true → exec (.vcpop f) s = .next (s.trapped (s.trapOf .qovf)))) ∧
  (s.bank.pushRefused n = true →
    (s.vecIssues (.vpushq f) f true [f.ta.toNat] [] = true → exec (.vpushq f) s = .next (s.trapped (s.trapOf .qovf))) ∧
    (s.vecIssues (.vcpush f) f true [f.ta.toNat] [] = true → s.seq.keyReady s.bank.clk f.td.toNat = true → exec (.vcpush f) s = .next (s.trapped (s.trapOf .qovf)))))

/-- MSWAP, MZERO, KREL, MSAMP, MSTAT, MMODE, MRD and MRDQ enter the matrix queue with the tracked mode, a read-out with
ACC under RNE; the checks of R315 trap with ILLEGAL, a stream register bound against the word with QOVF (R303 to R306,
R315 to R320). MLDW (kinds 0 to 2), MMUL and MCHAIN enter the matrix queue where their sources and targets pass the checks
of R308, R312 and R314, recording the rows of a trail; otherwise they trap with ILLEGAL, TRAILX or QOVF. -/
def Obligations.MatrixWordsEnterTheQueue : Prop :=
  (
  ∀ (f : XF) (s : State) (t : Ty) (tr : Tracked) (ts : Nat), t = Ty.ofCode f.ty.toNat → tr = s.bank.mat.tracked →
    ts = f.ts.toNat →
  (∀ r ∈ ([(.mswap, []), (.mzero, []), (.krel, []), (.msamp, []), (.mstat, [ts])] : List ((XF → Instr) × List Nat)),
    s.matIssues (r.1 f) [] r.2 = true → s.Enters (r.1 f) [] none [] tr.mode) ∧
  (s.matIssues (.mmode f) (if f.sq = false ∧ f.fn.getLsbD 3 = true then [ts] else []) [] = true →
    (f.sq = false ∨ s.bank.popRefused ts = false → s.Enters (.mmode f) [] none [] tr.mode) ∧
    (f.sq = true → s.bank.popRefused ts = true → exec (.mmode f) s = .next (s.trapped (s.trapOf .qovf)))) ∧
  (∀ (block readable : Prop), (block ↔ t = .kb4 ∨ t = .kb8) → (readable ↔ f.fn = 0 ∨
      ∀ i < 16, tget .unset tr.cls (64 * f.ct.toNat + (16 * (f.hn.toNat % 4) + i)) ≠ .integer) →
    (∀ w : List Nat, (block → w = [ts, ts + 1]) → (¬block → w = [ts]) → s.matIssues (.mrd f) [] w = true →
      (readable ∧ (f.hn.getLsbD 2 = true → t = .f64) ∧ (block → f.sat = false ∧ ts % 2 = 0) →
        s.Enters (.mrd f) [] none [] (if f.acc then .rne else tr.mode)) ∧
      (¬readable ∨ (f.hn.getLsbD 2 = true ∧ t ≠ .f64) ∨ (block ∧ (f.sat = true ∨ ts % 2 = 1)) →
        exec (.mrd f) s = .next (s.trapped (s.trapOf .illegal)))) ∧
    (s.matIssues (.mrdq f) [] [] = true →
      (readable ∧ (block → f.sat = false) ∧ s.bank.pushRefused ts = false →
        s.Enters (.mrdq f) [] none [] (if f.acc then .rne else tr.mode)) ∧
      (readable ∧ (block → f.sat = false) ∧ s.bank.pushRefused ts = true →
        exec (.mrdq f) s = .next (s.trapped (s.trapOf .qovf))) ∧
      (¬readable ∨ (block ∧ f.sat = true) → exec (.mrdq f) s = .next (s.trapped (s.trapOf .illegal)))))) ∧
  (
  ∀ (f : XF) (s : State) (t : Ty) (tr : Tracked) (ts n m : Nat) (block : Bool) (g : TrailGen), t = Ty.ofCode f.ty.toNat →
    tr = s.bank.mat.tracked → ts = f.ts.toNat → n = f.fn.toNat + 1 → m = (n + 15) / 16 →
    block = (t == .kb4 || t == .kb8) →
  ∀ (hdr : Nat) (tiles : Nat → List Nat) (target : Prop), hdr = (if t = .kb4 then 128 else if t = .kb8 then 32 else 0) →
    (∀ k, tiles k = (List.range (if block then 2 * k else k)).map (fun i => ts + i)) →
    (target ↔ 16 * (f.hn.toNat % 4) + n ≤ 64 ∧ t = tr.stationary ∧
      (∀ i < n, tget .unset tr.cls (64 * f.ct.toNat + (16 * (f.hn.toNat % 4) + i)) ≠
        (if (tyInt t).isSome then .floating else .integer)) ∧
      (f.chn = 1 → ∃ a, s.bank.task = some a ∧ a.rank ≠ a.glast ∧ a.rank % 4 ≠ 3)) →
  (f.fn = 0 → s.matIssues (.mldw f) (tiles 4) [] = true →
    ((if block then ts % 2 = 0 ∧ ts ≤ 24 else ts % 4 = 0) → s.Enters (.mldw f) [] none [] tr.mode) ∧
    (¬(if block then ts % 2 = 0 ∧ ts ≤ 24 else ts % 4 = 0) → exec (.mldw f) s = .next (s.trapped (s.trapOf .illegal)))) ∧
  (f.fn = 1 → s.matIssues (.mldw f) [] [] = true →
    (s.bank.popRefused ts = false → s.Enters (.mldw f) [] none [] tr.mode) ∧
    (s.bank.popRefused ts = true → exec (.mldw f) s = .next (s.trapped (s.trapOf .qovf)))) ∧
  (f.fn = 2 → s.matIssues (.mldw f) [] [] = true → f.t = true → block = true →
    exec (.mldw f) s = .next (s.trapped (s.trapOf .illegal))) ∧
  (f.fn = 2 → s.matIssues (.mldw f) [] [] = true → (f.t = false ∨ block = false) →
    (s.bank.trailNow ts = some g → g.desc.dir = 0 → 64 ≤ g.desc.ringrows → 256 + hdr ≤ g.desc.rowlen →
      s.Enters (.mldw f) [g.rowsFrom ts 0 64] none [] tr.mode) ∧
    (s.bank.trailNow ts = none ∨ s.bank.trailNow ts = some g ∧
        (g.desc.dir ≠ 0 ∨ g.desc.ringrows < 64 ∨ g.desc.rowlen < 256 + hdr) →
      exec (.mldw f) s = .next (s.trapped (s.trapOf .trailx)))) ∧
  (f.hn.getLsbD 3 = false → f.sq = false → s.matIssues (.mmul f) (tiles m) [] = true →
    (target → (if block then ts % 2 = 0 ∧ ts + 2 * m ≤ 32 else ts + m ≤ 32) → s.Enters (.mmul f) [] none [] tr.mode) ∧
    (¬(if block then ts % 2 = 0 ∧ ts + 2 * m ≤ 32 else ts + m ≤ 32) →
      exec (.mmul f) s = .next (s.trapped (s.trapOf .illegal)))) ∧
  (f.hn.getLsbD 3 = false → f.sq = true → s.matIssues (.mmul f) [] [] = true → target →
    (s.bank.popRefused ts = false → s.Enters (.mmul f) [] none [] tr.mode) ∧
    (s.bank.popRefused ts = true → exec (.mmul f) s = .next (s.trapped (s.trapOf .qovf)))) ∧
  (s.matIssues (.mmul f) (if f.hn.getLsbD 3 || f.sq then [] else tiles m) [] = true →
    ¬target ∨ (f.hn.getLsbD 3 = true ∧ f.t = true ∧ (block = true ∨ n % 16 ≠ 0)) →
    exec (.mmul f) s = .next (s.trapped (s.trapOf .illegal))) ∧
  (f.hn.getLsbD 3 = true → s.matIssues (.mmul f) [] [] = true → target → (f.t = false ∨ block = false ∧ n % 16 = 0) →
    (s.bank.trailNow ts = some g → g.desc.dir = 0 → n ≤ g.desc.ringrows → 256 + hdr ≤ g.desc.rowlen →
      s.Enters (.mmul f) [g.rowsFrom ts 0 n] none [] tr.mode) ∧
    (s.bank.trailNow ts = none ∨ s.bank.trailNow ts = some g ∧
        (g.desc.dir ≠ 0 ∨ g.desc.ringrows < n ∨ g.desc.rowlen < 256 + hdr) →
      exec (.mmul f) s = .next (s.trapped (s.trapOf .trailx)))) ∧
  (s.matIssues (.mchain f) [] [] = true →
    (target → (∃ a, s.bank.task = some a ∧ a.rank % 4 ≠ 0) → s.Enters (.mchain f) [] none [] tr.mode) ∧
    (¬target ∨ s.bank.task = none ∨ (∃ a, s.bank.task = some a ∧ a.rank % 4 = 0) →
      exec (.mchain f) s = .next (s.trapped (s.trapOf .illegal)))))

/-- MLDW of a handle, KBIND, KGEN and MSOLVE enter the matrix queue with the rows of their point trails and the binding
that R321 forms or the tracked state holds; an unbound handle or a kernel that R321 refuses traps with KBIND, a trail with
TRAILX, other values with ILLEGAL (R311, R321, R323, R324). -/
def Obligations.KernelWordsEnterTheQueue : Prop :=
  ∀ (f : XF) (s : State) (t : Ty) (tr : Tracked) (ts : Nat) (b : Binding) (r c : TrailGen), t = Ty.ofCode f.ty.toNat →
    tr = s.bank.mat.tracked → ts = f.ts.toNat →
  (∀ (kern : Kernel) (h : Nat → Nat), s.matIssues (.kbind f) [ts] [] = true → (∀ i, h i = (kern.hdr.getD i 0).toNat) →
    tfind s.bank.kernels (f.fn.toNat % 16) = some kern →
    (kern.accepted t = true → 0 < s.elem .n32 ts 1 0 → 0 < s.elem .n32 ts 1 1 → s.bank.trailNow (h 0) = some r →
      s.bank.trailNow (h 1) = some c → r.desc.dir = 0 → c.desc.dir = 0 →
      (tyBits t / 8 * h 2 ≤ r.desc.rowlen ∧ tyBits t / 8 * h 2 ≤ c.desc.rowlen →
        b = ⟨t, f.fn.toNat % 16, kern.words, h 2, h 0, h 1, (List.range 3).map (fun i => BitVec.ofNat 64 (s.elem t ts 0 i)),
          BitVec.ofNat 64 (s.elem t ts 0 3), f.acc, BitVec.ofNat 64 (s.elem t ts 0 4), s.elem .n32 ts 1 0,
          s.elem .n32 ts 1 1, h 0 == h 1 || (r.base == c.base && r.desc.stride == c.desc.stride &&
            r.desc.rowlen == c.desc.rowlen)⟩ →
        s.Enters (.kbind f) [] (some b) [] tr.mode) ∧
      (r.desc.rowlen < tyBits t / 8 * h 2 ∨ c.desc.rowlen < tyBits t / 8 * h 2 →
        exec (.kbind f) s = .next (s.trapped (s.trapOf .trailx)))) ∧
    (kern.accepted t = true → 0 < s.elem .n32 ts 1 0 → 0 < s.elem .n32 ts 1 1 →
      (∃ i < 2, ∀ g, s.bank.trailNow (h i) = some g → g.desc.dir ≠ 0) →
      exec (.kbind f) s = .next (s.trapped (s.trapOf .trailx))) ∧
    (kern.accepted t = false ∨ s.elem .n32 ts 1 0 = 0 ∨ s.elem .n32 ts 1 1 = 0 →
      exec (.kbind f) s = .next (s.trapped (s.trapOf .kbind)))) ∧
  (s.matIssues (.kbind f) [ts] [] = true → tfind s.bank.kernels (f.fn.toNat % 16) = none →
    exec (.kbind f) s = .next (s.trapped (s.trapOf .kbind))) ∧
  (tfind tr.handles f.hn.toNat = none →
    (f.fn = 3 → s.matIssues (.mldw f) [] [] = true → exec (.mldw f) s = .next (s.trapped (s.trapOf .kbind))) ∧
    (s.matIssues (.kgen f) [] [ts] = true → exec (.kgen f) s = .next (s.trapped (s.trapOf .kbind))) ∧
    (s.matIssues (.msolve f) [ts] [] = true → exec (.msolve f) s = .next (s.trapped (s.trapOf .kbind)))) ∧
  (tfind tr.handles f.hn.toNat = some b → s.matIssues (.msolve f) [ts] [] = true →
    (1 ≤ s.elem .n32 ts 0 0 ∧ s.elem .n32 ts 0 0 ≤ 1023 ∧ 1 ≤ s.elem .n32 ts 0 1 ∧ s.elem .n32 ts 0 1 ≤ 64 ∧ b.nr = b.nc ∧
      b.nr ≤ 1024 ∧ f.ct.toNat + (b.nr + 63) / 64 ≤ 16) →
    (∃ n ∈ [b.rowTrail, b.colTrail, f.fn.toNat % 16], ∀ g, s.bank.trailNow n = some g → g.desc.dir ≠ 0) →
    exec (.msolve f) s = .next (s.trapped (s.trapOf .trailx))) ∧
  (tfind tr.handles f.hn.toNat = some b → (∃ n ∈ [b.rowTrail, b.colTrail], ∀ g, s.bank.trailNow n = some g → g.desc.dir ≠ 0) →
    (f.fn = 3 → s.matIssues (.mldw f) [] [] = true → exec (.mldw f) s = .next (s.trapped (s.trapOf .trailx))) ∧
    (s.matIssues (.kgen f) [] [ts] = true → exec (.kgen f) s = .next (s.trapped (s.trapOf .trailx)))) ∧
  (tfind tr.handles f.hn.toNat = some b → s.bank.trailNow b.rowTrail = some r →
    s.bank.trailNow b.colTrail = some c → r.desc.dir = 0 → c.desc.dir = 0 →
    (f.fn = 3 → s.matIssues (.mldw f) [] [] = true →
      (tyElems t ≤ r.desc.ringrows → 64 ≤ c.desc.ringrows →
        s.Enters (.mldw f) [r.rowsFrom b.rowTrail 0 (tyElems t), c.rowsFrom b.colTrail 0 64] (some b) [] tr.mode) ∧
      (r.desc.ringrows < tyElems t ∨ c.desc.ringrows < 64 →
        exec (.mldw f) s = .next (s.trapped (s.trapOf .trailx)))) ∧
    (∀ g first count : Nat, s.matIssues (.kgen f) [] [ts] = true → g = f.fn.toNat % 4 →
      first = (if t = .f64 ∧ f.fn.getLsbD 2 = true then 32 else 0) → count = (if t = .f64 then 32 else 64) →
      (16 * g + 16 ≤ r.desc.ringrows → 64 ≤ c.desc.ringrows →
        (t = b.ty → (f.fn.getLsbD 2 = true → t = .f64) →
          s.Enters (.kgen f) [r.rowsFrom b.rowTrail (16 * g) 16, c.rowsFrom b.colTrail first count] (some b) [] tr.mode) ∧
        (t ≠ b.ty ∨ (f.fn.getLsbD 2 = true ∧ t ≠ .f64) →
          exec (.kgen f) s = .next (s.trapped (s.trapOf .illegal)))) ∧
      (r.desc.ringrows < 16 * g + 16 ∨ c.desc.ringrows < 64 →
        exec (.kgen f) s = .next (s.trapped (s.trapOf .trailx)))) ∧
    (∀ (iters m tb : Nat) (suits : Prop) (q : TrailGen), s.matIssues (.msolve f) [ts] [] = true →
      iters = s.elem .n32 ts 0 0 → m = s.elem .n32 ts 0 1 → tb = f.fn.toNat % 16 →
      (suits ↔ 1 ≤ iters ∧ iters ≤ 1023 ∧ 1 ≤ m ∧ m ≤ 64 ∧ b.nr = b.nc ∧ b.nr ≤ 1024 ∧
        f.ct.toNat + (b.nr + 63) / 64 ≤ 16) → s.bank.trailNow tb = some q → q.desc.dir = 0 →
      (suits → b.nr ≤ r.desc.ringrows → b.nr ≤ c.desc.ringrows → b.nr ≤ q.desc.ringrows → m * (tyBits t / 8) ≤ q.desc.rowlen →
        s.Enters (.msolve f) [r.rowsFrom b.rowTrail 0 b.nr, c.rowsFrom b.colTrail 0 b.nr, q.rowsFrom tb 0 b.nr] (some b)
          [BitVec.ofNat 64 iters, BitVec.ofNat 64 m] tr.mode) ∧
      (¬suits → exec (.msolve f) s = .next (s.trapped (s.trapOf .illegal))) ∧
      (suits → r.desc.ringrows < b.nr ∨ c.desc.ringrows < b.nr ∨ q.desc.ringrows < b.nr ∨ q.desc.rowlen < m * (tyBits t / 8) →
        exec (.msolve f) s = .next (s.trapped (s.trapOf .trailx)))))

/-- The head of the matrix queue starts on a running bank, in the matrix engine's turn of a clock, once its event has a count, which
it takes: it notes its clock,
the seed, the period and its read-out number; MRD and MRDQ advance the number, KBIND and KREL change their handle, an
MSTAT with ACC clears KNFT, and MMUL and MLDW read their tiles (R305, R306, R316, R318 to R321). A matrix entry that has
all it reads, whose clocks and hold-ups have passed and whose event has room, completes with the beginning of a clock: it leaves the queue, posts EP, and its effect
is that of its word: planes exchanged or loaded, a collector cleared or increased by the exact products, a tile written
with the read-out, the mode, the period or the status row (R305, R307, R309 to R311, R313, R316, R318 to R320). -/
def Obligations.MatrixEntriesStartAndComplete : Prop :=
  (
  ∀ (b : Nat) (s : State) (k : Bank) (e : MEnt) (es : List MEnt) (f : XF), k = tget .empty s.dev.banks b →
    k.mat.queue = e :: es → e.started = false → (∀ x ∈ es, x.started = false) → k.status = .running → f = xf e.word →
    k.phase = .close → (f.ew = 0 ∨ 0 < tget 0 k.events f.ew.toNat) →
    ∃ (t : State) (k' : Bank) (e' : MEnt), exec (.matrixEntryStart b) s = .next t ∧ s.SameMem t ∧
      k' = tget .empty t.dev.banks b ∧ k'.mat.queue = e' :: es ∧ e'.word = e.word ∧ e'.started = true ∧
      e'.startClk = k.clk ∧ e'.seed = k.mat.seed ∧ e'.period = k.mat.period ∧ e'.tseq = k.mat.mseq ∧ e'.mode = e.mode ∧
      (∀ n, tget 0 k'.events n = if f.ew ≠ 0 ∧ n = f.ew.toNat then tget 0 k.events n - 1 else tget 0 k.events n) ∧
      k'.mat.mseq = (match e.word with
        | .mrd _ => (k.mat.mseq + 1) % 2 ^ 32
        | .mrdq _ => (k.mat.mseq + 1) % 2 ^ 32
        | _ => k.mat.mseq) ∧
      (∀ n, tfind k'.mat.handles n = (match e.word, e.binding with
        | .kbind g, some x => if n = g.hn.toNat then some x else tfind k.mat.handles n
        | .krel g, _ => if n = g.hn.toNat then none else tfind k.mat.handles n
        | _, _ => tfind k.mat.handles n)) ∧
      k'.mat.stat.knft = (match e.word with
        | .mstat g => if g.acc then 0 else k.mat.stat.knft
        | _ => k.mat.stat.knft) ∧
      k'.mat.stationary = k.mat.stationary ∧ k'.mat.shadow = k.mat.shadow ∧ k'.mat.coll = k.mat.coll ∧ k'.vec = k.vec ∧
      (∀ (g : XF) (r : Nat), (e.word = .mmul g ∧ g.hn.getLsbD 3 = false ∧ g.chn = 0 ∧ r ≤ g.fn.toNat ∨
          e.word = .mldw g ∧ g.fn = 0 ∧ r < 64) → g.sq = false → isBlockTy (Ty.ofCode g.ty.toNat) = false → e.refs = [] →
        e.src = [] →
        (e'.src.getD r .zero).bytes = (List.range 64).flatMap (fun j =>
          leBytes 4 (elemAt .n32 (k.vec.tile (g.ts.toNat + r / 16)) (r % 16) j)))) ∧
  (
  ∀ (b : Nat) (s : State) (k : Bank) (e : MEnt) (es : List MEnt) (f : XF) (ty : Ty), k = tget .empty s.dev.banks b →
    k.mat.queue = e :: es → e.started = true → e.refs = [] → e.out = [] → popNeeds e.word = none → f = xf e.word →
    ty = Ty.ofCode f.ty.toNat → (∀ g, e.word ≠ .mchain g) → f.chn = 0 → rowsNeeded e.word ≤ e.src.length →
    (f.ep = 0 ∨ tget 0 k.events f.ep.toNat + k.postsTo f.ep.toNat < 65535) →
    (k.status ≠ .running ∨ k.between = true ∧ e.startClk + k.mat.clocks e + e.held ≤ k.clk) → e.period = 0 →
    ∃ (t : State) (k' : Bank), exec (.matrixEntryComplete b 0) s = .next t ∧ s.SameMem t ∧ k' = tget .empty t.dev.banks b ∧
      k'.mat.queue = es ∧
      (∀ n, tget 0 k'.events n = if f.ep ≠ 0 ∧ n = f.ep.toNat then tget 0 k.events n + 1 else tget 0 k.events n) ∧
      (∀ g, e.word = .mswap g → k'.mat.stationary = k.mat.shadow ∧ k'.mat.shadow = k.mat.stationary ∧
        k'.mat.coll = k.mat.coll ∧ k'.vec = k.vec) ∧
      (∀ g c, e.word = .mzero g → tget Collector.start k'.mat.coll c =
        if c = g.ct.toNat then .start else tget .start k.mat.coll c) ∧
      (∀ g, e.word = .mmode g → k'.mat.mode = Rnd.ofCode (g.fn.toNat % 8) ∧
        k'.mat.seed = (match e.buf with | [] => k.mat.seed | v :: _ => v.toNat % 2 ^ 32) ∧ k'.mat.coll = k.mat.coll) ∧
      (∀ g, e.word = .msamp g → k'.mat.period = (if g.fn.toNat = 32 then 0 else 2 ^ g.fn.toNat) ∧ k'.mat.coll = k.mat.coll) ∧
      (∀ g, e.word = .mstat g → k'.mat.coll = k.mat.coll ∧ (∀ n, n ≠ g.ts.toNat → k'.vec.tile n = k.vec.tile n) ∧
        ∀ i < 16, ∀ j < 64, elemAt .n32 (k'.vec.tile g.ts.toNat) i j =
          if i = 0 then (e.buf.getD j 0).toNat % 2 ^ 32 else 0) ∧
      (∀ g, e.word = .mldw g → e.binding = none → k'.mat.shadow.ty = ty ∧ k'.mat.stationary = k.mat.stationary ∧
        ∀ j < 64, k'.mat.shadow.row j = e.src.getD j .zero) ∧
      (∀ g, e.word = .mmul g → isBlockTy ty = false → k'.vec = k.vec ∧ k'.mat.stationary = k.mat.stationary ∧
        (∀ c, c ≠ g.ct.toNat → tget Collector.start k'.mat.coll c = tget .start k.mat.coll c) ∧
        ∀ (o n : Collector), o = tget .start k.mat.coll g.ct.toNat → n = tget .start k'.mat.coll g.ct.toNat →
          n.tag = none ∧ ∀ r, r < 16 * (g.hn.toNat % 4) ∨ 16 * (g.hn.toNat % 4) + g.fn.toNat < r →
            n.row r = o.row r ∧ n.classOf r = o.classOf r) ∧
      (∀ g i j, e.word = .mmul g → isBlockTy ty = false → i ≤ g.fn.toNat → j < 64 →
        ∀ (o n : Collector), o = tget .start k.mat.coll g.ct.toNat → n = tget .start k'.mat.coll g.ct.toNat →
          (o.row (16 * (g.hn.toNat % 4) + i)).length = 64 →
          n.classOf (16 * (g.hn.toNat % 4) + i) = (if (tyInt ty).isSome then .integer else .floating) ∧
          (n.row (16 * (g.hn.toNat % 4) + i)).getD j .zero =
            (if (tyInt ty).isSome then canonInt else canonFloat) (Val.sum ((o.row (16 * (g.hn.toNat % 4) + i)).getD j .zero ::
              List.zipWith Val.mul (rowValues ty (e.src.getD i .zero)) (rowValues ty (k.mat.stationary.row j))))) ∧
      (∀ g, e.word = .mrd g → isBlockTy ty = false → ty ≠ .f64 → k'.mat.coll = k.mat.coll ∧
        (∀ n, n ≠ g.ts.toNat → k'.vec.tile n = k.vec.tile n) ∧
        ∀ i < 16, ∀ j < 64, ∀ (c : Collector) (r : Nat) (v : Val), c = tget .start k.mat.coll g.ct.toNat →
          r = 16 * (g.hn.toNat % 4) + i → v = readEntry ((c.row r).getD j .zero) →
          elemAt ty (k'.vec.tile g.ts.toNat) i j = (if (tyInt ty).isSome ∧ c.classOf r ≠ .floating
            then readOutInt ty g.sat (v.atScale 0)
            else readOut ty e.mode g.sat (if e.mode = .rdh then ditherHash e.seed e.tseq r j else 0) g.fn.toInt v)
              % 2 ^ tyBits ty))

/-- The slice's oldest counted write is acted on as R157 says: dropped where the watch is disarmed, a runaway that disarms
the watch and forms a record where its depth or rate is past the limit, counted into a pending trigger, or else a new
trigger with its handler gang; a rate window's end returns RUSED to 0 in the lead entries that it ends. The close of a
trigger (R158, R159, R161, R162): the handler's Lookout record takes what the lead entry holds, K may issue, PEND is 0,
only QUEUED mode leaves the watch armed, and a cleared watch is freed. -/
def Obligations.CountedWritesTriggerHandlers : Prop :=
  (
  (∀ (die slice n e : Nat) (s : State) (l : Slice) (a : CountedWrite) (as : List CountedWrite) (w : Watch), n = 80 * die + slice →
    l = tget .start s.dev.slices n → l.arrivals = a :: as → s.dev.leadOf a.handle = some (n, e, w) →
    ∀ i : Instr, i = .leadEntryWriteArrival die slice →
    (w.arm = false → exec i s = .next (s.setSlice n { l with arrivals := as })) ∧
    (w.arm = true → w.dlim < a.depth ∨ (w.pend = false ∧ w.rused = w.rbud) →
      ∃ (t : State) (r : FaultRec), exec i s = .next t ∧ t.mem = s.mem ∧ t.dev.banks = s.dev.banks ∧ t.dev.gangs = s.dev.gangs ∧
        t.dev.leadOf a.handle = some (n, e, { w with arm := false }) ∧ (tget .start t.dev.slices n).arrivals = as ∧
        (∀ c j x, tfind (tget .start t.dev.slices c).watches j = some x → x.leadh = w.leadh → x.arm = false) ∧
        (t.dev.part w.part).records = (s.dev.part w.part).records ++ [r] ∧ r.cause = Cause.runaway.code ∧ r.src = 6 ∧
        r.flags = 0 ∧ r.va = w.vbase + a.addr ∧
        r.detail = w.leadh % 2 ^ 16 + (if w.dlim < a.depth then 1 else 2) * 2 ^ 16 + a.depth % 2 ^ 8 * 2 ^ 24) ∧
    (w.arm = true → a.depth ≤ w.dlim → w.pend = true →
      exec i s = .next (s.setSlice n { l with
        arrivals := as,
        watches := tput l.watches e { w with count := min (w.count + 1) 0xFFFF, last := a.addr, pdepth := max w.pdepth a.depth } })) ∧
    (∀ p, p = s.dev.part w.part → w.arm = true → a.depth ≤ w.dlim → w.pend = false → w.rused ≠ w.rbud →
      s.dev.handlerQuads w.part (n / 80) w.qmask ≠ [] →
      ∃ (t : State) (g : Gang) (m : Member), exec i s = .next t ∧ t.mem = s.mem ∧ t.dev.banks = s.dev.banks ∧
        (tget .start t.dev.slices n) = { l with
          arrivals := as,
          watches := tput l.watches e { w with pend := true, count := 1, first := a.addr, last := a.addr, pdepth := a.depth,
                                               rused := w.rused + 1, gang := gangKey w.part p.nextGang } } ∧
        tfind t.dev.gangs (gangKey w.part p.nextGang) = some g ∧ g.part = w.part ∧ g.gid = p.nextGang ∧ g.die = n / 80 ∧
        g.image = w.image ∧ g.prio = w.prio ∧ g.glast = 0 ∧ g.trig = true ∧ g.repro = w.repro ∧ g.prov = false ∧
        g.argbase = w.uword.toNat ∧ g.qmask = w.qmask ∧ g.watch = some w.leadh ∧ g.members = [(0, m)] ∧ m.taskId = p.nextTask ∧
        (g.stage = .ready ∨ g.stage = .hamper) ∧ (t.dev.part w.part).nextGang = nextNumber p.nextGang ∧
        (t.dev.part w.part).nextTask = nextNumber p.nextTask)) ∧
  (∀ (die slice n c : Nat) (s : State) (l : Slice), n = 80 * die + slice → l = tget .start s.dev.slices n →
    c = (l.count / 256 + 1) * 256 → ∃ ws : Table Watch,
    exec (.rateWindowReset die slice) s = .next (s.setSlice n { l with count := c, watches := ws }) ∧
    ∀ j, tfind ws j = (tfind l.watches j).map (fun w => if w.lead = true ∧ c % 2 ^ max w.rwin 8 = 0 then { w with rused := 0 } else w))) ∧
  (
  ∀ (b gk h sl e : Nat) (s : State) (k : Bank) (g : Gang) (w : Watch), k = tget .empty s.dev.banks b → k.status = .running →
    k.k.released = false → k.gang = some gk → tfind s.dev.gangs gk = some g → g.watch = some h → s.dev.leadOf h = some (sl, e, w) →
    (∀ a ∈ (tget .start s.dev.slices sl).arrivals, a.handle ≠ h) → bitOf g.pcapt.toNat 0 = false →
    ∃ t : State, exec (.triggerClose b) s = .next t ∧ t.mem = s.mem ∧ t.dev.parts = s.dev.parts ∧ t.dev.gangs = s.dev.gangs ∧
      t.dev.banks = tput s.dev.banks b { k with
        lookout := leBytes 8 (w.vbase + w.first) ++ leBytes 8 (w.vbase + w.last) ++ leBytes 8 w.uword.toNat ++ leBytes 2 w.leadh ++
          leBytes 2 w.count ++ leBytes 1 w.pdepth ++ leBytes 1 (if w.queued then 1 else 0) ++ leBytes 2 0,
        task := k.task.map (fun x => { x with depth := w.pdepth }),
        k := { k.k with cyc := 0, released := true, prevClk := k.clk, prevOcc := 1 } } ∧
      t.dev.leadOf h = (if w.cleared then none else some (sl, e, { w with pend := false, arm := w.arm && w.queued })))

/-- A write of TAIL over a trained host port moves it, or sets TERR where the ring does not hold as much (R350), and over a port
with no trained module changes nothing (R343); an entry read at HEAD goes to a
die or a walker, or is refused with a record and HEAD moves on (R348 to R350). -/
def Obligations.LaunchQueuesAdvance : Prop :=
  (∀ (part d : Nat) (prov : Bool) (v : Word) (s : State) (p : Part) (r : Ring), p = s.dev.part part → r = p.launchQ prov →
    d = (v.toNat % 2 ^ 32 + 2 ^ 32 - r.head.toNat % 2 ^ 32) % 2 ^ 32 →
    ∀ r' : Ring, r' = (if 2 ^ min r.lsize 16 < d then { r with terr := true } else { r with tail := v.setWidth 32 }) →
    exec (.lqTailWrite part prov v) s =
      .next (if s.dev.pkg.mup = 0 then s else s.setPart part (if prov then { p with plq := r' } else { p with lq := r' }))) ∧
  (∀ (part v pa : Nat) (prov : Bool) (s : State) (p : Part) (r : Ring), p = s.dev.part part → r = p.launchQ prov → r.en = true →
    r.head.setWidth 32 ≠ r.tail → s.dev.entryPending part prov = false →
    pa = r.base + 16 * (r.head.toNat % 2 ^ min r.lsize 16) → (Mach.of s).hostHolds pa 16 = false → v = s.le pa 16 →
    (v / 2 ^ 64 % 2 ^ 8 = 1 → v / 2 ^ 72 = 0 →
      ∃ (die : Nat) (x : Submission), x.die = die ∧ x.part = part ∧ x.prov = prov ∧ x.addr = v % 2 ^ 64 ∧ x.queue = true ∧
        x.node = none ∧ x.waits = false ∧ x.given = false ∧
        exec (.launchEntryRead part prov) s =
          .next (s.setDie die { s.dev.die die with submits := (s.dev.die die).submits ++ [x] })) ∧
    (∀ die vec tag, v / 2 ^ 64 % 2 ^ 8 = 2 → die = v / 2 ^ 72 % 2 ^ 8 → vec = v / 2 ^ 80 % 2 ^ 16 → tag = v / 2 ^ 96 →
      die < 4 → s.dev.ownsQuadOn part die = true → vec ≠ 1 → vec < 64 →
      ∃ x : Submission, x.die = die ∧ x.part = part ∧ x.prov = prov ∧ x.addr = v % 2 ^ 64 ∧ x.queue = true ∧
        x.graph = some (tag, vec) ∧ x.waits = false ∧ x.given = false ∧
        exec (.launchEntryRead part prov) s =
          .next (s.setDie die { s.dev.die die with graphReqs := (s.dev.die die).graphReqs ++ [x] })) ∧
    (v / 2 ^ 64 % 2 ^ 8 ≠ 1 → v / 2 ^ 64 % 2 ^ 8 ≠ 2 → ∃ (x : FaultRec) (p' : Part), x.cause = Cause.illegal.code ∧ x.src = 6 ∧
      x.va = v % 2 ^ 64 ∧ x.flags = 0 ∧ x.gangId = 0 ∧ p' = { p with records := p.records ++ [x] } ∧
      exec (.launchEntryRead part prov) s = .next (s.setPart part
        (if prov then { p' with plq := { r with head := r.head + 1 } } else { p' with lq := { r with head := r.head + 1 } }))))

/-- A submission that is refused leaves a record and its die, and one whose descriptor names no plot is accepted: a gang
with the next GANGID and TASKIDs holds the descriptor's fields (R130, R132, R133); the copy of a version takes the bytes
of the version before it (R136), and its poison (the model's choice, log 98); a ready gang enters its die's hamper (R136, R143). -/
def Obligations.GangsAreAcceptedAndReady : Prop :=
  (∀ (die : Nat) (s : State) (x : Submission) (p : Part), nextSubmission false (s.dev.die die).submits = some x →
    x.given = false → x.node = none → x.queue = true → x.prov = false → x.die = die → p = s.dev.part x.part → x.addr % 64 ≠ 0 →
    ∃ r : FaultRec, r.cause = Cause.illegal.code ∧ r.src = 6 ∧ r.va = x.addr ∧ r.flags = 0 ∧
      exec (.gangSubmission die) s = .next ((s.setPart x.part
        { p with records := p.records ++ [r], lq := { p.lq with head := p.lq.head + 1 } }).setDie die
        { s.dev.die die with submits := (s.dev.die die).submits.filter (fun y => y != x),
                             graphReqs := (s.dev.die die).graphReqs.filter (fun y => y != x) })) ∧
  (∀ (die v : Nat) (s : State) (x : Submission) (p : Part) (bs : List Byte) (d : Descr),
    nextSubmission false (s.dev.die die).submits = some x → x.given = false → x.die = die → x.addr % 64 = 0 →
    p = s.dev.part x.part → bitOf p.pcapt.toNat 0 = false → bitOf p.pcapt.toNat 1 = false →
    (Mach.of s).ownRead x.part x.addr 64 = (Mach.of s, .ok bs) → d = descr bs → v = leNat bs → d.illegal = false →
    d.gated = false → d.nrd = 0 → d.nwr = 0 → d.die = die → die < 4 → s.dev.ownsQuadOn x.part die = true → tfind p.images d.image ≠ none →
    s.dev.gangsOn die < 8192 →
    ∃ (t : State) (g : Gang), exec (.gangSubmission die) s = .next t ∧ t.mem = s.mem ∧ t.dev.banks = s.dev.banks ∧
      t.dev.gangs = tput s.dev.gangs (gangKey x.part p.nextGang) g ∧ g.part = x.part ∧ g.gid = p.nextGang ∧ g.die = die ∧
      g.image = v % 2 ^ 32 ∧ g.prio = v / 2 ^ 32 % 2 ^ 8 ∧ g.glast = v / 2 ^ 40 % 2 ^ 6 ∧ g.repro = v.testBit 48 ∧
      g.irq = v.testBit 51 ∧ g.argbase = v / 2 ^ 64 % 2 ^ 64 ∧ g.doneVa = v / 2 ^ 256 % 2 ^ 64 ∧ g.tag = v / 2 ^ 320 % 2 ^ 32 ∧
      g.vec = v / 2 ^ 352 % 2 ^ 16 ∧ g.prov = x.prov ∧ g.node = x.node ∧ g.stage = .ordering ∧ g.view = [] ∧ g.pending = [] ∧
      (∀ r ≤ g.glast, ∃ m : Member, tfind g.members r = some m ∧ m.taskId = Nat.repeat nextNumber r p.nextTask ∧ m.loc = .hamper) ∧
      (t.dev.part x.part).nextGang = nextNumber p.nextGang ∧ (t.dev.part x.part).nextTask = Nat.repeat nextNumber (g.glast + 1) p.nextTask ∧
      ((t.dev.part x.part).launchQ x.prov).head = (p.launchQ x.prov).head + (if x.queue then 1 else 0) ∧
      (t.dev.die die).submits = (s.dev.die die).submits.filter (fun y => y != x)) ∧
  (∀ (part plot key i src : Nat) (s : State) (p : Plot) (v : Version), key = part * 2 ^ 42 + plot % 2 ^ 42 → p = s.dev.plot key →
    p.versions[i]? = some v → v.copied = false → v.freed = false → v.state ≠ .discarded → src = p.newestBelow i →
    p.stateOf src = .final → isHbm ((Mach.of s).versionFrame key src) = true → isHbm v.frame = true →
    (Mach.of s).versionFrame key src % 16384 = 0 → v.frame % 16384 = 0 →
    (Mach.of s).hostHolds ((Mach.of s).versionFrame key src) 16384 = false → (Mach.of s).writeHeld v.frame 16384 = false →
    (Mach.of s).copyHeld (key / 2 ^ 42) ((Mach.of s).versionFrame key src) v.frame = false →
    ∃ t : State, exec (.versionCopyComplete part plot i) s = .next t ∧
      t.dev = { s.dev with plots := tput s.dev.plots key { p with versions := p.versions.set i { v with copied := true } },
                           pkg := t.dev.pkg } ∧
      (∀ j < 512, (v.frame / 32 + j ∈ t.dev.pkg.poison ↔ (Mach.of s).versionFrame key src / 32 + j ∈ s.dev.pkg.poison)) ∧
      s.Wrote t v.frame ((List.range 16384).map (fun j => memGet s.mem ((Mach.of s).versionFrame key src + j)))) ∧
  (∀ (gk : Nat) (s : State) (g : Gang), tfind s.dev.gangs gk = some g →
    g.stage = .ready ∨ (g.stage = .ordering ∧ (Mach.of s).gangSettled g = true) →
    (∀ j h, (j, h) ∈ s.dev.gangs → h.die = g.die → h.stage = .ready → j = gk) → (s.dev.hamper g.die).length < 1024 →
    exec (.gangReady gk) s = .next (((s.setGang gk { g with stage := .hamper }).setHamper g.die
      (hampInsert { gang := gk, saved := none, prio := g.prio, ord := s.dev.nextOrd, n := g.glast + 1, part := g.part }
        (s.dev.hamper g.die))).ordered))

/-- A quad or core hamper that is over its size sends its last eight entries up, and one at its threshold takes down the
first eight that it may hold; each keeps the order of R143, and every other hamper stays (R144). DISPATCH (R145, R39): an
empty bank takes the best head: a single task is bound with its identity and boot mailbox; for a gang of more members the
bank is held until enough cores of the quad are. -/
def Obligations.HampersFeedBanks : Prop :=
  (
  ∀ (quad : Bool) (unit low high : Nat) (s : State) (l : List HampEnt), low = (if quad then 1000 + unit else 2000 + unit) →
    high = (if quad then unit / 16 else 1000 + unit / 4) → l = s.dev.hamper low →
    ((if quad then 64 else 16) < l.length →
      exec (.basketUp quad unit) s = .next ((s.setHamper low (l.take (l.length - 8))).setHamper high
        (hampInserts (l.drop (l.length - 8)) (s.dev.hamper high)))) ∧
    (l.length ≤ (if quad then 64 else 16) → exec (.basketUp quad unit) s = .next s) ∧
    (l.length ≤ (if quad then 16 else 4) → ∀ es, es = ((s.dev.hamper high).filter
        (fun e => (Mach.of s).mayHold e (if quad then unit else unit / 4) (if quad then 4 else 1))).take 8 →
      ∃ t : State, exec (.basketDown quad unit) s = .next t ∧ t.mem = s.mem ∧ t.dev = { s.dev with hampers := t.dev.hampers } ∧
        t.dev.hamper low = hampInserts es l ∧ t.dev.hamper high = (s.dev.hamper high).filter (fun e => !es.contains e) ∧
        ∀ h, h ≠ low → h ≠ high → t.dev.hamper h = s.dev.hamper h) ∧
    ((if quad then 16 else 4) < l.length → exec (.basketDown quad unit) s = .next s)) ∧
  (
  ∀ (b h : Nat) (s : State) (k : Bank) (e : HampEnt) (g : Gang), k = tget .empty s.dev.banks b → k.status = .empty →
    k.held = none → s.dev.slotBlocks b = false →
    (∀ x ∈ s.dev.hamper (b / 128), ∀ y, s.dev.gangOf x = some y → y.trig = false) →
    bestHead ((Mach.of s).heads b) = some (h, e) → e.saved = none → tfind s.dev.gangs e.gang = some g →
    (∀ m, e.n = 1 → tfind g.members 0 = some m → bitOf g.pcapt.toNat 0 = false → bitOf g.pcapt.toNat 1 = false →
      exec (.dispatch b) s = .next ((((s.setHamper h ((s.dev.hamper h).filter (fun x => x != e))).withBank b { Bank.empty with
          status := .loading, dispatched := s.dev.nextOrd, mbox := g.mailbox 0 m.taskId,
          task := some { part := g.part, taskId := m.taskId, gangId := g.gid, rank := 0, glast := g.glast, prio := g.prio,
                         image := g.image, repro := g.repro, trig := g.trig, prov := g.prov, depth := 0, rply := false } }).setGang e.gang
        { g with members := tput g.members 0 { m with loc := .bound b },
                 stage := if g.stage = .hamper then .bound else g.stage }).ordered)) ∧
    (1 < e.n → ((List.range 8).filter (fun i => i != b % 8 && (tget Bank.empty s.dev.banks (b / 8 * 8 + i)).held == some e.gang)).length + 1 < e.n →
      exec (.dispatch b) s = .next (s.withBank b { k with held := some e.gang })))

/-- OVERLAY_LOAD puts a stream segment's words in its sequencer's instruction memory, or a kernel segment's header and the words
that the header counts among the bank's kernels; a stream without a segment is a single HALT, and the bank waits for its gang (R17,
R23, R24, R40). TASK_START starts K of a loaded task at word 0 with ARGBASE in g1 and the data segment in g2, every other
register 0 (R16, R38, R41). -/
def Obligations.TasksLoadAndStart : Prop :=
  (∀ (b : Nat) (s : State) (k : Bank) (x : Task) (img : Image) (rs bs : List Byte) (g : Seg), k = tget .empty s.dev.banks b →
    k.status = .loading → k.why = .none → k.savePa = none → k.task = some x → tfind (s.dev.part x.part).images x.image = some img →
    (Mach.of s).loadRecords b img.va = (Mach.of s, .ok rs []) → segsOf rs = [g] → g.kind ≤ 4 →
    (∀ m : Mach, m = (Mach.of s).setBank b (k.fillStreams [g]) →
      Mach.loadGo b (g.size + 1) m (img.va + g.offset) 0 g.size = (m, .ok bs [])) →
    ∃ halt : Word, decodeTableWord 64 halt.toNat = some (.halt ⟨⟨0, 0, false⟩, 0, 0, 0, 0, 0⟩) ∧
    (g.kind < 4 → ∃ code : List Word, code.length = bs.length / 8 ∧
      (∀ j w, code[j]? = some w → w.toNat = leNat ((bs.drop (8 * j)).take 8)) ∧
      ∃ t : State, exec (.overlayLoad b) s = .next t ∧ t.mem = s.mem ∧
        tget .empty t.dev.banks b = { (k.mapSeqs (fun q y => { y with code := if q.idx = g.kind then code else [halt], poison := [] }))
          with status := .loaded } ∧
        ∀ c, c ≠ b → tget .empty t.dev.banks c = tget .empty s.dev.banks c) ∧
    (g.kind = 4 → ∃ kern : Kernel, kern.hdr = bs.take 16 ∧
      kern.words.length = min (bs.getD 3 0).toNat ((bs.length - 16) / 8) ∧
      (∀ j w, kern.words[j]? = some w → w.toNat = leNat ((bs.drop (16 + 8 * j)).take 8)) ∧
      ∃ t : State, exec (.overlayLoad b) s = .next t ∧ t.mem = s.mem ∧
        tget .empty t.dev.banks b = { (k.mapSeqs (fun _ y => { y with code := [halt], poison := [] })) with
          status := .loaded, kernels := tput k.kernels g.index kern } ∧
        ∀ c, c ≠ b → tget .empty t.dev.banks c = tget .empty s.dev.banks c)) ∧
  (∀ (b gk : Nat) (s : State) (k : Bank) (x : Task) (g : Gang) (m : Member) (img : Image), k = tget .empty s.dev.banks b →
    k.status = .loaded → k.savePa = none → k.task = some x → x.part = g.part → tfind s.dev.gangs gk = some g → g.stage = .bound →
    g.members = [(0, m)] → m.loc = .bound b → tfind (s.dev.part x.part).images x.image = some img →
    k.mat.queue = [] → k.copyq = [] → k.trails = [] → (tget .empty s.dev.banks (partner b)).status = .empty → s.dev.saving b = false →
    ∃ (t : State) (k' : Bank), exec (.taskStart gk) s = .next t ∧ t.mem = s.mem ∧ t.dev.parts = s.dev.parts ∧
      t.dev.gangs = tput s.dev.gangs gk { g with stage := .running } ∧ k' = tget .empty t.dev.banks b ∧ k'.status = .running ∧
      k'.slot = .K ∧ k'.task = k.task ∧ k'.mbox = k.mbox ∧ k'.vec = k.vec ∧ k'.mat = k.mat ∧ k'.k.released = !x.trig ∧
      (∀ q : Seq, (k'.seq q).code = (k.seq q).code ∧ (k'.seq q).pos = 0 ∧ (k'.seq q).halted = false ∧ (k'.seq q).cyc = 0 ∧
        (k'.seq q).loops = [] ∧ (k'.seq q).accs = [] ∧ (k'.seq q).p = [] ∧ (k'.seq q).a = [] ∧
        ∀ r, tget 0 (k'.seq q).g r = if r = 1 then k.mbox.extractLsb' 0 64 else if r = 2 then word img.dataVa else 0) ∧
      (tget .start t.dev.cores (b / 2)).l1 = [] ∧
      ∀ c, c ≠ b → tget .empty t.dev.banks c = tget .empty s.dev.banks c)

/-- TASK_RETIRE (R49, R50): a single task that has halted, with nothing queued or outstanding and all that it wrote to host memory
performed, leaves its bank empty and its gang retired. GATE_READ (R140): the first non-zero value, which a store has left since the
retirement or which the word holds now, decides: gate word 1 makes the gang's versions final, 2 discards them, 0 decides nothing, and
any other value discards them with a GATE record. GANG_COMPLETION (R51): STATUS, CAUSE, RANK and TAG are written at the
completion address, the vector follows where one was asked for, and the gang is gone. VERSION_PUBLICATION (R138): the
oldest final version's frame enters the leaf entries, and the TLBs forget the plot. -/
def Obligations.TasksRetireAndComplete : Prop :=
  (
  (∀ (b gk : Nat) (s : State) (k : Bank) (x : Task) (g : Gang) (m : Member), k = tget .empty s.dev.banks b → k.task = some x →
    k.status = .running ∨ k.status = .ready → k.k.halted = true → (∀ q : Seq, q ≠ .K → (k.seq q).released = true → (k.seq q).halted = true) →
    k.mat.queue = [] → k.enginesIdle = true → k.ldc = 0 → k.stc = 0 → k.cpc = 0 → k.toc = 0 → k.anyAcc = false →
    (∀ l ∈ s.dev.dirtyLines (some x.part), ∀ w ∈ l.2.writers, w.task ≠ x.key) →
    (∀ r ∈ (s.dev.part x.part).logWait, leNat ((r.2.drop 20).take 4) ≠ (k.mbox.extractLsb' 96 32).toNat) →
    gk = gangKey x.part x.gangId → tfind s.dev.gangs gk = some g →
    g.members = [(x.rank, m)] → k.failed = none → g.view = [] → g.gated = true ∨ s.dev.versionsBy gk = [] →
    ∃ t : State, exec (.taskRetire b) s = .next t ∧ t.mem = s.mem ∧ tget .empty t.dev.banks b = Bank.empty ∧
      (∀ c, c ≠ b → tget .empty t.dev.banks c = tget .empty s.dev.banks c) ∧
      tfind t.dev.gangs gk = some { g with stage := .retired, members := [(x.rank, { m with loc := .retired, failed := none })] } ∧
      (∀ c y, y ∈ (tget .start t.dev.cores c).tlb → ¬ (y.part = x.part ∧ y.task = some x.taskId)) ∧
      (∀ c j y, (j, y) ∈ (tget .start t.dev.slices c).parks → y.bank ≠ b)) ∧
  (∀ (gk v : Nat) (s : State) (g : Gang) (bs : List Byte), tfind s.dev.gangs gk = some g → g.stage = .retired → g.gated = true →
    g.firstFailed = none → (Mach.of s).mapsHeld g.part = false →
    (g.gateLatch = none ∧ (Mach.of s).ownRead g.part g.gate 8 = (Mach.of s, .ok bs) ∧ v = leNat bs ∨ g.gateLatch = some v ∧ v ≠ 0) →
    (v = 0 → exec (.gateRead gk) s = .next s) ∧
    (v ≠ 0 → ∃ (t : State) (g' : Gang), exec (.gateRead gk) s = .next t ∧
      tfind t.dev.gangs gk = some g' ∧ g'.stage = .decided ∧ g'.gateStatus = (if v = 1 then 1 else 2) ∧ g'.gateCause = 0 ∧
      g'.members = g.members ∧
      (∀ (key i : Nat) (y y' : Version), (s.dev.plot key).versions[i]? = some y → y.writer = some gk → y.state = .provisional →
        tfind t.dev.plots key ≠ none → (t.dev.plot key).versions[i]? = some y' →
        y'.state = if v = 1 then .final else .discarded) ∧
      (v = 1 ∨ v = 2 → (t.dev.part g.part).records = (s.dev.part g.part).records) ∧
      (2 < v → ∃ r : FaultRec, (t.dev.part g.part).records = (s.dev.part g.part).records ++ [r] ∧ r.cause = Cause.gate.code ∧
        r.src = 6 ∧ r.detail = v ∧ r.gangId = g.gid)))) ∧
  (
  (∀ (gk st cause rank : Nat) (s : State) (g : Gang) (x : Xlat), tfind s.dev.gangs gk = some g → g.node = none →
    (g.stage = .retired ∧ g.gated = false ∧ g.firstFailed = none ∧ st = 1 ∧ cause = 0 ∧ rank = 0) ∨
      (g.stage = .decided ∧ g.gated = true ∧ g.firstFailed = none ∧ st = g.gateStatus ∧ cause = g.gateCause ∧ rank = 0) ∨
      (g.stage = .retired ∧ (∃ c : Cause, g.firstFailed = some (rank, c) ∧ cause = c.code) ∧ st = 3) →
    g.doneVa ≠ 0 → (Mach.of s).translateLeaf g.part g.doneVa .write = .ok x → s.ownStore x.pa →
    ∃ t : State, exec (.gangCompletion gk) s = .next t ∧ tfind t.dev.gangs gk = none ∧
      (∀ j, j ≠ gk → s.SameGangs t j) ∧
      (g.irq = false → t.dev.parts = s.dev.parts) ∧
      s.Wrote t x.pa (leBytes 8 (st + cause % 2 ^ 8 * 2 ^ 8 + rank % 2 ^ 6 * 2 ^ 16 + g.tag % 2 ^ 32 * 2 ^ 32)) ∧
      (∀ p, p = s.dev.part g.part → g.irq = true → t.dev.part g.part =
        if bitOf p.msixMask g.vec then { p with msixPend := p.msixPend ||| 2 ^ g.vec }
        else { p with msixSent := p.msixSent ++ [g.vec] })) ∧
  (∀ (part plot key ea e : Nat) (s : State) (p : Plot) (a b : Version), key = part * 2 ^ 42 + plot % 2 ^ 42 → part < 16 →
    p = s.dev.plot key → p.versions = [a, b] → p.published = 0 → b.state = .final → s.dev.viewHolds key 0 = true →
    (Mach.of s).rawLeaf part (plot % 2 ^ 42 * 2 ^ 14) = some (ea, e) → e / 2 ^ 8 % 2 ^ 4 = 1 → bitOf e 7 = false →
    (Mach.of s).leavesOf part (plot % 2 ^ 42 * 2 ^ 14) = (List.range 4).map (fun j => ea + 8 * j) →
    (∀ j < 4, (Mach.of s).hostHolds (ea + 8 * j) 8 = false) → (Mach.of s).hostHolds ((Mach.of s).leafPlot key) (2 ^ 14) = false →
    (Mach.of s).hostHolds b.frame (2 ^ 14) = false → isHostMem ea = false → isHostMem (ea + 31) = false →
    (∀ j k, (j, k) ∈ s.dev.banks → ∀ q : Seq, (k.seq q).walk = none) →
    s.dev.watchesIn ((Mach.of s).leafPlot key) (2 ^ 14) = [] → (∀ j k, (j, k) ∈ s.dev.banks → k.k.waita = none) →
    ∃ t : State, exec (.versionPublication part plot) s = .next t ∧ t.dev.banks = s.dev.banks ∧ t.dev.gangs = s.dev.gangs ∧
      s.Wrote t ea ((List.range 4).flatMap (fun j =>
        leBytes 8 (s.le (ea + 8 * j) 8 - s.le (ea + 8 * j) 8 / 2 ^ 12 % 2 ^ 40 * 2 ^ 12 + b.frame / 2 ^ 12 % 2 ^ 40 * 2 ^ 12))) ∧
      t.dev.plot key = { versions := [{ a with frame := (Mach.of s).leafPlot key }, b], published := 1 } ∧
      (∀ c y, y ∈ (tget .start t.dev.cores c).tlb → y.hits part false (plot % 2 ^ 42 * 2 ^ 14) (2 ^ 14) = false)))

/-- Bind records (R146, R147): a record with a reserved bit or OP is refused; NONE waits for nothing; RESERVE is done;
DRAIN is done on an empty bank; PREEMPT ends a run between two clocks; BIND binds a named member to an empty bank of its partition and is
refused where no hamper holds the task; SAVE writes a settled context to its area (R181), empties the bank and puts the task
back in the die hamper. -/
def Obligations.BindRecordsAreActedOn : Prop :=
  ∀ (b : Nat) (v : BitVec 128) (s : State) (k : Bank), k = tget .empty s.dev.banks b →
    (∀ x ∈ (s.dev.part k.part).deferred, x.1.taskId ≠ k.taskId) →
    (¬ slotOk v → (v.toNat % 16 < 6 → exec (.recNone b v) s = .next (s.setSlot b (slotRecord v 0 2))) ∧
      ∀ x ∈ ([(1, .bind b v), (2, .preempt b v), (3, .reserve b v), (4, .drain b v), (5, .save b v)] : List (Nat × Instr)),
        exec x.2 s = .next (s.setSlot b (slotRecord v x.1 2))) ∧
    (6 ≤ v.toNat % 16 → exec (.recNone b v) s = .next (s.setSlot b (slotRecord v (v.toNat % 16) 2))) ∧
    (slotOk v → ∀ u : State, u = s.withBank b { k with held := none } →
      (v.toNat % 16 < 6 → exec (.recNone b v) s = .next (s.setSlot b (slotRecord v 0 0))) ∧
      exec (.reserve b v) s = .next (u.setSlot b (slotRecord v 3 1)) ∧
      exec (.drain b v) s = .next (u.setSlot b (slotRecord v 4 (if k.status = .empty then 1 else 0))) ∧
      (k.status ≠ .running → exec (.preempt b v) s = .next (u.setSlot b (slotRecord v 2 1))) ∧
      (k.status = .running → k.between = false → exec (.preempt b v) s = .next (u.setSlot b (slotRecord v 2 0))) ∧
      (k.status = .running → k.between = true → ∃ t : State, exec (.preempt b v) s = .next t ∧ t.mem = s.mem ∧
        t.dev.parts = s.dev.parts ∧ t.dev.slotOf b = some (slotRecord v 2 1) ∧
        tget .empty t.dev.banks b = { k.completeWords with
          held := none, status := .ready, why := .none, readyAt := s.dev.nextOrd, traps := [] } ∧
        ∀ c, c ≠ b → c ≠ partner b → tget .empty t.dev.banks c = tget .empty s.dev.banks c) ∧
      (k.status ≠ .empty → exec (.bind b v) s = .next (u.setSlot b (slotRecord v 1 0))) ∧
      (k.status = .empty → (Mach.of s).bindTarget (b / 128) (slotRecord v 1 0).part (slotRecord v 1 0).task = none →
        exec (.bind b v) s = .next (u.setSlot b (slotRecord v 1 2))) ∧
      (∀ h e rank g m, k.status = .empty →
        (Mach.of s).bindTarget (b / 128) (slotRecord v 1 0).part (slotRecord v 1 0).task = some (h, e, rank) → e.saved = none →
        tfind s.dev.gangs e.gang = some g → tfind g.members rank = some m → g.trig = false →
        s.dev.quadOwner (b / 8) = some (slotRecord v 1 0).part → g.placeOk rank b = true → bitOf g.pcapt.toNat 0 = false →
        bitOf g.pcapt.toNat 1 = false →
        ∃ t : State, exec (.bind b v) s = .next t ∧ t.mem = s.mem ∧ t.dev.slotOf b = some (slotRecord v 1 1) ∧
          tget .empty t.dev.banks b = { Bank.empty with
            status := .loading, task := some (g.task rank m.taskId), mbox := g.mailbox rank m.taskId, dispatched := s.dev.nextOrd } ∧
          tfind t.dev.gangs e.gang = some { g with
            members := tput g.members rank { m with loc := .bound b }, stage := if g.stage = .hamper then .bound else g.stage }) ∧
      (∀ x pa, k.status = .ready → k.settled = true → k.task = some x → pa = (slotRecord v 5 0).savePa →
        s.dev.saveAreaOk pa = true → (Mach.of s).writeHeld pa (2 ^ 26) = false →
        ∃ (t : State) (sv : Saved), exec (.save b v) s = .next t ∧ t.dev.slotOf b = some (slotRecord v 5 1) ∧
          tget .empty t.dev.banks b = Bank.empty ∧ tfind t.dev.pkg.saved (pa + s.dev.nextOrd * 2 ^ 52) = some sv ∧ sv.task = x ∧
          sv.mbox = k.mbox ∧ sv.bank.vec = k.vec ∧ sv.bank.mat = k.mat ∧ sv.bank.q = k.q ∧
          (∀ q : Seq, sv.bank.seq q = { k.seq q with code := [], poison := [], waita := none }) ∧
          (∀ a, a < pa ∨ pa + 2 ^ 26 ≤ a → memGet t.mem a = memGet s.mem a) ∧
          t.le pa 4 = 0x4B534156 ∧ t.le (pa + 4) 4 = 1 ∧ t.le (pa + 8) 4 = x.taskId % 2 ^ 32 ∧ t.le (pa + 12) 4 = x.gangId % 2 ^ 32 ∧
          t.le (pa + 16) 4 = x.part % 2 ^ 32 ∧ t.le (pa + 32) 32 = k.mbox.toNat ∧
          (∀ o < 2 ^ 20, memGet t.mem (pa + 0x100000 + o) = (k.vec.lrow (o / 256)).getD (o % 256) 0) ∧
          ∃ z : HampEnt, z.gang = gangKey x.part x.gangId ∧ z.saved = some x.taskId ∧ z.prio = x.prio ∧ z.n = 1 ∧
            z.part = x.part ∧ z.ord = -(s.dev.nextOrd : Int) ∧
            t.dev.hamper (b / 128) = hampInsert z (s.dev.hamper (b / 128))))

/-- RESTORE (R182): once its overlay load is done, the context is loaded over the bank from its area, with the reloaded instruction
memory; an area whose MAGIC, VERSION or DIGEST differs retires the task with ECCU as its load begins, and the record names the PA of
its header. BANK_SWITCH_IN (R34, R46, R173): a ready bank that has settled runs, and a running partner of lower priority comes to
rest first. RANGER_QUANTUM_END (R150): a running bank chosen for the one waiting head comes to rest under a
PREEMPT record, the head is bound to its partner by a BIND record, and PREEMPTS counts it; with no waiting head only the answers to RELINQ are forgotten.
-/
def Obligations.BanksRestoreSwitchAndYieldToHeads : Prop :=
  (
  (∀ (b key pa : Nat) (s : State) (k : Bank) (sv : Saved), k = tget .empty s.dev.banks b → k.savePa = some key →
    tfind s.dev.pkg.saved key = some sv → k.status = .loaded → pa = key % 2 ^ 52 → (Mach.of s).hostHolds pa (2 ^ 26) = false →
    ∃ (t : State) (k' : Bank), exec (.restore b) s = .next t ∧ t.mem = s.mem ∧ k' = tget .empty t.dev.banks b ∧
      (∀ c, c ≠ b → tget .empty t.dev.banks c = tget .empty s.dev.banks c) ∧ tfind t.dev.pkg.saved key = none ∧
      k'.task = some sv.task ∧ k'.mbox = sv.mbox ∧ k'.status = (if sv.bank.status = .loaded then .loaded else .ready) ∧
      (∀ q : Seq, k'.seq q = { sv.bank.seq q with code := (k.seq q).code, poison := (k.seq q).poison }) ∧
      k'.mat = { sv.bank.mat with stationary := k'.mat.stationary, shadow := k'.mat.shadow } ∧ k'.events = sv.bank.events ∧
      k'.copyq = sv.bank.copyq ∧ k'.trails = sv.bank.trails ∧ k'.descs = k.descs ∧ k'.kernels = k.kernels ∧
      (∀ n < 32, ∀ i < 1024, ((k'.vec.tile n).getD i 0).toNat = s.le (pa + 0x30000 + 4096 * n + 4 * i) 4) ∧
      (∀ n < 8, ∀ i < 1024, (k'.vec.mask n).getD i 0 = memGet s.mem (pa + 0x52080 + 1024 * n + i)) ∧
      (∀ o < 2 ^ 20, k'.vec.localByte o = memGet s.mem (pa + 0x100000 + o)) ∧
      (∀ j < 64, (k'.mat.stationary.row j).bytes = (List.range 256).map (fun i => memGet s.mem (pa + 0x20000 + 256 * j + i))) ∧
      (∀ (n i : Nat) (e : QElem), (sv.bank.qelems n)[i]? = some e →
        (k'.qelems n)[i]? = some { e with val := BitVec.ofNat 64 (s.le (pa + 0x6000 + 512 * n + 8 * i) 8) }) ∧
      (tget .start t.dev.cores (b / 2)).l1 = [] ∧ t.dev.parts = s.dev.parts) ∧
  (∀ (b key pa : Nat) (s : State) (k : Bank) (x : Task) (bs : Nat → Nat → List Byte), k = tget .empty s.dev.banks b →
    k.savePa = some key → k.status = .loading → k.why = .none → k.task = some x → pa = key % 2 ^ 52 →
    (Mach.of s).hostHolds pa (2 ^ 26) = false → (∀ a n, bs a n = (List.range n).map (fun i => memGet s.mem (pa + a + i))) →
    (s.le pa 4 ≠ 0x4B534156 ∨ s.le (pa + 4) 4 ≠ 1 ∨ shake256 32 (bs 0x1000 (0x3FF000 + s.le (pa + 24) 8)) ≠ bs 64 32) →
    ∃ (t : State) (k' : Bank) (r : FaultRec), exec (.overlayLoad b) s = .next t ∧ t.mem = s.mem ∧ k' = tget .empty t.dev.banks b ∧
      k'.status = .retiring ∧ k'.failed = some .eccu ∧ tfind t.dev.pkg.saved key = none ∧
      (t.dev.part x.part).records = (s.dev.part x.part).records ++ [r] ∧ r.cause = Cause.eccu.code ∧ r.pa = pa ∧
      r.taskId = x.taskId) ∧
  (∀ (b : Nat) (s : State) (k p : Bank), k = tget .empty s.dev.banks b → p = tget .empty s.dev.banks (partner b) →
    k.status = .ready → k.k.ecalls = [] → s.dev.saving b = false → (Mach.of s).settled b = true →
    (p.status = .empty ∨ p.status = .loading ∨ (p.status = .waiting ∧ (p.why = .parked ∨ (Mach.of s).settled (partner b) = true))) ∨
      (p.status = .running ∧ p.prio < k.prio ∧ k.yielding = false ∧ p.between = true ∧ p.mat.queue = [] ∧
        (Mach.of s).settled (partner b) = true) →
    ∃ t : State, exec (.bankSwitchIn b) s = .next t ∧ t.mem = s.mem ∧ t.dev.parts = s.dev.parts ∧
      tget .empty t.dev.banks b = { k with status := .running, why := .none, phase := .main, slot := .K, yielding := false } ∧
      tget .empty t.dev.banks (partner b) = (if p.status = .running then
        { p.completeWords with status := .ready, why := .none, readyAt := s.dev.nextOrd, traps := [] } else p) ∧
      (∀ c, c ≠ b → c ≠ partner b → tget .empty t.dev.banks c = tget .empty s.dev.banks c) ∧
      (∀ c, c = tget .start s.dev.cores (b / 2) → tget .start t.dev.cores (b / 2) =
        if c.lastPart = some k.part then c else { c with l1 := [], lastPart := some k.part }))) ∧
  (
  (∀ (part : Nat) (s : State), (∀ d < 4, s.dev.partHeads part d = []) →
    (∀ c x, (tget .empty s.dev.banks c).task = some x → s.dev.quadOwner (c / 8) = some part → x.part = part) →
    exec (.rangerQuantumEnd part) s = .next (s.setPart part { s.dev.part part with relinq := [] })) ∧
  (∀ (part die b h : Nat) (s : State) (e : HampEnt) (g : Gang) (m : Member), die < 4 → s.dev.partHeads part die = [(h, e)] →
    (∀ d < 4, d ≠ die → s.dev.partHeads part d = []) → (Mach.of s).victims part e die = [b] → e.saved = none →
    tfind s.dev.gangs e.gang = some g → g.members = [(0, m)] → m.loc = .hamper →
    (tget .empty s.dev.banks (partner b)).status = .empty → (tget .empty s.dev.banks b).status = .running →
    (tget .empty s.dev.banks b).between = true → (∀ p, (s.dev.part p).deferred = []) → part < 16 → m.taskId < 2 ^ 32 →
    (Mach.of s).bindTarget die part m.taskId = some (h, e, 0) →
    bitOf g.pcapt.toNat 0 = false → bitOf g.pcapt.toNat 1 = false → g.part = part →
    (∀ c x, (tget .empty s.dev.banks c).task = some x → s.dev.quadOwner (c / 8) = some part → x.part = part) →
    ∃ t : State, exec (.rangerQuantumEnd part) s = .next t ∧ t.mem = s.mem ∧ (tget .empty t.dev.banks b).status = .ready ∧
      (tget .empty t.dev.banks (partner b)).status = .loading ∧
      (tget .empty t.dev.banks (partner b)).task = some (g.task 0 m.taskId) ∧
      t.dev.hamper h = (s.dev.hamper h).filter (fun x => x != e) ∧
      t.dev.part part = { s.dev.part part with relinq := [], preempts := min ((s.dev.part part).preempts + 1) 0xFFFF }))

/-- Node moves of a graph (R142): a ready TASK node is submitted; a ready JOIN, IF, SWITCH or WHILE node and a skipped
node finish and send arrivals to their lists, done or skip as R142 says of the condition word's value. GRAPH_ACCEPT (R141,
R142): a graph that nothing refuses takes the walker's lowest free place, and exactly its nodes with NPRED 0 are ready.
GRAPH_COMPLETE (R142, R51): a graph with no node ready, no arrival pending and no gang unretired writes its completion
word and leaves its place. -/
def Obligations.GraphsRun : Prop :=
  (
  (∀ (gk n : Nat) (s : State) (g : Graph), tfind s.dev.graphs gk = some g → n < g.nodes.length → (g.at n).loc = .ready →
    (g.node n).kind = 1 → (∀ k h, (k, h) ∈ s.dev.graphs → h.die = g.die → ∀ j < h.nodes.length, (h.at j).loc = .ready →
      (h.node j).kind = 1 → (g.at n).ord ≤ (h.at j).ord) →
    ∃ x : Submission, x.die = g.die ∧ x.part = g.part ∧ x.prov = g.prov ∧ x.addr = (g.node n).addr ∧ x.node = some (gk, n) ∧
      x.queue = false ∧ x.waits = false ∧ x.given = false ∧
      exec (.graphTaskNode gk n) s = .next ((s.graphMoved gk { g with
          st := tput g.st n { g.at n with loc := .running }, nextReady := s.dev.nextOrd }).setDie g.die
        { s.dev.die g.die with submits := (s.dev.die g.die).submits ++ [x] })) ∧
  (∀ (gk n v pick : Nat) (i : Instr) (s : State) (g : Graph) (bs : List Byte) (l0 l1 : List Nat) (done skip : Nat → Nat),
    tfind s.dev.graphs gk = some g → n < g.nodes.length → (g.at n).loc = .ready →
    ((g.node n).kind ≠ 5 → (Mach.of s).ownRead g.part (g.node n).addr 8 = (Mach.of s, .ok bs)) → v = leNat bs →
    l0 = (g.succs.drop (g.node n).s0).take (g.node n).n0 →
    l1 = (g.succs.drop (g.node n).s1).take (g.node n).n1 → l0.length = (g.node n).n0 → pick = min v ((g.node n).n0 - 1) →
    (i = .graphJoinNode gk n ∧ (g.node n).kind = 5 ∧ done = (fun j => l0.count j) ∧ skip = (fun _ => 0)) ∨
      (i = .graphIfNode gk n ∧ (g.node n).kind = 2 ∧ done = (fun j => if v = 0 then l1.count j else l0.count j) ∧
        skip = (fun j => if v = 0 then l0.count j else l1.count j)) ∨
      (i = .graphSwitchNode gk n ∧ (g.node n).kind = 4 ∧ 0 < (g.node n).n0 ∧
        done = (fun j => if l0.getD pick 0 = j then 1 else 0) ∧ skip = (fun j => l0.count j - if l0.getD pick 0 = j then 1 else 0)) ∨
      (i = .graphWhileNode gk n ∧ (g.node n).kind = 3 ∧ v = 0 ∧ done = (fun j => l1.count j) ∧ skip = (fun _ => 0)) →
    ∃ g' : Graph, exec i s = .next (s.graphMoved gk g') ∧ g' = { g with st := g'.st, nextReady := g'.nextReady } ∧
      (n ∉ l0 → n ∉ l1 → (g'.at n).loc = .finished) ∧
      (∀ j, j ≠ n → (g'.at j).dones = (g.at j).dones + done j ∧ (g'.at j).skips = (g.at j).skips + skip j ∧
        (done j + skip j = 0 → g'.at j = g.at j) ∧
        (0 < done j + skip j → (g'.at j).dones + (g'.at j).skips = (g.node j).npred → 0 < (g'.at j).dones →
          (g'.at j).loc = .ready))) ∧
  (∀ (gk n v : Nat) (s : State) (g : Graph) (bs : List Byte) (l0 : List Nat), tfind s.dev.graphs gk = some g → n < g.nodes.length →
    (g.at n).loc = .ready → (g.node n).kind = 3 → (Mach.of s).ownRead g.part (g.node n).addr 8 = (Mach.of s, .ok bs) →
    v = leNat bs → v ≠ 0 → l0 = (g.succs.drop (g.node n).s0).take (g.node n).n0 →
    ∃ g' : Graph, exec (.graphWhileNode gk n) s = .next (s.graphMoved gk g') ∧ g' = { g with st := g'.st, nextReady := g'.nextReady } ∧
      ∀ j, (g'.at j).dones = (if j = n ∨ ((g.node n).bfirst ≤ j ∧ j ≤ (g.node n).blast) then 0 else (g.at j).dones) + l0.count j ∧
        (g'.at j).skips = (if j = n ∨ ((g.node n).bfirst ≤ j ∧ j ≤ (g.node n).blast) then 0 else (g.at j).skips)) ∧
  (∀ (gk n : Nat) (s : State) (g : Graph) (l0 l1 : List Nat), tfind s.dev.graphs gk = some g → n < g.nodes.length →
    (g.at n).loc = .waiting → (g.node n).npred ≠ 0 → (g.at n).dones = 0 → (g.at n).skips = (g.node n).npred →
    l0 = (if (g.node n).kind = 3 then [] else (g.succs.drop (g.node n).s0).take (g.node n).n0) →
    l1 = (g.succs.drop (g.node n).s1).take (g.node n).n1 →
    ∃ g' : Graph, exec (.graphNodeSkip gk n) s = .next (s.graphMoved gk g') ∧ g' = { g with st := g'.st, nextReady := g'.nextReady } ∧
      (g'.at n).dones = 0 ∧ ∀ j, j ≠ n → (g'.at j).dones = (g.at j).dones ∧
        (g'.at j).skips = (g.at j).skips + l0.count j + l1.count j)) ∧
  (
  (∀ (die key : Nat) (s : State) (x : Submission) (hd : GHeader) (g : Graph),
    (s.dev.die die).graphReqs.find? (fun y => !y.waits) = some x → x.die = die → x.queue = true → x.prov = false →
    s.dev.freeGraph die = some key → (s.dev.die die).stopped = false → (Mach.of s).readGraph x = (Mach.of s, some hd, .ok g) →
    ∃ p : Part, p = s.dev.part x.part ∧ exec (.graphAccept die) s = .next (((s.graphMoved key g).setPart x.part
        { p with lq := { p.lq with head := p.lq.head + 1 } }).setDie die
        { s.dev.die die with submits := (s.dev.die die).submits.filter (fun y => y != x),
                             graphReqs := (s.dev.die die).graphReqs.filter (fun y => y != x) }) ∧
      g.die = die ∧ g.part = x.part ∧ g.nodes.length = hd.nnode ∧ g.doneVa = hd.doneVa ∧ x.graph.getD (0, 0) = (g.tag, g.vec) ∧
      key / 16 = die ∧ tfind s.dev.graphs key = none ∧
      ∀ j < g.nodes.length, (g.at j).loc = (if (g.node j).npred = 0 then .ready else .waiting) ∧ (g.at j).dones = 0 ∧
        (g.at j).skips = 0) ∧
  (∀ (gk : Nat) (s : State) (g : Graph) (x : Xlat), tfind s.dev.graphs gk = some g →
    (∀ j < g.nodes.length, (g.at j).loc ≠ .ready ∧ g.skipped j = false) →
    (∀ j h, (j, h) ∈ s.dev.gangs → ∀ n, h.node ≠ some (gk, n)) →
    (∀ j d, (j, d) ∈ s.dev.dies → ∀ y ∈ d.submits, ∀ n, y.node ≠ some (gk, n)) → g.vec = 0 → g.doneVa ≠ 0 →
    (Mach.of s).translateLeaf g.part g.doneVa .write = .ok x → s.ownStore x.pa →
    ∃ t : State, exec (.graphComplete gk) s = .next t ∧ t.dev.graphs = tdel s.dev.graphs gk ∧ (∀ j, s.SameGangs t j) ∧
      t.dev.parts = s.dev.parts ∧ s.Wrote t x.pa (leBytes 8 ((if g.faulted then 3 else 1) + g.tag % 2 ^ 32 * 2 ^ 32))))

/-- FAULT_RECORD_WRITE (R179, R351): the oldest record goes to the slot of its SEQ, HEAD moves on, vector 0 follows where
the ring held none, and a record with ANS awaits its answer; with no room a record that awaits none is lost and OVF counts
it; the fault of a migrating page is never sent to the host, and Ranger keeps its record (R111; its number is the model's, log 99). The fault answer word (R170, R174, R180): CONT for an awaited record of a bank makes it ready, a sequencer with a Hold
trap past its word; RETIRE begins the task's retirement with the record's cause; an answer to no awaited record sets AERR,
and bit 34 clears it. RANGER_PAGE_PLACE (R176): the fault of a page whose migration is over is answered; a
registered page is placed in a free frame and registered no longer, and Ranger answers its fault by the answer word. -/
def Obligations.FaultsAreRecordedAndAnswered : Prop :=
  (
  ∀ (part seq pa : Nat) (s : State) (p : Part) (r : FaultRec) (rs : List FaultRec), p = s.dev.part part → p.records = r :: rs →
    r.vec = none → r.keptBack = false → seq = p.fq.head.toNat → pa = p.fq.base + 64 * (seq % 2 ^ min p.fq.lsize 16) →
    (p.fq.en = true → p.fq.full 16 = false → (Mach.of s).writeHeld pa 64 = false →
        isHostMem pa = true ∨ (isHbm pa = true ∧ (Mach.of s).poisoned pa 64 = none) →
      ∃ t : State, exec (.faultRecordWrite part) s = .next t ∧ s.Wrote t pa (r.bytes seq) ∧ t.le pa 8 = seq ∧
        t.le (pa + 8) 1 = r.cause % 2 ^ 8 ∧ t.le (pa + 9) 1 = r.src % 2 ^ 8 ∧ t.le (pa + 10) 1 = r.access % 2 ^ 8 ∧
        t.le (pa + 11) 1 = r.flags % 2 ^ 8 ∧ t.le (pa + 12) 2 = r.core % 2 ^ 16 ∧ t.le (pa + 16) 4 = r.taskId % 2 ^ 32 ∧
        t.le (pa + 20) 4 = r.pos % 2 ^ 32 ∧ t.le (pa + 24) 8 = r.va % 2 ^ 64 ∧ t.le (pa + 32) 8 = r.pa % 2 ^ 64 ∧
        t.le (pa + 40) 8 = r.detail % 2 ^ 64 ∧ t.le (pa + 48) 4 = r.gangId % 2 ^ 32 ∧
        t.dev.part part = { p with
          hostLines := (t.dev.part part).hostLines, records := rs, fq := { p.fq with head := p.fq.head + 1 },
          msixSent := if p.fq.used = 0 ∧ bitOf p.msixMask 0 = false then p.msixSent ++ [0] else p.msixSent,
          msixPend := if p.fq.used = 0 ∧ bitOf p.msixMask 0 = true then p.msixPend ||| 1 else p.msixPend,
          awaiting := if bitOf r.flags 0 then tput p.awaiting seq r else p.awaiting }) ∧
    (p.fq.en = false ∨ p.fq.full 16 = true → bitOf r.flags 0 = false →
      exec (.faultRecordWrite part) s = .next (s.setPart part
        { p with records := rs, fq := { p.fq with ovf := min (p.fq.ovf + 1) (2 ^ 32 - 1) } }))) ∧
  (∀ (part : Nat) (s : State) (p : Part) (r : FaultRec) (rs : List FaultRec), p = s.dev.part part → p.records = r :: rs →
    bitOf r.flags 0 = true → bitOf r.flags 2 = true → ∃ t : State, exec (.faultRecordWrite part) s = .next t ∧ t.mem = s.mem ∧
      t.dev.part part = { p with records := rs, awaiting := tput p.awaiting (2 ^ 64 + s.dev.nextOrd) r }) ∧
  (
  (∀ (part : Nat) (v : Word) (s : State) (p : Part), p = s.dev.part part → p.awaited (v.toNat % 2 ^ 32) = none →
    exec (.fansCont part v) s = .next (s.setPart part { p with aerr := true }) ∧
    exec (.fansRetire part v) s = .next (s.setPart part { p with aerr := true })) ∧
  (∀ (part : Nat) (v : Word) (s : State),
    exec (.fansAerrClear part v) s = .next (s.setPart part { s.dev.part part with aerr := false })) ∧
  (∀ (part seq b : Nat) (v : Word) (s : State) (p : Part) (r : FaultRec) (k : Bank), p = s.dev.part part →
    p.awaited (v.toNat % 2 ^ 32) = some (seq, r) → v.getLsbD 34 = false → r.submission = none → r.queue = none →
    r.src % 8 ≠ 5 → s.dev.saving b = false → (Mach.of s).bankOf part r.taskId = some b → k = tget .empty s.dev.banks b →
    k.status = .waiting → k.answerSeq ≠ none →
    (∃ (t : State) (k' : Bank), exec (.fansCont part v) s = .next t ∧ t.mem = s.mem ∧
      t.dev.part part = { p with aseq := v.setWidth 32, acode := 1, awaiting := tdel p.awaiting seq } ∧
      k' = tget .empty t.dev.banks b ∧ k'.status = .ready ∧ k'.why = .none ∧ k'.answerSeq = none ∧ k'.task = k.task ∧
      k'.vec = k.vec ∧ k'.mat = k.mat ∧ k'.q = k.q ∧
      (∀ q : Seq, k'.seq q = if q ∈ k.onCont then
        { k.seq q with loops := (loopAdvance (k.seq q).pos (k.seq q).loops).1, pos := (loopAdvance (k.seq q).pos (k.seq q).loops).2 }
        else k.seq q) ∧
      ∀ c, c ≠ b → tget .empty t.dev.banks c = tget .empty s.dev.banks c) ∧
    (∃ (t : State) (k' : Bank) (x : FaultRec), exec (.fansRetire part v) s = .next t ∧ t.mem = s.mem ∧ x = { r with
        flags := 2, bank := none, queue := none, submission := none, vec := none } ∧
      t.dev.part part = { p with aseq := v.setWidth 32, acode := 2, awaiting := tdel p.awaiting seq, records := p.records ++ [x] } ∧
      k' = tget .empty t.dev.banks b ∧ k'.status = .retiring ∧ k'.answerSeq = none ∧ k'.task = k.task ∧
      k'.failed = some (if r.cause = Cause.bkpt.code then .bkpt else .page) ∧ k'.trec1 = word r.va ∧
      k'.trec0 = word (r.cause + r.src * 2 ^ 8 + r.pos * 2 ^ 16) ∧
      ∀ c, c ≠ b → c ≠ partner b → tget .empty t.dev.banks c = tget .empty s.dev.banks c))) ∧
  (
  ∀ (part seq b : Nat) (s : State) (p : Part) (r : FaultRec) (k : Bank), p = s.dev.part part → tfind p.awaiting seq = some r →
    r.submission = none → r.queue = none → r.src % 8 ≠ 5 → s.dev.saving b = false → (Mach.of s).bankOf part r.taskId = some b →
    k = tget .empty s.dev.banks b → k.status = .waiting → k.answerSeq ≠ none →
    (∀ ea e, 2 ^ 64 ≤ seq → bitOf r.flags 2 = true → (Mach.of s).rawLeaf part r.va = some (ea, e) → bitOf e 7 = false →
      ∃ t : State, exec (.rangerPagePlace part seq) s = .next t ∧ t.mem = s.mem ∧
        t.dev.part part = { p with awaiting := tdel p.awaiting seq } ∧ (tget .empty t.dev.banks b).status = .ready ∧
        (tget .empty t.dev.banks b).answerSeq = none) ∧
    (∀ base e f, seq < 2 ^ 64 → p.awaited (seq % 2 ^ 32) = some (seq, r) → bitOf r.flags 2 = false → bitOf r.flags 3 = false → r.cause = Cause.page.code →
      p.registeredPage r.va = some (base, e) →
      (Mach.of s).findFrame part 0 (pageBytes (e / 2 ^ 8 % 2 ^ 4) / 4096) (r.core / 2 ^ 14) = some f →
      (Mach.of s).placeHeld part base e f = false →
      (∀ x ∈ p.awaiting, base ≤ x.2.va → x.2.va < base + pageBytes (e / 2 ^ 8 % 2 ^ 4) → x = (seq, r)) →
      (∀ c x y, (c, x) ∈ s.dev.banks → x.task = some y → y.part = part → y.taskId = r.taskId → c = b) →
      ∃ t : State, exec (.rangerPagePlace part seq) s = .next t ∧
        t.mem = applyWrites s.mem ((Mach.of s).placePage part base e f).writes ∧
        (t.dev.part part).awaiting = tdel p.awaiting seq ∧ (t.dev.part part).aseq = BitVec.ofNat 32 seq ∧
        (t.dev.part part).acode = 1 ∧ (t.dev.part part).registered = tdel p.registered base ∧
        (tget .empty t.dev.banks b).status = .ready ∧ (tget .empty t.dev.banks b).answerSeq = none))

/-- TINV and migrations (R108, R110, R111): TINV drops the TLB entries of its range and no others at once, and walks under way
begin afresh; the end of an epoch starts a migration of a page that another die uses most, and forgets the counts; a migration
first drops the TLB entries of every address of the page, and once the accesses that were translated before are performed copies the
page's bytes; its end writes the new frame into the leaf entries with MIGR 0. -/
def Obligations.PagesMoveAndTlbsForget : Prop :=
  (∀ (part lo len : Nat) (whole : Bool) (s : State),
    ∃ t : State, exec (.tinv part whole lo len) s = .next t ∧ t.mem = s.mem ∧
      t.dev = { s.dev with cores := t.dev.cores, banks := t.dev.banks } ∧
      (∀ b k, tfind t.dev.banks b = some k ↔ ∃ j, tfind s.dev.banks b = some j ∧
        k = if j.part = part then j.mapSeqs (fun _ q => { q with walk := none }) else j) ∧
      ∀ c e, (e ∈ (tget .start t.dev.cores c).tlb ↔ e ∈ (tget .start s.dev.cores c).tlb ∧ ¬ (e.part = part ∧
          (whole = true ∨ (e.vbase < lo + len ∧ lo < e.vbase + pageBytes e.size)))) ∧
        (e ∈ (tget .start t.dev.cores c).utlb ↔ e ∈ (tget .start s.dev.cores c).utlb ∧ ¬ (e.part = part ∧
          (whole = true ∨ (e.vbase < lo + len ∧ lo < e.vbase + pageBytes e.size)))) ∧
        ((tget .start s.dev.cores c).lastPart = some part → (tget .start t.dev.cores c).l1 = [])) ∧
  (∀ (die part dest f : Nat) (s : State) (d : Die) (g : Page), d = s.dev.die die →
    (d.hen = false ∨ d.stopped = true → exec (.hotPageEpochEnd die) s = .next (s.setDie die { d with counts := [] })) ∧
    (d.hen = true → d.stopped = false → (Mach.of s).countedPages die = [(part, g)] → hbmDie g.frame = die → bitOf g.e 7 = false →
      (Mach.of s).startHeld part g = false →
      d.hotFor die g = some dest → g.size ≠ 0 →
      (bitOf g.e 5 = true → exec (.hotPageEpochEnd die) s =
        .next (s.setDie die { d with counts := [], pinhot := min (d.pinhot + 1) 0xFFFF })) ∧
      (bitOf g.e 5 = false → bitOf g.e 6 = false → s.dev.versioned part g = false →
        (Mach.of s).freeRun part 0 (pageBytes g.size / 4096) dest = some f → d.migrations.length < 64 →
        ∃ (t : State) (x : Migration), exec (.hotPageEpochEnd die) s = .next t ∧ x.part = part ∧ x.vas = g.vas ∧ x.size = g.size ∧
          x.src = g.frame ∧ x.dst = f ∧ x.leaves = g.leaves ∧ x.flushed = false ∧ x.copied = false ∧ x.forResize = false ∧
          t.dev.die die = { d with counts := [], migrations := d.migrations ++ [x] }))) ∧
  (∀ (die n : Nat) (s : State) (d : Die) (g : Migration), d = s.dev.die die → n = pageBytes g.size →
    d.migrations.find? (fun x => !x.copied) = some g →
    (g.flushed = false → ∃ t : State, exec (.migration die) s = .next t ∧ t.mem = s.mem ∧ t.dev.parts = s.dev.parts ∧
      t.dev.die die = { d with migrations := d.migrations.map (fun x => if x = g then { x with flushed := true } else x) } ∧
      ∀ c e, e ∈ (tget .start t.dev.cores c).tlb → e.part = g.part → ∀ va ∈ g.vas,
        ¬ (e.vbase < va + n ∧ va < e.vbase + pageBytes e.size)) ∧
    (g.flushed = true → s.dev.pendingAt g.src n = true → exec (.migration die) s = .next s) ∧
    (g.flushed = true → s.dev.pendingAt g.src n = false → (Mach.of s).hostHolds g.src n = false → (Mach.of s).hostHolds g.dst n = false →
      (Mach.of s).copyHeld g.part g.src g.dst = false →
      ∃ t : State, exec (.migration die) s = .next t ∧ s.Wrote t g.dst ((List.range n).map (fun i => memGet s.mem (g.src + i))) ∧
        t.dev.die die = { d with migrations := d.migrations.map (fun x => if x = g then { x with copied := true } else x) } ∧
        t.dev.banks = s.dev.banks ∧ t.dev.parts = s.dev.parts ∧ t.dev.cores = s.dev.cores)) ∧
  (∀ (die ea n : Nat) (e e' : Nat → Nat) (s : State) (d : Die) (g : Migration), d = s.dev.die die → d.migrations.find? (fun x => x.copied) = some g →
    g.leaves = (List.range n).map (fun j => ea + 8 * j) → (∀ j, e j = s.le (ea + 8 * j) 8) →
    (∀ j, e' j = if bitOf (e j) 7 then e j - 128 else e j) → (s.dev.part g.part).fmapb = 0 →
    s.dev.watchesIn g.src (pageBytes g.size) = [] → (∀ j k, (j, k) ∈ s.dev.banks → k.k.waita = none) →
    (s.dev.part g.part).awaiting = [] → s.dev.pkg.leaving = [] → (Mach.of s).leavesHeld g.leaves = false →
    (Mach.of s).mapsHeld g.part = false → (∀ j < n, isHostMem (ea + 8 * j) = false) →
    ∃ t : State, exec (.migrationComplete die) s = .next t ∧
      s.Wrote t ea ((List.range n).flatMap (fun j =>
        leBytes 8 (e' j - e' j / 2 ^ 12 % 2 ^ 40 * 2 ^ 12 + g.dst / 2 ^ 12 % 2 ^ 40 * 2 ^ 12))) ∧
      t.dev = (s.setDie die { d with
        migrations := d.migrations.filter (fun x => x != g),
        migs := if g.forResize then d.migs else (d.migs + 1) % 2 ^ 32 }).dev)

/-- Frame requests and resizes (R113, R353, R355): GIVE sets and TAKE clears the bits of the frames named in the map
whose base stood when the request began, or the request is refused, or it waits while the host holds a line of the map (R342); a GO
is refused where R355 says so, and a resize that adds quads and groups alone ends at once. Writes of provider words (R346, R347,
R350, R353, R358, R360): each changes the word at its offset alone; an unaligned offset changes nothing, and a port with no trained
module carries nothing (R343). Reads: each gives the word at its offset, and 0 where there is none (R346). The end of a cap window
gives every partition its credit on the link again (R354). -/
def Obligations.FramesResizesAndProviderWords : Prop :=
  (
  (∀ (give : Bool) (part n base pa : Nat) (v w : Word) (i : Instr) (s : State) (p q : Part), p = s.dev.part part →
    i = (if give then .freqGive part v else .freqTake part v) →
    w = (if p.fbusy then p.freq else if give then v &&& 0x000FFFFFFFFFF0F2 else v &&& 0x000FFFFFFFFFF0F2 ||| 1) →
    w.getLsbD 0 = !give → n = pageBytes (w.toNat / 2 ^ 4 % 2 ^ 4) / 4096 →
    base = (if p.fbusy then p.fbase else if w.getLsbD 1 then p.vmapb else p.fmapb) →
    pa = w.toNat / 2 ^ 12 % 2 ^ 40 * 4096 → q = { p with freq := w, fbusy := true, fbase := base } →
    (base ≠ 0 → (Mach.of s).hostHolds base 0x1800000 = true → exec i s = .next (if p.fbusy then s else s.setPart part q)) ∧
    ((base ≠ 0 → (Mach.of s).hostHolds base 0x1800000 = false) →
      ((Mach.of (s.setPart part q)).freqRefused part w.toNat = true →
        exec i s = .next (s.setPart part { q with fbusy := false, fres := 2 })) ∧
      ((Mach.of (s.setPart part q)).freqRefused part w.toNat = false → s.dev.pkg.poison = [] →
        ∃ t : State, exec i s = .next t ∧
          t.dev.part part = { q with fbusy := false, fres := 1, hostLines := (t.dev.part part).hostLines } ∧
          (∀ j < n, (Mach.of t).mapBit base (pa + 4096 * j) = give) ∧
          (∀ a, (∀ j < n, a ≠ base + (pa + 4096 * j) / 2 ^ 15 % 2 ^ 25) → memGet t.mem a = memGet s.mem a)))) ∧
  (∀ (part : Nat) (s : State) (p : Part), p = s.dev.part part → p.rbusy = false →
    (s.dev.resizeRefused part = true → exec (.resizeGo part) s = .next (s.setPart part { p with rres := 2 })) ∧
    (s.dev.resizeRefused part = false → p.staged.slices = p.current.slices →
      (∀ j < 192, bitOf p.current.groups j = true → bitOf p.staged.groups j = true) →
      (∀ j < 64, bitOf p.current.quads j = true → bitOf p.staged.quads j = true) →
      (∀ j d, (j, d) ∈ s.dev.dies → ∀ g ∈ d.migrations, g.part ≠ part) →
      exec (.resizeGo part) s = .next (s.setPart part
        { p with current := p.staged, target := p.staged, rbusy := false, rres := 1, rstep := 0 })))) ∧
  (
  (∀ (off : Nat) (v : Word) (s : State), off % 8 ≠ 0 ∨ s.dev.pkg.mup = 0 → exec (.providerWordWrite off v) s = .next s) ∧
  (∀ (n : Nat) (v : Word) (s : State), n < 256 → s.dev.pkg.mup ≠ 0 → exec (.providerWordWrite (0x800 + 8 * n) v) s =
    .next (s.setPkg { s.dev.pkg with nodes := tput s.dev.pkg.nodes n (v &&& 0x0000FFFFFFFFFFFF) })) ∧
  (∀ (part base : Nat) (v : Word) (s : State) (p : Part), part < 16 → s.dev.pkg.mup ≠ 0 → p = s.dev.part part →
    base = 0x100000 + part * 0x1000 →
    exec (.providerWordWrite (base + 0x800) v) s =
      .next (s.setPart part { p with staged := { p.staged with quads := v.toNat } }) ∧
    exec (.providerWordWrite (base + 0x808) v) s =
      .next (s.setPart part { p with staged := { p.staged with slices := v.toNat % 2 ^ 40 } }) ∧
    exec (.providerWordWrite (base + 0x828) v) s = .next (s.setPart part { p with
      hcap := v.toNat % 2 ^ 8, dcap := v.toNat / 2 ^ 8 % 2 ^ 8, xcap := v.toNat / 2 ^ 16 % 2 ^ 8 }) ∧
    exec (.providerWordWrite (base + 0x838) v) s = .next (s.setPart part { p with pexp := v.toNat % 2 ^ 56 }) ∧
    exec (.providerWordWrite (base + 0x50) v) s = .next (s.setPart part { p with lq := p.lq.writeTail (v.toNat % 2 ^ 32) }) ∧
    exec (.providerWordWrite (base + 0xC10) v) s = .next (s.setPart part { p with plq := p.plq.writeTail (v.toNat % 2 ^ 32) }) ∧
    exec (.providerWordWrite (base + 0x70) v) s =
      .next (s.setPart part { p with fq := { p.fq with tail := v.setWidth 32 } })) ∧
  (∀ (off : Nat) (s : State), s.dev.pkg.mup ≠ 0 → ∃ t : State, readWordTurn off s = .next t ∧ t.mem = s.mem ∧
    t.dev.parts = s.dev.parts ∧ t.dev.banks = s.dev.banks ∧
    t.dev.pkg = { s.dev.pkg with hostReply := leBytes 8 ((Mach.of s).providerRead off).2.toNat, hostPoison := false,
                                 unsupported := false }) ∧
  (∀ (n part base : Nat) (s : State) (p : Part), n < 256 → part < 16 → p = s.dev.part part → base = 0x100000 + part * 0x1000 →
    ((Mach.of s).providerRead (0x800 + 8 * n)).2 = tget 0 s.dev.pkg.nodes n ∧
    ((Mach.of s).providerRead (base + 0x48)).2 = p.lq.ctl ∧
    ((Mach.of s).providerRead (base + 0x50)).2 = p.lq.tail.setWidth 64 ∧
    ((Mach.of s).providerRead (base + 0x838)).2 = word p.pexp ∧
    ((Mach.of s).providerRead (base + 0xF00)).2 = 0 ∧ ((Mach.of s).providerRead 0x1000).2 = 0) ∧
  (∀ (link : Nat) (s : State), ∃ t : State, exec (.capWindowEnd link) s = .next t ∧ t.mem = s.mem ∧
    t.dev = (s.setPkg { s.dev.pkg with links := t.dev.pkg.links }).dev ∧ (∀ part, t.dev.pkg.slotsUsed link part = 0) ∧
    ∀ l part, l ≠ link → t.dev.pkg.slotsUsed l part = s.dev.pkg.slotsUsed l part))

/-- The host (R109, R118, R342 to R345, R352): a read of the HDM range is answered with memory's bytes and the host may then hold
the lines; a write changes those bytes and no others and gives the lines up, and waits while an atomic is half performed there
(R128); a snoop is answered with a held line, filled where it lacks bytes (R96), which an invalidating one takes away; a dirty line
that is written back puts its changed bytes in memory and takes the copies of other Lists under CXL.cache away (R94), and waits for
the port and the partition's credit on it (R354); an unmasked vector that is pending is sent where the VF is enabled. A port with no
trained module carries nothing. -/
def Obligations.HostReachesTheDevice : Prop :=
  (∀ (s : State) (addr n part line : Nat) (bs : List Byte) (inv : Bool), s.dev.pkg.mup = 0 →
    ∀ i ∈ ([.hostMemRead addr n, .hostMemWrite addr bs, .hostSnoop addr inv, .backInvalidateAnswer line, .msixUnmask part n] : List Instr),
      exec i s = .next s) ∧
  (∀ (addr n pa : Nat) (s : State) (p : Pkg), p = s.dev.pkg → p.mup ≠ 0 → p.hdmBase ≤ addr →
    addr + n ≤ p.hdmBase + 768 * 2 ^ 30 → pa = addr - p.hdmBase → ∃ held : List Nat,
      (∀ l, l ∈ held ↔ l ∈ p.hostHeld ∨ (pa / 64 ≤ l ∧ l < (pa + n + 63) / 64)) ∧
      exec (.hostMemRead addr n) s = .next (s.setPkg { p with
        hostReply := (List.range n).map (fun i => memGet s.mem (pa + i)), hostPoison := ((Mach.of s).poisoned pa n).isSome,
        unsupported := false, hostHeld := held })) ∧
  (∀ (addr n : Nat) (bs : List Byte) (s : State), addr < s.dev.pkg.hdmBase ∨ s.dev.pkg.hdmBase + 768 * 2 ^ 30 < addr + n → bs.length = n →
    exec (.hostMemRead addr n) s = .next s ∧ exec (.hostMemWrite addr bs) s = .next s) ∧
  (∀ (addr pa : Nat) (bs : List Byte) (s : State) (p : Pkg), p = s.dev.pkg → p.mup ≠ 0 → p.hdmBase ≤ addr →
    addr + bs.length ≤ p.hdmBase + 768 * 2 ^ 30 → pa = addr - p.hdmBase →
    ((Mach.of s).halfDone pa bs.length = true → exec (.hostMemWrite addr bs) s = .next s) ∧
    ((Mach.of s).halfDone pa bs.length = false → p.poison = [] →
      ∃ t : State, exec (.hostMemWrite addr bs) s = .next t ∧ s.Wrote t pa bs ∧ t.dev.parts = s.dev.parts ∧ t.dev.cores = s.dev.cores ∧
        ∀ l, l ∈ t.dev.pkg.hostHeld ↔ l ∈ p.hostHeld ∧ ¬ (pa / 64 ≤ l ∧ l < (pa + bs.length + 63) / 64))) ∧
  (∀ (addr line : Nat) (inv : Bool) (s : State), line = (3 * 2 ^ 50 + addr % 2 ^ 50) / 64 → s.dev.pkg.mup ≠ 0 →
    (s.dev.cacheHolders line = [] → exec (.hostSnoop addr inv) s =
      .next (s.setPkg { s.dev.pkg with hostReply := [], hostPoison := false, unsupported := false })) ∧
    (∀ o os l, s.dev.cacheHolders line = o :: os → tfind (s.dev.part o).hostLines line = some l →
      ∃ t : State, exec (.hostSnoop addr inv) s = .next t ∧ t.mem = s.mem ∧ t.dev.banks = s.dev.banks ∧
        t.dev.pkg = { s.dev.pkg with hostReply := (l.fill (Mach.of s) line 0 64).data, hostPoison := false, unsupported := false } ∧
        ∀ p, (t.dev.part p).hostLines =
          if inv = true ∧ p ∈ o :: os then tdel (s.dev.part p).hostLines line else (s.dev.part p).hostLines)) ∧
  (∀ (line : Nat) (s : State), s.dev.pkg.mup ≠ 0 → exec (.backInvalidateAnswer line) s = .next (s.setPkg { s.dev.pkg with
    hostHeld := s.dev.pkg.hostHeld.filter (fun l => l != line) })) ∧
  (∀ (part line owner : Nat) (s : State) (p : Part) (l : HostLine), owner = (if part < 16 then s.dev.lineOwner (some part) else 16) →
    p = s.dev.part owner → tfind p.hostLines line = some l →
    (true ∉ l.dirty → exec (.lineWriteback part line) s = .next (s.setPart owner { p with hostLines := tdel p.hostLines line })) ∧
    (true ∈ l.dirty → s.dev.pkg.mup = 0 ∨ (part < 16 ∧ s.dev.hasCredit hostLink part 1 = false) →
      exec (.lineWriteback part line) s = .next s) ∧
    (true ∈ l.dirty → s.dev.pkg.mup ≠ 0 → (part < 16 → s.dev.hasCredit hostLink part 1 = true) →
      ∃ t : State, exec (.lineWriteback part line) s = .next t ∧
        t.dev = { s.dev with parts := t.dev.parts, banks := t.dev.banks,
                             pkg := if part < 16 then s.dev.pkg.useSlots hostLink part 1 else s.dev.pkg } ∧
        t.dev.part owner = { p with hostLines := tput p.hostLines line { l with dirty := List.replicate 64 false, writers := [] } } ∧
        (∀ o, o ≠ owner → ∀ n x, (n, x) ∈ (t.dev.part o).hostLines ↔
          (n, x) ∈ (s.dev.part o).hostLines ∧ ((n = line ∧ x.ca = 2) → ∀ i < 64, l.dirty.getD i false = false)) ∧
        ∀ a, memGet t.mem a = if line * 64 ≤ a ∧ a < line * 64 + 64 ∧ l.dirty.getD (a - line * 64) false = true
          then l.data.getD (a - line * 64) 0 else memGet s.mem a)) ∧
  (∀ (part v : Nat) (s : State) (p : Part), p = s.dev.part part →
    (s.dev.vfOn part = false → exec (.msixUnmask part v) s = .next s) ∧
    (s.dev.vfOn part = true → s.dev.pkg.mup ≠ 0 → exec (.msixUnmask part v) s = .next (s.setPart part { p with
      msixMask := if bitOf p.msixMask v then p.msixMask - 2 ^ v else p.msixMask,
      msixPend := if bitOf p.msixPend v then p.msixPend - 2 ^ v else p.msixPend,
      msixSent := if bitOf p.msixPend v then p.msixSent ++ [v] else p.msixSent })))

/-- Inbound requests (R357, R360): a flit that is next in order on a port that is up is acted on, and any other only
brings its ACK; a request waits at the port while its partition has no credit for the response (R354); one that fails R360's checks
gets an error response; a read gets the bytes, a write puts its bytes in memory, and ATOM and RED read, modify and write at once,
each with a response of the request's TAG to its sender. Responses to requests of the device's own (R360, R361): read data goes to
the load or the ATOM that awaits it, a write that is done leaves its queue and STC, an error retires the task with PROT; a retry
sends the unacknowledged flits again (R357). -/
def Obligations.PeersAreServedAndAnswered : Prop :=
  (
  ∀ (f : Flit) (s : State) (port : Port) (fromP : List Flit), port = tget .start s.dev.pkg.ports f.port → port.up = true →
    fromP = port.out.filter (fun g => !ackedBy f.ack g.seq) →
    (f.seq % 4096 ≠ (port.lastIn + 1) % 4096 →
      ∀ i ∈ ([.peerRead f, .peerWrite f, .peerAtom f, .peerRed f, .peerReadData f, .peerWriteDone f, .peerError f] : List Instr),
        exec i s = .next (s.setPkg { s.dev.pkg with ports := tput s.dev.pkg.ports f.port { port with out := fromP } })) ∧
    exec (.peerAckFlit f) s = .next (s.setPkg { s.dev.pkg with ports := tput s.dev.pkg.ports f.port { port with out := fromP } }) ∧
    (f.seq % 4096 = (port.lastIn + 1) % 4096 → s.dev.hasCredit (s.dev.pkg.replyPort f) f.part 1 = false →
      exec (.peerRead f) s = .next s ∧ exec (.peerWrite f) s = .next s) ∧
    (f.seq % 4096 = (port.lastIn + 1) % 4096 → s.dev.hasCredit (s.dev.pkg.replyPort f) f.part 1 = true → ∀ answered : State → Nat → List Byte → Prop,
      (∀ t opc bs, answered t opc bs ↔ ∃ (g : Flit) (p : Port), p = tget .start t.dev.pkg.ports g.port ∧ p.out.getLast? = some g ∧ g.opc = opc ∧
        g.part = f.part ∧ g.srcn = f.dstn ∧ g.dstn = f.srcn ∧ g.tag = f.tag ∧ g.size = f.size ∧ g.data = bs ∧
        (tget .start t.dev.pkg.ports f.port).lastIn = f.seq % 4096) →
      (∀ x ∈ ([(.peerRead f, .read), (.peerWrite f, .write)] : List (Instr × Kind)), (Mach.of s).inbound f x.2 = none →
        ∃ t : State, exec x.1 s = .next t ∧ t.mem = s.mem ∧ answered t 7 []) ∧
      (∀ pa n, flitBytes f = some n →
        ((Mach.of s).inbound f .read = some [(pa, n)] → (Mach.of s).hostHolds pa n = false → (Mach.of s).poisoned pa n = none →
          ∃ t : State, exec (.peerRead f) s = .next t ∧ t.mem = s.mem ∧ t.dev = { s.dev with pkg := t.dev.pkg } ∧
            answered t 5 ((List.range n).map (fun i => memGet s.mem (pa + i)))) ∧
        ((Mach.of s).inbound f .write = some [(pa, n)] → (Mach.of s).writeHeld pa n = false → (Mach.of s).poisoned pa n = none →
          ∃ t : State, exec (.peerWrite f) s = .next t ∧ t.dev.parts = s.dev.parts ∧ answered t 6 [] ∧
            s.Wrote t pa ((List.range n).map (fun i => f.data.getD i 0))) ∧
        ((Mach.of s).inbound f .atomic = some [(pa, n)] → (Mach.of s).writeHeld pa n = false → (Mach.of s).poisoned pa n = none →
          n = 4 ∨ n = 8 → ∀ new,
          new = atomNew f.fn n (s.le pa n) (leNat (f.data.take 8)) (leNat ((f.data.drop 8).take 8)) →
          (f.fn ≤ 9 → ∃ t : State, exec (.peerAtom f) s = .next t ∧ s.Wrote t pa (leBytes n new) ∧
            answered t 5 ((List.range n).map (fun i => memGet s.mem (pa + i)))) ∧
          (f.fn ≤ 7 → ∃ t : State, exec (.peerRed f) s = .next t ∧ s.Wrote t pa (leBytes n new) ∧ answered t 6 []))))) ∧
  (
  (∀ (f : Flit) (s : State) (port : Port) (r : PeerReq) (b : Nat) (q : Seq) (k : Bank) (a : Acc),
    port = tget .start s.dev.pkg.ports f.port → port.up = true → f.seq % 4096 = (port.lastIn + 1) % 4096 →
    s.dev.pkg.requestOf f = some r → r.unit = q.idx → (Mach.of s).bankOf r.part r.task = some b → k = tget .empty s.dev.banks b →
    (k.seq q).accs.find? (fun x => x.id == r.id && x.sent) = some a → (∀ x ∈ k.k.accs, x.kind ≠ .rmark) →
    (∀ x ∈ (k.seq q).accs, x.kind.isFence = false) → s.uncaptured b = true → k.status = .running →
    (a.kind = .load → a.n ≤ 8 → a.signed = false → 0 < a.dst → a.dst < 32 → r.len = a.n →
      ∃ (t : State) (k' : Bank), exec (.peerReadData f) s = .next t ∧ t.mem = s.mem ∧ k' = tget .empty t.dev.banks b ∧
        tget 0 (k'.seq q).g a.dst = word (leNat ((List.range a.n).map (fun i => f.data.getD (r.skip + i) 0))) ∧
        k'.ldc = k.ldc - 1 ∧ k'.stc = k.stc ∧ (k'.seq q).accs = (k.seq q).accs.filter (fun x => x.id != a.id) ∧
        (k'.seq q).awaits = (k.seq q).awaits.filter (fun p => p.2 != a.id) ∧ k'.vec = k.vec ∧
        t.dev.pkg.reqs = s.dev.pkg.reqs.filter (fun x => x != r) ∧
        (tget .start t.dev.pkg.ports f.port).lastIn = f.seq % 4096) ∧
    (a.kind = .atom → 0 < a.dst → a.dst < 32 → r.len = a.n →
      ∃ (t : State) (k' : Bank), exec (.peerReadData f) s = .next t ∧ t.mem = s.mem ∧ k' = tget .empty t.dev.banks b ∧
        tget 0 (k'.seq q).g a.dst = word (leNat ((List.range a.n).map (fun i => f.data.getD (r.skip + i) 0))) ∧
        k'.ldc = k.ldc - 1 ∧ k'.stc = (if a.sc = 5 then k.stc - 1 else k.stc) ∧
        (k'.seq q).accs = (k.seq q).accs.filter (fun x => x.id != a.id) ∧
        (k'.seq q).awaits = (k.seq q).awaits.filter (fun p => p.2 != a.id) ∧ k'.vec = k.vec) ∧
    (a.kind = .store → ∃ (t : State) (k' : Bank), exec (.peerWriteDone f) s = .next t ∧ t.mem = s.mem ∧
        k' = tget .empty t.dev.banks b ∧ k'.stc = k.stc - 1 ∧ k'.ldc = k.ldc ∧
        (k'.seq q).accs = (k.seq q).accs.filter (fun x => x.id != r.id) ∧ (k'.seq q).g = (k.seq q).g ∧ k'.vec = k.vec ∧
        t.dev.pkg.reqs = s.dev.pkg.reqs.filter (fun x => x != r)) ∧
    (∃ (t : State) (k' : Bank) (x : FaultRec), exec (.peerError f) s = .next t ∧ t.mem = s.mem ∧ k' = tget .empty t.dev.banks b ∧
        k'.status = .retiring ∧ k'.failed = some .prot ∧ (t.dev.part k.part).records = (s.dev.part k.part).records ++ [x] ∧
        x.cause = Cause.prot.code ∧ x.src = q.idx ∧ x.va = r.va ∧ x.pa = r.pa ∧ x.pos = r.pos ∧ x.flags = 2 ∧
        x.access = (if r.opc = 1 then 0 else if r.opc = 2 then 1 else 2) ∧
        t.dev.pkg.reqs = s.dev.pkg.reqs.filter (fun x => x != r))) ∧
  (∀ (n : Nat) (s : State) (p : Port), p = tget .start s.dev.pkg.ports n →
    exec (.flitRetry n) s = .next (s.setPkg { s.dev.pkg with ports := tput s.dev.pkg.ports n { p with resent := p.resent + 1 } })))

/-- Uncorrectable data (R175) begins the retirement of the task with ECCU, and its record names the reading word's
sequencer and position with what it did, or SRC 4 for an engine with its queue (R179). DIE_STOP (R364): every task on the die's banks begins to retire with ECCU,
its hampers are emptied, its graphs complete FAULTED, and every partition that owned a quad there has a record; a die that
has stopped stays as it is. -/
def Obligations.FailuresRetireWork : Prop :=
  (
  (∀ (b unit pos : Nat) (pa : Nat) (s : State) (k : Bank) (src p va acc : Nat), k = tget .empty s.dev.banks b →
    k.status ≠ .empty → k.status ≠ .retiring →
    (4 ≤ unit ∧ src = 4 ∧ p = 0 ∧ va = 0 ∧ acc = (if unit < 8 then unit - 4 else unit - 8) % 16 * 16) ∨
      (∃ a, unit < 4 ∧ (k.seq (Seq.ofIdx unit)).accAt pos = some a ∧ src = unit ∧ p = pos ∧ va = a.va ∧ acc = a.kind.access.code ∧
        ∀ x ∈ k.k.accs, x.kind ≠ .rmark) →
    ∃ (t : State) (k' : Bank) (r : FaultRec), exec (.eccuDataDelivery b unit pos (some pa)) s = .next t ∧ t.mem = s.mem ∧
      k' = tget .empty t.dev.banks b ∧ k'.status = .retiring ∧ k'.failed = some .eccu ∧ k'.task = k.task ∧
      k'.trec0 = word (Cause.eccu.code + src * 2 ^ 8 + p * 2 ^ 16) ∧ k'.trec1 = word va ∧
      (t.dev.part k.part).records = (s.dev.part k.part).records ++ [r] ∧ r.cause = Cause.eccu.code ∧ r.src = src ∧ r.flags = 18 ∧
      r.pos = p ∧ r.va = va ∧ r.pa = pa ∧ r.access = acc ∧ r.core = coreId b ∧ r.taskId = k.taskId ∧
      ∀ c, c ≠ b → c ≠ partner b → tget .empty t.dev.banks c = tget .empty s.dev.banks c)) ∧
  (
  ∀ (die unit : Nat) (pa : Option Nat) (s : State),
    ((s.dev.die die).stopped = true → exec (.dieStop die unit pa) s = .next s) ∧
    ((s.dev.die die).stopped = false → ∃ t : State, exec (.dieStop die unit pa) s = .next t ∧ (t.dev.die die).stopped = true ∧
      (∀ i k, i < 128 → k = tget .empty s.dev.banks (128 * die + i) → k.status ≠ .empty →
        (tget .empty t.dev.banks (128 * die + i)).status = .retiring) ∧
      (∀ i k, i < 128 → k = tget .empty s.dev.banks (128 * die + i) → k.status ≠ .empty → k.status ≠ .retiring →
        (tget .empty t.dev.banks (128 * die + i)).failed = some .eccu) ∧
      t.dev.entriesOn die = [] ∧
      (∀ gk g, tfind t.dev.graphs gk = some g → g.die = die → g.faulted = true ∧ g.nodes = []) ∧
      (∀ p < 16, s.dev.ownsQuadOn p die = true → ∃ (rs : List FaultRec) (r : FaultRec), (t.dev.part p).records = rs ++ [r] ∧
        r.cause = Cause.eccu.code ∧ r.src = 7 ∧ r.flags = 18 ∧ r.core = die * 2 ^ 14 ∧ r.va = 0 ∧ r.pa = pa.getD 0 ∧
        r.detail = unit)))

/-- Test and repair, attestation, bring-up (R365, R366, R372 to R376): a failing row takes the lowest free spare; GO
starts a report, which is written with its signature and sets DONE; RESET leaves every word at its reset value, clears HBM
of the trained stacks, and stops at step 1 or 2 where the identity or the configuration image fails. -/
def Obligations.BringUpAndRepairs : Prop :=
  (∀ (stack pch bank row i : Nat) (s : State) (p : Pkg), p = s.dev.pkg → p.leaving = [] →
    (bitOf p.excluded stack = true ∨ (∃ part < 16, (Mach.of s).mapsHeld part = true) →
      ∀ found, exec (.bistBankTest stack pch bank found) s = .next s) ∧
    (bitOf p.excluded stack = false → (∀ part < 16, (Mach.of s).mapsHeld part = false) →
      (p.rowKnown stack pch bank (row % 2 ^ 18) = true → exec (.bistBankTest stack pch bank { fails := [row], bad := [] }) s = .next s) ∧
      (p.rowKnown stack pch bank (row % 2 ^ 18) = false → p.freeSpare stack pch bank = some i →
        ∃ r : Repair, r = { stack := stack, pch := pch, bank := bank, spare := i, row := row % 2 ^ 18 } ∧
          exec (.bistBankTest stack pch bank { fails := [row], bad := [] }) s = .next (s.setPkg { p with repairs := p.repairs ++ [r] })) ∧
      (∀ sector < 2 ^ 35, isHbm (sector * 32) = true → sector / 2 ^ 31 = stack → pchOf (sector * 32) = pch → sector ∉ p.poison →
        exec (.bistBankTest stack pch bank { fails := [], bad := [sector] }) s = .next (s.setPkg { p with poison := p.poison ++ [sector] })))) ∧
  (∀ (v : Word) (s : State) (p : Pkg), p = s.dev.pkg → p.agoBusy = false → v.getLsbD 0 = true →
    exec (.attestRequest v) s = .next (s.setPkg { p with
      adone := p.adone && !v.getLsbD 2, agoBusy := true, abuf := v.toNat / 2 ^ 6 % 2 ^ 46 * 64,
      nonce := (List.range 32).map (fun i => (Mach.of s).homeByte none (v.toNat / 2 ^ 6 % 2 ^ 46 * 64 + 8 + i)) })) ∧
  (∀ (s : State) (p : Pkg), p = s.dev.pkg →
    (p.agoBusy = false → exec .attestDone s = .next s) ∧
    (p.agoBusy = true → p.poison = [] → (Mach.of s).hostHolds p.abuf (352 + sigBytes) = false →
      ∃ t : State, exec .attestDone s = .next t ∧ t.dev.pkg = { p with agoBusy := false, adone := true } ∧
        s.Wrote t p.abuf (s.dev.report ++
          slhSign deviceKey s.dev.report ((List.range 32).map (Config.signNoise s.dev.ticks))))) ∧
  (∀ (s : State) (b : Board), b = s.dev.pkg.board → ∃ t : State, exec .reset s = .next t ∧
    t.dev = { Dev.start b with pkg := t.dev.pkg, agenda := s.dev.agenda, ticks := s.dev.ticks } ∧ t.dev.pkg.board = b ∧
    (b.pufOk = false → t.mem = s.mem ∧ t.dev.stoppedDevice = true ∧
      t.dev.pkg = { Pkg.start b with mup := b.modulesOk % 16, err := 1 }) ∧
    (b.pufOk = true → imageOk b.rootDigest 1 0 b.config = false → t.mem = s.mem ∧ t.dev.stoppedDevice = true ∧
      t.dev.pkg = { Pkg.start b with mup := b.modulesOk % 16, stage := 1, err := 2, devid := deviceId }) ∧
    (b.pufOk = true → imageOk b.rootDigest 1 0 b.config = true → t.dev.pkg.stage = 9 ∧ t.dev.pkg.devid = deviceId ∧
      (∀ a, memGet t.mem a = if isHbm a = true ∧ bitOf b.stacksOk (a / 2 ^ 36) = true then 0 else memGet s.mem a) ∧
      (∀ i < 16, (tget .start t.dev.pkg.ports i).up = bitOf b.portsOk i) ∧
      (∀ i < 12, bitOf t.dev.pkg.excluded i = !bitOf b.stacksOk i) ∧
      (b.failing = [] → t.dev.pkg.repairs = (replayRepairs (repairBytes b.config)).1 ∧ t.dev.pkg.retiredRows = []) ∧
      (b.badStacks = [] → b.badDies = [] → b.modulesOk % 16 ≠ 0 → t.dev.pkg.err = 0)))
end

