-- ==== Sys2Proof/Laws/Bank.lean ====
section
/-! SUPPORT. Laws of banks and sequencers: for each update, what each field holds afterwards. -/

namespace Sys2Proof.Machine

/-! ### setSeq -/

@[simp] theorem Bank.setSeq_seq (k : Bank) (q : Seq) (v : SeqState) : (k.setSeq q v).seq q = v := by cases q <;> rfl
theorem Bank.setSeq_seq_ne (k : Bank) (q r : Seq) (v : SeqState) (h : r ≠ q) : (k.setSeq q v).seq r = k.seq r := by
  cases q <;> cases r <;> first | rfl | exact absurd rfl h
@[simp] theorem Bank.setSeq_self (k : Bank) (q : Seq) : k.setSeq q (k.seq q) = k := by cases q <;> rfl
@[simp] theorem Bank.setSeq_setSeq (k : Bank) (q : Seq) (v w : SeqState) : (k.setSeq q v).setSeq q w = k.setSeq q w := by
  cases q <;> rfl
@[simp] theorem Bank.setSeq_status (k : Bank) (q : Seq) (v : SeqState) : (k.setSeq q v).status = k.status := by cases q <;> rfl
@[simp] theorem Bank.setSeq_why (k : Bank) (q : Seq) (v : SeqState) : (k.setSeq q v).why = k.why := by cases q <;> rfl
@[simp] theorem Bank.setSeq_task (k : Bank) (q : Seq) (v : SeqState) : (k.setSeq q v).task = k.task := by cases q <;> rfl
@[simp] theorem Bank.setSeq_mbox (k : Bank) (q : Seq) (v : SeqState) : (k.setSeq q v).mbox = k.mbox := by cases q <;> rfl
@[simp] theorem Bank.setSeq_clk (k : Bank) (q : Seq) (v : SeqState) : (k.setSeq q v).clk = k.clk := by cases q <;> rfl
@[simp] theorem Bank.setSeq_phase (k : Bank) (q : Seq) (v : SeqState) : (k.setSeq q v).phase = k.phase := by cases q <;> rfl
@[simp] theorem Bank.setSeq_slot (k : Bank) (q : Seq) (v : SeqState) : (k.setSeq q v).slot = k.slot := by cases q <;> rfl
@[simp] theorem Bank.setSeq_goDone (k : Bank) (q : Seq) (v : SeqState) : (k.setSeq q v).goDone = k.goDone := by cases q <;> rfl
@[simp] theorem Bank.setSeq_events (k : Bank) (q : Seq) (v : SeqState) : (k.setSeq q v).events = k.events := by cases q <;> rfl
@[simp] theorem Bank.setSeq_q (k : Bank) (q : Seq) (v : SeqState) : (k.setSeq q v).q = k.q := by cases q <;> rfl
@[simp] theorem Bank.setSeq_qbind (k : Bank) (q : Seq) (v : SeqState) : (k.setSeq q v).qbind = k.qbind := by cases q <;> rfl
@[simp] theorem Bank.setSeq_ldc (k : Bank) (q : Seq) (v : SeqState) : (k.setSeq q v).ldc = k.ldc := by cases q <;> rfl
@[simp] theorem Bank.setSeq_stc (k : Bank) (q : Seq) (v : SeqState) : (k.setSeq q v).stc = k.stc := by cases q <;> rfl
@[simp] theorem Bank.setSeq_cpc (k : Bank) (q : Seq) (v : SeqState) : (k.setSeq q v).cpc = k.cpc := by cases q <;> rfl
@[simp] theorem Bank.setSeq_toc (k : Bank) (q : Seq) (v : SeqState) : (k.setSeq q v).toc = k.toc := by cases q <;> rfl
@[simp] theorem Bank.setSeq_trec0 (k : Bank) (q : Seq) (v : SeqState) : (k.setSeq q v).trec0 = k.trec0 := by cases q <;> rfl
@[simp] theorem Bank.setSeq_trec1 (k : Bank) (q : Seq) (v : SeqState) : (k.setSeq q v).trec1 = k.trec1 := by cases q <;> rfl
@[simp] theorem Bank.setSeq_copyq (k : Bank) (q : Seq) (v : SeqState) : (k.setSeq q v).copyq = k.copyq := by cases q <;> rfl
@[simp] theorem Bank.setSeq_trails (k : Bank) (q : Seq) (v : SeqState) : (k.setSeq q v).trails = k.trails := by cases q <;> rfl
@[simp] theorem Bank.setSeq_descs (k : Bank) (q : Seq) (v : SeqState) : (k.setSeq q v).descs = k.descs := by cases q <;> rfl
@[simp] theorem Bank.setSeq_kernels (k : Bank) (q : Seq) (v : SeqState) : (k.setSeq q v).kernels = k.kernels := by cases q <;> rfl
@[simp] theorem Bank.setSeq_lookout (k : Bank) (q : Seq) (v : SeqState) : (k.setSeq q v).lookout = k.lookout := by cases q <;> rfl
@[simp] theorem Bank.setSeq_vec (k : Bank) (q : Seq) (v : SeqState) : (k.setSeq q v).vec = k.vec := by cases q <;> rfl
@[simp] theorem Bank.setSeq_mat (k : Bank) (q : Seq) (v : SeqState) : (k.setSeq q v).mat = k.mat := by cases q <;> rfl
@[simp] theorem Bank.setSeq_traps (k : Bank) (q : Seq) (v : SeqState) : (k.setSeq q v).traps = k.traps := by cases q <;> rfl
@[simp] theorem Bank.setSeq_answerSeq (k : Bank) (q : Seq) (v : SeqState) : (k.setSeq q v).answerSeq = k.answerSeq := by cases q <;> rfl
@[simp] theorem Bank.setSeq_onCont (k : Bank) (q : Seq) (v : SeqState) : (k.setSeq q v).onCont = k.onCont := by cases q <;> rfl
@[simp] theorem Bank.setSeq_failed (k : Bank) (q : Seq) (v : SeqState) : (k.setSeq q v).failed = k.failed := by cases q <;> rfl
@[simp] theorem Bank.setSeq_yielding (k : Bank) (q : Seq) (v : SeqState) : (k.setSeq q v).yielding = k.yielding := by cases q <;> rfl
@[simp] theorem Bank.setSeq_readyAt (k : Bank) (q : Seq) (v : SeqState) : (k.setSeq q v).readyAt = k.readyAt := by cases q <;> rfl
@[simp] theorem Bank.setSeq_held (k : Bank) (q : Seq) (v : SeqState) : (k.setSeq q v).held = k.held := by cases q <;> rfl
@[simp] theorem Bank.setSeq_nextId (k : Bank) (q : Seq) (v : SeqState) : (k.setSeq q v).nextId = k.nextId := by cases q <;> rfl
@[simp] theorem Bank.setSeq_savePa (k : Bank) (q : Seq) (v : SeqState) : (k.setSeq q v).savePa = k.savePa := by cases q <;> rfl
@[simp] theorem Bank.setSeq_dispatched (k : Bank) (q : Seq) (v : SeqState) : (k.setSeq q v).dispatched = k.dispatched := by cases q <;> rfl
@[simp] theorem Bank.setSeq_trels (k : Bank) (q : Seq) (v : SeqState) : (k.setSeq q v).trels = k.trels := by cases q <;> rfl
@[simp] theorem Bank.setSeq_csrs (k : Bank) (q : Seq) (v : SeqState) : (k.setSeq q v).csrs = k.csrs := by cases q <;> rfl
@[simp] theorem Bank.setSeq_before (k : Bank) (q : Seq) (v : SeqState) : (k.setSeq q v).before = k.before := by cases q <;> rfl

/-! ### push -/

@[simp] theorem Bank.push_status (k : Bank) (n : Nat) (e : QElem) : (k.push n e).status = k.status := rfl
@[simp] theorem Bank.push_why (k : Bank) (n : Nat) (e : QElem) : (k.push n e).why = k.why := rfl
@[simp] theorem Bank.push_task (k : Bank) (n : Nat) (e : QElem) : (k.push n e).task = k.task := rfl
@[simp] theorem Bank.push_mbox (k : Bank) (n : Nat) (e : QElem) : (k.push n e).mbox = k.mbox := rfl
@[simp] theorem Bank.push_clk (k : Bank) (n : Nat) (e : QElem) : (k.push n e).clk = k.clk := rfl
@[simp] theorem Bank.push_phase (k : Bank) (n : Nat) (e : QElem) : (k.push n e).phase = k.phase := rfl
@[simp] theorem Bank.push_slot (k : Bank) (n : Nat) (e : QElem) : (k.push n e).slot = k.slot := rfl
@[simp] theorem Bank.push_goDone (k : Bank) (n : Nat) (e : QElem) : (k.push n e).goDone = k.goDone := rfl
@[simp] theorem Bank.push_k (k : Bank) (n : Nat) (e : QElem) : (k.push n e).k = k.k := rfl
@[simp] theorem Bank.push_l (k : Bank) (n : Nat) (e : QElem) : (k.push n e).l = k.l := rfl
@[simp] theorem Bank.push_x (k : Bank) (n : Nat) (e : QElem) : (k.push n e).x = k.x := rfl
@[simp] theorem Bank.push_d (k : Bank) (n : Nat) (e : QElem) : (k.push n e).d = k.d := rfl
@[simp] theorem Bank.push_events (k : Bank) (n : Nat) (e : QElem) : (k.push n e).events = k.events := rfl
@[simp] theorem Bank.push_qbind (k : Bank) (n : Nat) (e : QElem) : (k.push n e).qbind = k.qbind := rfl
@[simp] theorem Bank.push_ldc (k : Bank) (n : Nat) (e : QElem) : (k.push n e).ldc = k.ldc := rfl
@[simp] theorem Bank.push_stc (k : Bank) (n : Nat) (e : QElem) : (k.push n e).stc = k.stc := rfl
@[simp] theorem Bank.push_cpc (k : Bank) (n : Nat) (e : QElem) : (k.push n e).cpc = k.cpc := rfl
@[simp] theorem Bank.push_toc (k : Bank) (n : Nat) (e : QElem) : (k.push n e).toc = k.toc := rfl
@[simp] theorem Bank.push_trec0 (k : Bank) (n : Nat) (e : QElem) : (k.push n e).trec0 = k.trec0 := rfl
@[simp] theorem Bank.push_trec1 (k : Bank) (n : Nat) (e : QElem) : (k.push n e).trec1 = k.trec1 := rfl
@[simp] theorem Bank.push_copyq (k : Bank) (n : Nat) (e : QElem) : (k.push n e).copyq = k.copyq := rfl
@[simp] theorem Bank.push_trails (k : Bank) (n : Nat) (e : QElem) : (k.push n e).trails = k.trails := rfl
@[simp] theorem Bank.push_descs (k : Bank) (n : Nat) (e : QElem) : (k.push n e).descs = k.descs := rfl
@[simp] theorem Bank.push_kernels (k : Bank) (n : Nat) (e : QElem) : (k.push n e).kernels = k.kernels := rfl
@[simp] theorem Bank.push_lookout (k : Bank) (n : Nat) (e : QElem) : (k.push n e).lookout = k.lookout := rfl
@[simp] theorem Bank.push_vec (k : Bank) (n : Nat) (e : QElem) : (k.push n e).vec = k.vec := rfl
@[simp] theorem Bank.push_mat (k : Bank) (n : Nat) (e : QElem) : (k.push n e).mat = k.mat := rfl
@[simp] theorem Bank.push_traps (k : Bank) (n : Nat) (e : QElem) : (k.push n e).traps = k.traps := rfl
@[simp] theorem Bank.push_answerSeq (k : Bank) (n : Nat) (e : QElem) : (k.push n e).answerSeq = k.answerSeq := rfl
@[simp] theorem Bank.push_onCont (k : Bank) (n : Nat) (e : QElem) : (k.push n e).onCont = k.onCont := rfl
@[simp] theorem Bank.push_failed (k : Bank) (n : Nat) (e : QElem) : (k.push n e).failed = k.failed := rfl
@[simp] theorem Bank.push_yielding (k : Bank) (n : Nat) (e : QElem) : (k.push n e).yielding = k.yielding := rfl
@[simp] theorem Bank.push_readyAt (k : Bank) (n : Nat) (e : QElem) : (k.push n e).readyAt = k.readyAt := rfl
@[simp] theorem Bank.push_held (k : Bank) (n : Nat) (e : QElem) : (k.push n e).held = k.held := rfl
@[simp] theorem Bank.push_nextId (k : Bank) (n : Nat) (e : QElem) : (k.push n e).nextId = k.nextId := rfl
@[simp] theorem Bank.push_savePa (k : Bank) (n : Nat) (e : QElem) : (k.push n e).savePa = k.savePa := rfl
@[simp] theorem Bank.push_dispatched (k : Bank) (n : Nat) (e : QElem) : (k.push n e).dispatched = k.dispatched := rfl
@[simp] theorem Bank.push_trels (k : Bank) (n : Nat) (e : QElem) : (k.push n e).trels = k.trels := rfl
@[simp] theorem Bank.push_csrs (k : Bank) (n : Nat) (e : QElem) : (k.push n e).csrs = k.csrs := rfl
@[simp] theorem Bank.push_before (k : Bank) (n : Nat) (e : QElem) : (k.push n e).before = k.before := rfl
@[simp] theorem Bank.push_seq (k : Bank) (n : Nat) (e : QElem) (s : Seq) : (k.push n e).seq s = k.seq s := by cases s <;> rfl

/-! ### pushAll -/

@[simp] theorem Bank.pushAll_status (k : Bank) (n r : Nat) (vs : List Word) : (k.pushAll n r vs).status = k.status := rfl
@[simp] theorem Bank.pushAll_why (k : Bank) (n r : Nat) (vs : List Word) : (k.pushAll n r vs).why = k.why := rfl
@[simp] theorem Bank.pushAll_task (k : Bank) (n r : Nat) (vs : List Word) : (k.pushAll n r vs).task = k.task := rfl
@[simp] theorem Bank.pushAll_mbox (k : Bank) (n r : Nat) (vs : List Word) : (k.pushAll n r vs).mbox = k.mbox := rfl
@[simp] theorem Bank.pushAll_clk (k : Bank) (n r : Nat) (vs : List Word) : (k.pushAll n r vs).clk = k.clk := rfl
@[simp] theorem Bank.pushAll_phase (k : Bank) (n r : Nat) (vs : List Word) : (k.pushAll n r vs).phase = k.phase := rfl
@[simp] theorem Bank.pushAll_slot (k : Bank) (n r : Nat) (vs : List Word) : (k.pushAll n r vs).slot = k.slot := rfl
@[simp] theorem Bank.pushAll_goDone (k : Bank) (n r : Nat) (vs : List Word) : (k.pushAll n r vs).goDone = k.goDone := rfl
@[simp] theorem Bank.pushAll_k (k : Bank) (n r : Nat) (vs : List Word) : (k.pushAll n r vs).k = k.k := rfl
@[simp] theorem Bank.pushAll_l (k : Bank) (n r : Nat) (vs : List Word) : (k.pushAll n r vs).l = k.l := rfl
@[simp] theorem Bank.pushAll_x (k : Bank) (n r : Nat) (vs : List Word) : (k.pushAll n r vs).x = k.x := rfl
@[simp] theorem Bank.pushAll_d (k : Bank) (n r : Nat) (vs : List Word) : (k.pushAll n r vs).d = k.d := rfl
@[simp] theorem Bank.pushAll_events (k : Bank) (n r : Nat) (vs : List Word) : (k.pushAll n r vs).events = k.events := rfl
@[simp] theorem Bank.pushAll_qbind (k : Bank) (n r : Nat) (vs : List Word) : (k.pushAll n r vs).qbind = k.qbind := rfl
@[simp] theorem Bank.pushAll_ldc (k : Bank) (n r : Nat) (vs : List Word) : (k.pushAll n r vs).ldc = k.ldc := rfl
@[simp] theorem Bank.pushAll_stc (k : Bank) (n r : Nat) (vs : List Word) : (k.pushAll n r vs).stc = k.stc := rfl
@[simp] theorem Bank.pushAll_cpc (k : Bank) (n r : Nat) (vs : List Word) : (k.pushAll n r vs).cpc = k.cpc := rfl
@[simp] theorem Bank.pushAll_toc (k : Bank) (n r : Nat) (vs : List Word) : (k.pushAll n r vs).toc = k.toc := rfl
@[simp] theorem Bank.pushAll_trec0 (k : Bank) (n r : Nat) (vs : List Word) : (k.pushAll n r vs).trec0 = k.trec0 := rfl
@[simp] theorem Bank.pushAll_trec1 (k : Bank) (n r : Nat) (vs : List Word) : (k.pushAll n r vs).trec1 = k.trec1 := rfl
@[simp] theorem Bank.pushAll_copyq (k : Bank) (n r : Nat) (vs : List Word) : (k.pushAll n r vs).copyq = k.copyq := rfl
@[simp] theorem Bank.pushAll_trails (k : Bank) (n r : Nat) (vs : List Word) : (k.pushAll n r vs).trails = k.trails := rfl
@[simp] theorem Bank.pushAll_descs (k : Bank) (n r : Nat) (vs : List Word) : (k.pushAll n r vs).descs = k.descs := rfl
@[simp] theorem Bank.pushAll_kernels (k : Bank) (n r : Nat) (vs : List Word) : (k.pushAll n r vs).kernels = k.kernels := rfl
@[simp] theorem Bank.pushAll_lookout (k : Bank) (n r : Nat) (vs : List Word) : (k.pushAll n r vs).lookout = k.lookout := rfl
@[simp] theorem Bank.pushAll_vec (k : Bank) (n r : Nat) (vs : List Word) : (k.pushAll n r vs).vec = k.vec := rfl
@[simp] theorem Bank.pushAll_mat (k : Bank) (n r : Nat) (vs : List Word) : (k.pushAll n r vs).mat = k.mat := rfl
@[simp] theorem Bank.pushAll_traps (k : Bank) (n r : Nat) (vs : List Word) : (k.pushAll n r vs).traps = k.traps := rfl
@[simp] theorem Bank.pushAll_answerSeq (k : Bank) (n r : Nat) (vs : List Word) : (k.pushAll n r vs).answerSeq = k.answerSeq := rfl
@[simp] theorem Bank.pushAll_onCont (k : Bank) (n r : Nat) (vs : List Word) : (k.pushAll n r vs).onCont = k.onCont := rfl
@[simp] theorem Bank.pushAll_failed (k : Bank) (n r : Nat) (vs : List Word) : (k.pushAll n r vs).failed = k.failed := rfl
@[simp] theorem Bank.pushAll_yielding (k : Bank) (n r : Nat) (vs : List Word) : (k.pushAll n r vs).yielding = k.yielding := rfl
@[simp] theorem Bank.pushAll_readyAt (k : Bank) (n r : Nat) (vs : List Word) : (k.pushAll n r vs).readyAt = k.readyAt := rfl
@[simp] theorem Bank.pushAll_held (k : Bank) (n r : Nat) (vs : List Word) : (k.pushAll n r vs).held = k.held := rfl
@[simp] theorem Bank.pushAll_nextId (k : Bank) (n r : Nat) (vs : List Word) : (k.pushAll n r vs).nextId = k.nextId := rfl
@[simp] theorem Bank.pushAll_savePa (k : Bank) (n r : Nat) (vs : List Word) : (k.pushAll n r vs).savePa = k.savePa := rfl
@[simp] theorem Bank.pushAll_dispatched (k : Bank) (n r : Nat) (vs : List Word) : (k.pushAll n r vs).dispatched = k.dispatched := rfl
@[simp] theorem Bank.pushAll_trels (k : Bank) (n r : Nat) (vs : List Word) : (k.pushAll n r vs).trels = k.trels := rfl
@[simp] theorem Bank.pushAll_csrs (k : Bank) (n r : Nat) (vs : List Word) : (k.pushAll n r vs).csrs = k.csrs := rfl
@[simp] theorem Bank.pushAll_before (k : Bank) (n r : Nat) (vs : List Word) : (k.pushAll n r vs).before = k.before := rfl
@[simp] theorem Bank.pushAll_seq (k : Bank) (n r : Nat) (vs : List Word) (s : Seq) : (k.pushAll n r vs).seq s = k.seq s := by cases s <;> rfl

/-! ### reserve -/

@[simp] theorem Bank.reserve_status (k : Bank) (r n id : Nat) : (k.reserve r n id).status = k.status := rfl
@[simp] theorem Bank.reserve_why (k : Bank) (r n id : Nat) : (k.reserve r n id).why = k.why := rfl
@[simp] theorem Bank.reserve_task (k : Bank) (r n id : Nat) : (k.reserve r n id).task = k.task := rfl
@[simp] theorem Bank.reserve_mbox (k : Bank) (r n id : Nat) : (k.reserve r n id).mbox = k.mbox := rfl
@[simp] theorem Bank.reserve_clk (k : Bank) (r n id : Nat) : (k.reserve r n id).clk = k.clk := rfl
@[simp] theorem Bank.reserve_phase (k : Bank) (r n id : Nat) : (k.reserve r n id).phase = k.phase := rfl
@[simp] theorem Bank.reserve_slot (k : Bank) (r n id : Nat) : (k.reserve r n id).slot = k.slot := rfl
@[simp] theorem Bank.reserve_goDone (k : Bank) (r n id : Nat) : (k.reserve r n id).goDone = k.goDone := rfl
@[simp] theorem Bank.reserve_k (k : Bank) (r n id : Nat) : (k.reserve r n id).k = k.k := rfl
@[simp] theorem Bank.reserve_l (k : Bank) (r n id : Nat) : (k.reserve r n id).l = k.l := rfl
@[simp] theorem Bank.reserve_x (k : Bank) (r n id : Nat) : (k.reserve r n id).x = k.x := rfl
@[simp] theorem Bank.reserve_d (k : Bank) (r n id : Nat) : (k.reserve r n id).d = k.d := rfl
@[simp] theorem Bank.reserve_events (k : Bank) (r n id : Nat) : (k.reserve r n id).events = k.events := rfl
@[simp] theorem Bank.reserve_qbind (k : Bank) (r n id : Nat) : (k.reserve r n id).qbind = k.qbind := rfl
@[simp] theorem Bank.reserve_ldc (k : Bank) (r n id : Nat) : (k.reserve r n id).ldc = k.ldc := rfl
@[simp] theorem Bank.reserve_stc (k : Bank) (r n id : Nat) : (k.reserve r n id).stc = k.stc := rfl
@[simp] theorem Bank.reserve_cpc (k : Bank) (r n id : Nat) : (k.reserve r n id).cpc = k.cpc := rfl
@[simp] theorem Bank.reserve_toc (k : Bank) (r n id : Nat) : (k.reserve r n id).toc = k.toc := rfl
@[simp] theorem Bank.reserve_trec0 (k : Bank) (r n id : Nat) : (k.reserve r n id).trec0 = k.trec0 := rfl
@[simp] theorem Bank.reserve_trec1 (k : Bank) (r n id : Nat) : (k.reserve r n id).trec1 = k.trec1 := rfl
@[simp] theorem Bank.reserve_copyq (k : Bank) (r n id : Nat) : (k.reserve r n id).copyq = k.copyq := rfl
@[simp] theorem Bank.reserve_trails (k : Bank) (r n id : Nat) : (k.reserve r n id).trails = k.trails := rfl
@[simp] theorem Bank.reserve_descs (k : Bank) (r n id : Nat) : (k.reserve r n id).descs = k.descs := rfl
@[simp] theorem Bank.reserve_kernels (k : Bank) (r n id : Nat) : (k.reserve r n id).kernels = k.kernels := rfl
@[simp] theorem Bank.reserve_lookout (k : Bank) (r n id : Nat) : (k.reserve r n id).lookout = k.lookout := rfl
@[simp] theorem Bank.reserve_vec (k : Bank) (r n id : Nat) : (k.reserve r n id).vec = k.vec := rfl
@[simp] theorem Bank.reserve_mat (k : Bank) (r n id : Nat) : (k.reserve r n id).mat = k.mat := rfl
@[simp] theorem Bank.reserve_traps (k : Bank) (r n id : Nat) : (k.reserve r n id).traps = k.traps := rfl
@[simp] theorem Bank.reserve_answerSeq (k : Bank) (r n id : Nat) : (k.reserve r n id).answerSeq = k.answerSeq := rfl
@[simp] theorem Bank.reserve_onCont (k : Bank) (r n id : Nat) : (k.reserve r n id).onCont = k.onCont := rfl
@[simp] theorem Bank.reserve_failed (k : Bank) (r n id : Nat) : (k.reserve r n id).failed = k.failed := rfl
@[simp] theorem Bank.reserve_yielding (k : Bank) (r n id : Nat) : (k.reserve r n id).yielding = k.yielding := rfl
@[simp] theorem Bank.reserve_readyAt (k : Bank) (r n id : Nat) : (k.reserve r n id).readyAt = k.readyAt := rfl
@[simp] theorem Bank.reserve_held (k : Bank) (r n id : Nat) : (k.reserve r n id).held = k.held := rfl
@[simp] theorem Bank.reserve_nextId (k : Bank) (r n id : Nat) : (k.reserve r n id).nextId = k.nextId := rfl
@[simp] theorem Bank.reserve_savePa (k : Bank) (r n id : Nat) : (k.reserve r n id).savePa = k.savePa := rfl
@[simp] theorem Bank.reserve_dispatched (k : Bank) (r n id : Nat) : (k.reserve r n id).dispatched = k.dispatched := rfl
@[simp] theorem Bank.reserve_trels (k : Bank) (r n id : Nat) : (k.reserve r n id).trels = k.trels := rfl
@[simp] theorem Bank.reserve_csrs (k : Bank) (r n id : Nat) : (k.reserve r n id).csrs = k.csrs := rfl
@[simp] theorem Bank.reserve_before (k : Bank) (r n id : Nat) : (k.reserve r n id).before = k.before := rfl
@[simp] theorem Bank.reserve_seq (k : Bank) (r n id : Nat) (s : Seq) : (k.reserve r n id).seq s = k.seq s := by cases s <;> rfl

/-! ### retire -/

@[simp] theorem SeqState.retire_code (s : SeqState) (clk occ : Nat) (next : Option Nat) : (s.retire clk occ next).code = s.code := by cases next <;> rfl
@[simp] theorem SeqState.retire_poison (s : SeqState) (clk occ : Nat) (next : Option Nat) : (s.retire clk occ next).poison = s.poison := by cases next <;> rfl
@[simp] theorem SeqState.retire_g (s : SeqState) (clk occ : Nat) (next : Option Nat) : (s.retire clk occ next).g = s.g := by cases next <;> rfl
@[simp] theorem SeqState.retire_p (s : SeqState) (clk occ : Nat) (next : Option Nat) : (s.retire clk occ next).p = s.p := by cases next <;> rfl
@[simp] theorem SeqState.retire_a (s : SeqState) (clk occ : Nat) (next : Option Nat) : (s.retire clk occ next).a = s.a := by cases next <;> rfl
@[simp] theorem SeqState.retire_cyc (s : SeqState) (clk occ : Nat) (next : Option Nat) : (s.retire clk occ next).cyc = s.cyc := by cases next <;> rfl
@[simp] theorem SeqState.retire_avail (s : SeqState) (clk occ : Nat) (next : Option Nat) : (s.retire clk occ next).avail = s.avail := by cases next <;> rfl
@[simp] theorem SeqState.retire_awaits (s : SeqState) (clk occ : Nat) (next : Option Nat) : (s.retire clk occ next).awaits = s.awaits := by cases next <;> rfl
@[simp] theorem SeqState.retire_outq (s : SeqState) (clk occ : Nat) (next : Option Nat) : (s.retire clk occ next).outq = s.outq := by cases next <;> rfl
@[simp] theorem SeqState.retire_halted (s : SeqState) (clk occ : Nat) (next : Option Nat) : (s.retire clk occ next).halted = s.halted := by cases next <;> rfl
@[simp] theorem SeqState.retire_released (s : SeqState) (clk occ : Nat) (next : Option Nat) : (s.retire clk occ next).released = s.released := by cases next <;> rfl
@[simp] theorem SeqState.retire_accs (s : SeqState) (clk occ : Nat) (next : Option Nat) : (s.retire clk occ next).accs = s.accs := by cases next <;> rfl
@[simp] theorem SeqState.retire_posts (s : SeqState) (clk occ : Nat) (next : Option Nat) : (s.retire clk occ next).posts = s.posts := by cases next <;> rfl
@[simp] theorem SeqState.retire_wout (s : SeqState) (clk occ : Nat) (next : Option Nat) : (s.retire clk occ next).wout = s.wout := by cases next <;> rfl
@[simp] theorem SeqState.retire_waita (s : SeqState) (clk occ : Nat) (next : Option Nat) : (s.retire clk occ next).waita = s.waita := by cases next <;> rfl
@[simp] theorem SeqState.retire_ecalls (s : SeqState) (clk occ : Nat) (next : Option Nat) : (s.retire clk occ next).ecalls = s.ecalls := by cases next <;> rfl
@[simp] theorem SeqState.retire_qfence (s : SeqState) (clk occ : Nat) (next : Option Nat) : (s.retire clk occ next).qfence = s.qfence := by cases next <;> rfl
@[simp] theorem SeqState.retire_moved (s : SeqState) (clk occ : Nat) (next : Option Nat) : (s.retire clk occ next).moved = s.moved := by cases next <;> rfl
@[simp] theorem SeqState.retire_popped (s : SeqState) (clk occ : Nat) (next : Option Nat) : (s.retire clk occ next).popped = s.popped := by cases next <;> rfl
@[simp] theorem SeqState.retire_bars (s : SeqState) (clk occ : Nat) (next : Option Nat) : (s.retire clk occ next).bars = s.bars := by cases next <;> rfl

/-! ### putG -/

@[simp] theorem SeqState.putG_code (s : SeqState) (n : Nat) (v : Word) : (s.putG n v).code = s.code := by unfold SeqState.putG; split <;> rfl
@[simp] theorem SeqState.putG_poison (s : SeqState) (n : Nat) (v : Word) : (s.putG n v).poison = s.poison := by unfold SeqState.putG; split <;> rfl
@[simp] theorem SeqState.putG_pos (s : SeqState) (n : Nat) (v : Word) : (s.putG n v).pos = s.pos := by unfold SeqState.putG; split <;> rfl
@[simp] theorem SeqState.putG_p (s : SeqState) (n : Nat) (v : Word) : (s.putG n v).p = s.p := by unfold SeqState.putG; split <;> rfl
@[simp] theorem SeqState.putG_a (s : SeqState) (n : Nat) (v : Word) : (s.putG n v).a = s.a := by unfold SeqState.putG; split <;> rfl
@[simp] theorem SeqState.putG_cyc (s : SeqState) (n : Nat) (v : Word) : (s.putG n v).cyc = s.cyc := by unfold SeqState.putG; split <;> rfl
@[simp] theorem SeqState.putG_prevClk (s : SeqState) (n : Nat) (v : Word) : (s.putG n v).prevClk = s.prevClk := by unfold SeqState.putG; split <;> rfl
@[simp] theorem SeqState.putG_prevOcc (s : SeqState) (n : Nat) (v : Word) : (s.putG n v).prevOcc = s.prevOcc := by unfold SeqState.putG; split <;> rfl
@[simp] theorem SeqState.putG_avail (s : SeqState) (n : Nat) (v : Word) : (s.putG n v).avail = s.avail := by unfold SeqState.putG; split <;> rfl
@[simp] theorem SeqState.putG_awaits (s : SeqState) (n : Nat) (v : Word) : (s.putG n v).awaits = s.awaits := by unfold SeqState.putG; split <;> rfl
@[simp] theorem SeqState.putG_loops (s : SeqState) (n : Nat) (v : Word) : (s.putG n v).loops = s.loops := by unfold SeqState.putG; split <;> rfl
@[simp] theorem SeqState.putG_outq (s : SeqState) (n : Nat) (v : Word) : (s.putG n v).outq = s.outq := by unfold SeqState.putG; split <;> rfl
@[simp] theorem SeqState.putG_halted (s : SeqState) (n : Nat) (v : Word) : (s.putG n v).halted = s.halted := by unfold SeqState.putG; split <;> rfl
@[simp] theorem SeqState.putG_released (s : SeqState) (n : Nat) (v : Word) : (s.putG n v).released = s.released := by unfold SeqState.putG; split <;> rfl
@[simp] theorem SeqState.putG_accs (s : SeqState) (n : Nat) (v : Word) : (s.putG n v).accs = s.accs := by unfold SeqState.putG; split <;> rfl
@[simp] theorem SeqState.putG_posts (s : SeqState) (n : Nat) (v : Word) : (s.putG n v).posts = s.posts := by unfold SeqState.putG; split <;> rfl
@[simp] theorem SeqState.putG_wout (s : SeqState) (n : Nat) (v : Word) : (s.putG n v).wout = s.wout := by unfold SeqState.putG; split <;> rfl
@[simp] theorem SeqState.putG_waita (s : SeqState) (n : Nat) (v : Word) : (s.putG n v).waita = s.waita := by unfold SeqState.putG; split <;> rfl
@[simp] theorem SeqState.putG_ecalls (s : SeqState) (n : Nat) (v : Word) : (s.putG n v).ecalls = s.ecalls := by unfold SeqState.putG; split <;> rfl
@[simp] theorem SeqState.putG_qfence (s : SeqState) (n : Nat) (v : Word) : (s.putG n v).qfence = s.qfence := by unfold SeqState.putG; split <;> rfl
@[simp] theorem SeqState.putG_walk (s : SeqState) (n : Nat) (v : Word) : (s.putG n v).walk = s.walk := by unfold SeqState.putG; split <;> rfl
@[simp] theorem SeqState.putG_moved (s : SeqState) (n : Nat) (v : Word) : (s.putG n v).moved = s.moved := by unfold SeqState.putG; split <;> rfl
@[simp] theorem SeqState.putG_popped (s : SeqState) (n : Nat) (v : Word) : (s.putG n v).popped = s.popped := by unfold SeqState.putG; split <;> rfl
@[simp] theorem SeqState.putG_bars (s : SeqState) (n : Nat) (v : Word) : (s.putG n v).bars = s.bars := by unfold SeqState.putG; split <;> rfl

/-! ### putA -/

@[simp] theorem SeqState.putA_code (s : SeqState) (n : Nat) (v : Word) : (s.putA n v).code = s.code := rfl
@[simp] theorem SeqState.putA_poison (s : SeqState) (n : Nat) (v : Word) : (s.putA n v).poison = s.poison := rfl
@[simp] theorem SeqState.putA_pos (s : SeqState) (n : Nat) (v : Word) : (s.putA n v).pos = s.pos := rfl
@[simp] theorem SeqState.putA_g (s : SeqState) (n : Nat) (v : Word) : (s.putA n v).g = s.g := rfl
@[simp] theorem SeqState.putA_p (s : SeqState) (n : Nat) (v : Word) : (s.putA n v).p = s.p := rfl
@[simp] theorem SeqState.putA_cyc (s : SeqState) (n : Nat) (v : Word) : (s.putA n v).cyc = s.cyc := rfl
@[simp] theorem SeqState.putA_prevClk (s : SeqState) (n : Nat) (v : Word) : (s.putA n v).prevClk = s.prevClk := rfl
@[simp] theorem SeqState.putA_prevOcc (s : SeqState) (n : Nat) (v : Word) : (s.putA n v).prevOcc = s.prevOcc := rfl
@[simp] theorem SeqState.putA_avail (s : SeqState) (n : Nat) (v : Word) : (s.putA n v).avail = s.avail := rfl
@[simp] theorem SeqState.putA_awaits (s : SeqState) (n : Nat) (v : Word) : (s.putA n v).awaits = s.awaits := rfl
@[simp] theorem SeqState.putA_loops (s : SeqState) (n : Nat) (v : Word) : (s.putA n v).loops = s.loops := rfl
@[simp] theorem SeqState.putA_outq (s : SeqState) (n : Nat) (v : Word) : (s.putA n v).outq = s.outq := rfl
@[simp] theorem SeqState.putA_halted (s : SeqState) (n : Nat) (v : Word) : (s.putA n v).halted = s.halted := rfl
@[simp] theorem SeqState.putA_released (s : SeqState) (n : Nat) (v : Word) : (s.putA n v).released = s.released := rfl
@[simp] theorem SeqState.putA_accs (s : SeqState) (n : Nat) (v : Word) : (s.putA n v).accs = s.accs := rfl
@[simp] theorem SeqState.putA_posts (s : SeqState) (n : Nat) (v : Word) : (s.putA n v).posts = s.posts := rfl
@[simp] theorem SeqState.putA_wout (s : SeqState) (n : Nat) (v : Word) : (s.putA n v).wout = s.wout := rfl
@[simp] theorem SeqState.putA_waita (s : SeqState) (n : Nat) (v : Word) : (s.putA n v).waita = s.waita := rfl
@[simp] theorem SeqState.putA_ecalls (s : SeqState) (n : Nat) (v : Word) : (s.putA n v).ecalls = s.ecalls := rfl
@[simp] theorem SeqState.putA_qfence (s : SeqState) (n : Nat) (v : Word) : (s.putA n v).qfence = s.qfence := rfl
@[simp] theorem SeqState.putA_walk (s : SeqState) (n : Nat) (v : Word) : (s.putA n v).walk = s.walk := rfl
@[simp] theorem SeqState.putA_moved (s : SeqState) (n : Nat) (v : Word) : (s.putA n v).moved = s.moved := rfl
@[simp] theorem SeqState.putA_popped (s : SeqState) (n : Nat) (v : Word) : (s.putA n v).popped = s.popped := rfl
@[simp] theorem SeqState.putA_bars (s : SeqState) (n : Nat) (v : Word) : (s.putA n v).bars = s.bars := rfl

/-! ### putAReg -/

@[simp] theorem SeqState.putAReg_code (s : SeqState) (n : Nat) (v : AReg) : (s.putAReg n v).code = s.code := rfl
@[simp] theorem SeqState.putAReg_poison (s : SeqState) (n : Nat) (v : AReg) : (s.putAReg n v).poison = s.poison := rfl
@[simp] theorem SeqState.putAReg_pos (s : SeqState) (n : Nat) (v : AReg) : (s.putAReg n v).pos = s.pos := rfl
@[simp] theorem SeqState.putAReg_g (s : SeqState) (n : Nat) (v : AReg) : (s.putAReg n v).g = s.g := rfl
@[simp] theorem SeqState.putAReg_p (s : SeqState) (n : Nat) (v : AReg) : (s.putAReg n v).p = s.p := rfl
@[simp] theorem SeqState.putAReg_cyc (s : SeqState) (n : Nat) (v : AReg) : (s.putAReg n v).cyc = s.cyc := rfl
@[simp] theorem SeqState.putAReg_prevClk (s : SeqState) (n : Nat) (v : AReg) : (s.putAReg n v).prevClk = s.prevClk := rfl
@[simp] theorem SeqState.putAReg_prevOcc (s : SeqState) (n : Nat) (v : AReg) : (s.putAReg n v).prevOcc = s.prevOcc := rfl
@[simp] theorem SeqState.putAReg_avail (s : SeqState) (n : Nat) (v : AReg) : (s.putAReg n v).avail = s.avail := rfl
@[simp] theorem SeqState.putAReg_awaits (s : SeqState) (n : Nat) (v : AReg) : (s.putAReg n v).awaits = s.awaits := rfl
@[simp] theorem SeqState.putAReg_loops (s : SeqState) (n : Nat) (v : AReg) : (s.putAReg n v).loops = s.loops := rfl
@[simp] theorem SeqState.putAReg_outq (s : SeqState) (n : Nat) (v : AReg) : (s.putAReg n v).outq = s.outq := rfl
@[simp] theorem SeqState.putAReg_halted (s : SeqState) (n : Nat) (v : AReg) : (s.putAReg n v).halted = s.halted := rfl
@[simp] theorem SeqState.putAReg_released (s : SeqState) (n : Nat) (v : AReg) : (s.putAReg n v).released = s.released := rfl
@[simp] theorem SeqState.putAReg_accs (s : SeqState) (n : Nat) (v : AReg) : (s.putAReg n v).accs = s.accs := rfl
@[simp] theorem SeqState.putAReg_posts (s : SeqState) (n : Nat) (v : AReg) : (s.putAReg n v).posts = s.posts := rfl
@[simp] theorem SeqState.putAReg_wout (s : SeqState) (n : Nat) (v : AReg) : (s.putAReg n v).wout = s.wout := rfl
@[simp] theorem SeqState.putAReg_waita (s : SeqState) (n : Nat) (v : AReg) : (s.putAReg n v).waita = s.waita := rfl
@[simp] theorem SeqState.putAReg_ecalls (s : SeqState) (n : Nat) (v : AReg) : (s.putAReg n v).ecalls = s.ecalls := rfl
@[simp] theorem SeqState.putAReg_qfence (s : SeqState) (n : Nat) (v : AReg) : (s.putAReg n v).qfence = s.qfence := rfl
@[simp] theorem SeqState.putAReg_walk (s : SeqState) (n : Nat) (v : AReg) : (s.putAReg n v).walk = s.walk := rfl
@[simp] theorem SeqState.putAReg_moved (s : SeqState) (n : Nat) (v : AReg) : (s.putAReg n v).moved = s.moved := rfl
@[simp] theorem SeqState.putAReg_popped (s : SeqState) (n : Nat) (v : AReg) : (s.putAReg n v).popped = s.popped := rfl
@[simp] theorem SeqState.putAReg_bars (s : SeqState) (n : Nat) (v : AReg) : (s.putAReg n v).bars = s.bars := rfl

/-! ### putPred -/

@[simp] theorem SeqState.putPred_code (s : SeqState) (n : Nat) (v : Bool) : (s.putPred n v).code = s.code := rfl
@[simp] theorem SeqState.putPred_poison (s : SeqState) (n : Nat) (v : Bool) : (s.putPred n v).poison = s.poison := rfl
@[simp] theorem SeqState.putPred_pos (s : SeqState) (n : Nat) (v : Bool) : (s.putPred n v).pos = s.pos := rfl
@[simp] theorem SeqState.putPred_g (s : SeqState) (n : Nat) (v : Bool) : (s.putPred n v).g = s.g := rfl
@[simp] theorem SeqState.putPred_a (s : SeqState) (n : Nat) (v : Bool) : (s.putPred n v).a = s.a := rfl
@[simp] theorem SeqState.putPred_cyc (s : SeqState) (n : Nat) (v : Bool) : (s.putPred n v).cyc = s.cyc := rfl
@[simp] theorem SeqState.putPred_prevClk (s : SeqState) (n : Nat) (v : Bool) : (s.putPred n v).prevClk = s.prevClk := rfl
@[simp] theorem SeqState.putPred_prevOcc (s : SeqState) (n : Nat) (v : Bool) : (s.putPred n v).prevOcc = s.prevOcc := rfl
@[simp] theorem SeqState.putPred_avail (s : SeqState) (n : Nat) (v : Bool) : (s.putPred n v).avail = s.avail := rfl
@[simp] theorem SeqState.putPred_awaits (s : SeqState) (n : Nat) (v : Bool) : (s.putPred n v).awaits = s.awaits := rfl
@[simp] theorem SeqState.putPred_loops (s : SeqState) (n : Nat) (v : Bool) : (s.putPred n v).loops = s.loops := rfl
@[simp] theorem SeqState.putPred_outq (s : SeqState) (n : Nat) (v : Bool) : (s.putPred n v).outq = s.outq := rfl
@[simp] theorem SeqState.putPred_halted (s : SeqState) (n : Nat) (v : Bool) : (s.putPred n v).halted = s.halted := rfl
@[simp] theorem SeqState.putPred_released (s : SeqState) (n : Nat) (v : Bool) : (s.putPred n v).released = s.released := rfl
@[simp] theorem SeqState.putPred_accs (s : SeqState) (n : Nat) (v : Bool) : (s.putPred n v).accs = s.accs := rfl
@[simp] theorem SeqState.putPred_posts (s : SeqState) (n : Nat) (v : Bool) : (s.putPred n v).posts = s.posts := rfl
@[simp] theorem SeqState.putPred_wout (s : SeqState) (n : Nat) (v : Bool) : (s.putPred n v).wout = s.wout := rfl
@[simp] theorem SeqState.putPred_waita (s : SeqState) (n : Nat) (v : Bool) : (s.putPred n v).waita = s.waita := rfl
@[simp] theorem SeqState.putPred_ecalls (s : SeqState) (n : Nat) (v : Bool) : (s.putPred n v).ecalls = s.ecalls := rfl
@[simp] theorem SeqState.putPred_qfence (s : SeqState) (n : Nat) (v : Bool) : (s.putPred n v).qfence = s.qfence := rfl
@[simp] theorem SeqState.putPred_walk (s : SeqState) (n : Nat) (v : Bool) : (s.putPred n v).walk = s.walk := rfl
@[simp] theorem SeqState.putPred_moved (s : SeqState) (n : Nat) (v : Bool) : (s.putPred n v).moved = s.moved := rfl
@[simp] theorem SeqState.putPred_popped (s : SeqState) (n : Nat) (v : Bool) : (s.putPred n v).popped = s.popped := rfl
@[simp] theorem SeqState.putPred_bars (s : SeqState) (n : Nat) (v : Bool) : (s.putPred n v).bars = s.bars := rfl

/-! ### later -/

@[simp] theorem SeqState.later_code (s : SeqState) (clk key lat : Nat) : (s.later clk key lat).code = s.code := by unfold SeqState.later; split <;> rfl
@[simp] theorem SeqState.later_poison (s : SeqState) (clk key lat : Nat) : (s.later clk key lat).poison = s.poison := by unfold SeqState.later; split <;> rfl
@[simp] theorem SeqState.later_pos (s : SeqState) (clk key lat : Nat) : (s.later clk key lat).pos = s.pos := by unfold SeqState.later; split <;> rfl
@[simp] theorem SeqState.later_g (s : SeqState) (clk key lat : Nat) : (s.later clk key lat).g = s.g := by unfold SeqState.later; split <;> rfl
@[simp] theorem SeqState.later_p (s : SeqState) (clk key lat : Nat) : (s.later clk key lat).p = s.p := by unfold SeqState.later; split <;> rfl
@[simp] theorem SeqState.later_a (s : SeqState) (clk key lat : Nat) : (s.later clk key lat).a = s.a := by unfold SeqState.later; split <;> rfl
@[simp] theorem SeqState.later_cyc (s : SeqState) (clk key lat : Nat) : (s.later clk key lat).cyc = s.cyc := by unfold SeqState.later; split <;> rfl
@[simp] theorem SeqState.later_prevClk (s : SeqState) (clk key lat : Nat) : (s.later clk key lat).prevClk = s.prevClk := by unfold SeqState.later; split <;> rfl
@[simp] theorem SeqState.later_prevOcc (s : SeqState) (clk key lat : Nat) : (s.later clk key lat).prevOcc = s.prevOcc := by unfold SeqState.later; split <;> rfl
@[simp] theorem SeqState.later_awaits (s : SeqState) (clk key lat : Nat) : (s.later clk key lat).awaits = s.awaits := by unfold SeqState.later; split <;> rfl
@[simp] theorem SeqState.later_loops (s : SeqState) (clk key lat : Nat) : (s.later clk key lat).loops = s.loops := by unfold SeqState.later; split <;> rfl
@[simp] theorem SeqState.later_outq (s : SeqState) (clk key lat : Nat) : (s.later clk key lat).outq = s.outq := by unfold SeqState.later; split <;> rfl
@[simp] theorem SeqState.later_halted (s : SeqState) (clk key lat : Nat) : (s.later clk key lat).halted = s.halted := by unfold SeqState.later; split <;> rfl
@[simp] theorem SeqState.later_released (s : SeqState) (clk key lat : Nat) : (s.later clk key lat).released = s.released := by unfold SeqState.later; split <;> rfl
@[simp] theorem SeqState.later_accs (s : SeqState) (clk key lat : Nat) : (s.later clk key lat).accs = s.accs := by unfold SeqState.later; split <;> rfl
@[simp] theorem SeqState.later_posts (s : SeqState) (clk key lat : Nat) : (s.later clk key lat).posts = s.posts := by unfold SeqState.later; split <;> rfl
@[simp] theorem SeqState.later_wout (s : SeqState) (clk key lat : Nat) : (s.later clk key lat).wout = s.wout := by unfold SeqState.later; split <;> rfl
@[simp] theorem SeqState.later_waita (s : SeqState) (clk key lat : Nat) : (s.later clk key lat).waita = s.waita := by unfold SeqState.later; split <;> rfl
@[simp] theorem SeqState.later_ecalls (s : SeqState) (clk key lat : Nat) : (s.later clk key lat).ecalls = s.ecalls := by unfold SeqState.later; split <;> rfl
@[simp] theorem SeqState.later_qfence (s : SeqState) (clk key lat : Nat) : (s.later clk key lat).qfence = s.qfence := by unfold SeqState.later; split <;> rfl
@[simp] theorem SeqState.later_walk (s : SeqState) (clk key lat : Nat) : (s.later clk key lat).walk = s.walk := by unfold SeqState.later; split <;> rfl
@[simp] theorem SeqState.later_moved (s : SeqState) (clk key lat : Nat) : (s.later clk key lat).moved = s.moved := by unfold SeqState.later; split <;> rfl
@[simp] theorem SeqState.later_popped (s : SeqState) (clk key lat : Nat) : (s.later clk key lat).popped = s.popped := by unfold SeqState.later; split <;> rfl
@[simp] theorem SeqState.later_bars (s : SeqState) (clk key lat : Nat) : (s.later clk key lat).bars = s.bars := by unfold SeqState.later; split <;> rfl
@[simp] theorem SeqState.retire_prevClk (s : SeqState) (clk occ : Nat) (next : Option Nat) : (s.retire clk occ next).prevClk = clk := by cases next <;> rfl
@[simp] theorem SeqState.retire_prevOcc (s : SeqState) (clk occ : Nat) (next : Option Nat) : (s.retire clk occ next).prevOcc = occ := by cases next <;> rfl
@[simp] theorem SeqState.retire_walk (s : SeqState) (clk occ : Nat) (next : Option Nat) : (s.retire clk occ next).walk = none := by cases next <;> rfl
@[simp] theorem SeqState.retire_some_pos (s : SeqState) (clk occ n : Nat) : (s.retire clk occ (some n)).pos = n := rfl
@[simp] theorem SeqState.retire_none_pos (s : SeqState) (clk occ : Nat) : (s.retire clk occ none).pos = (loopAdvance s.pos s.loops).2 := rfl
@[simp] theorem SeqState.putAReg_a (s : SeqState) (n : Nat) (v : AReg) : (s.putAReg n v).a = tput s.a n v := rfl
@[simp] theorem SeqState.putPred_p (s : SeqState) (n : Nat) (v : Bool) : (s.putPred n v).p = tput s.p n v := rfl

end Sys2Proof.Machine
end

