-- ==== Sys2Proof/Laws/State.lean ====
section
/-! SUPPORT. Laws of State: for each update of a step in progress, what each field of it holds afterwards. -/

namespace Sys2Proof.Machine

/-! ### setBank -/

@[simp] theorem Mach.setBank_mem0 (m : Mach) (b : Nat) (v : Bank) : (m.setBank b v).mem0 = m.mem0 := rfl
@[simp] theorem Mach.setBank_writes (m : Mach) (b : Nat) (v : Bank) : (m.setBank b v).writes = m.writes := rfl
@[simp] theorem Mach.setBank_banks (m : Mach) (b : Nat) (v : Bank) : (m.setBank b v).dev.banks = tput m.dev.banks b v := rfl
@[simp] theorem Mach.setBank_cores (m : Mach) (b : Nat) (v : Bank) : (m.setBank b v).dev.cores = m.dev.cores := rfl
@[simp] theorem Mach.setBank_hampers (m : Mach) (b : Nat) (v : Bank) : (m.setBank b v).dev.hampers = m.dev.hampers := rfl
@[simp] theorem Mach.setBank_slices (m : Mach) (b : Nat) (v : Bank) : (m.setBank b v).dev.slices = m.dev.slices := rfl
@[simp] theorem Mach.setBank_dies (m : Mach) (b : Nat) (v : Bank) : (m.setBank b v).dev.dies = m.dev.dies := rfl
@[simp] theorem Mach.setBank_parts (m : Mach) (b : Nat) (v : Bank) : (m.setBank b v).dev.parts = m.dev.parts := rfl
@[simp] theorem Mach.setBank_gangs (m : Mach) (b : Nat) (v : Bank) : (m.setBank b v).dev.gangs = m.dev.gangs := rfl
@[simp] theorem Mach.setBank_plots (m : Mach) (b : Nat) (v : Bank) : (m.setBank b v).dev.plots = m.dev.plots := rfl
@[simp] theorem Mach.setBank_graphs (m : Mach) (b : Nat) (v : Bank) : (m.setBank b v).dev.graphs = m.dev.graphs := rfl
@[simp] theorem Mach.setBank_pkg (m : Mach) (b : Nat) (v : Bank) : (m.setBank b v).dev.pkg = m.dev.pkg := rfl
@[simp] theorem Mach.setBank_actBank (m : Mach) (b : Nat) (v : Bank) : (m.setBank b v).dev.actBank = m.dev.actBank := rfl
@[simp] theorem Mach.setBank_actSeq (m : Mach) (b : Nat) (v : Bank) : (m.setBank b v).dev.actSeq = m.dev.actSeq := rfl
@[simp] theorem Mach.setBank_agenda (m : Mach) (b : Nat) (v : Bank) : (m.setBank b v).dev.agenda = m.dev.agenda := rfl
@[simp] theorem Mach.setBank_ticks (m : Mach) (b : Nat) (v : Bank) : (m.setBank b v).dev.ticks = m.dev.ticks := rfl
@[simp] theorem Mach.setBank_nextOrd (m : Mach) (b : Nat) (v : Bank) : (m.setBank b v).dev.nextOrd = m.dev.nextOrd := rfl

/-! ### modBank -/

@[simp] theorem Mach.modBank_mem0 (m : Mach) (b : Nat) (f : Bank → Bank) : (m.modBank b f).mem0 = m.mem0 := rfl
@[simp] theorem Mach.modBank_writes (m : Mach) (b : Nat) (f : Bank → Bank) : (m.modBank b f).writes = m.writes := rfl
@[simp] theorem Mach.modBank_banks (m : Mach) (b : Nat) (f : Bank → Bank) : (m.modBank b f).dev.banks = tput m.dev.banks b (f (m.bank b)) := rfl
@[simp] theorem Mach.modBank_cores (m : Mach) (b : Nat) (f : Bank → Bank) : (m.modBank b f).dev.cores = m.dev.cores := rfl
@[simp] theorem Mach.modBank_hampers (m : Mach) (b : Nat) (f : Bank → Bank) : (m.modBank b f).dev.hampers = m.dev.hampers := rfl
@[simp] theorem Mach.modBank_slices (m : Mach) (b : Nat) (f : Bank → Bank) : (m.modBank b f).dev.slices = m.dev.slices := rfl
@[simp] theorem Mach.modBank_dies (m : Mach) (b : Nat) (f : Bank → Bank) : (m.modBank b f).dev.dies = m.dev.dies := rfl
@[simp] theorem Mach.modBank_parts (m : Mach) (b : Nat) (f : Bank → Bank) : (m.modBank b f).dev.parts = m.dev.parts := rfl
@[simp] theorem Mach.modBank_gangs (m : Mach) (b : Nat) (f : Bank → Bank) : (m.modBank b f).dev.gangs = m.dev.gangs := rfl
@[simp] theorem Mach.modBank_plots (m : Mach) (b : Nat) (f : Bank → Bank) : (m.modBank b f).dev.plots = m.dev.plots := rfl
@[simp] theorem Mach.modBank_graphs (m : Mach) (b : Nat) (f : Bank → Bank) : (m.modBank b f).dev.graphs = m.dev.graphs := rfl
@[simp] theorem Mach.modBank_pkg (m : Mach) (b : Nat) (f : Bank → Bank) : (m.modBank b f).dev.pkg = m.dev.pkg := rfl
@[simp] theorem Mach.modBank_actBank (m : Mach) (b : Nat) (f : Bank → Bank) : (m.modBank b f).dev.actBank = m.dev.actBank := rfl
@[simp] theorem Mach.modBank_actSeq (m : Mach) (b : Nat) (f : Bank → Bank) : (m.modBank b f).dev.actSeq = m.dev.actSeq := rfl
@[simp] theorem Mach.modBank_agenda (m : Mach) (b : Nat) (f : Bank → Bank) : (m.modBank b f).dev.agenda = m.dev.agenda := rfl
@[simp] theorem Mach.modBank_ticks (m : Mach) (b : Nat) (f : Bank → Bank) : (m.modBank b f).dev.ticks = m.dev.ticks := rfl
@[simp] theorem Mach.modBank_nextOrd (m : Mach) (b : Nat) (f : Bank → Bank) : (m.modBank b f).dev.nextOrd = m.dev.nextOrd := rfl

/-! ### modSeq -/

@[simp] theorem Mach.modSeq_mem0 (m : Mach) (b : Nat) (q : Seq) (f : SeqState → SeqState) : (m.modSeq b q f).mem0 = m.mem0 := rfl
@[simp] theorem Mach.modSeq_writes (m : Mach) (b : Nat) (q : Seq) (f : SeqState → SeqState) : (m.modSeq b q f).writes = m.writes := rfl
@[simp] theorem Mach.modSeq_banks (m : Mach) (b : Nat) (q : Seq) (f : SeqState → SeqState) : (m.modSeq b q f).dev.banks = tput m.dev.banks b ((m.bank b).setSeq q (f ((m.bank b).seq q))) := rfl
@[simp] theorem Mach.modSeq_cores (m : Mach) (b : Nat) (q : Seq) (f : SeqState → SeqState) : (m.modSeq b q f).dev.cores = m.dev.cores := rfl
@[simp] theorem Mach.modSeq_hampers (m : Mach) (b : Nat) (q : Seq) (f : SeqState → SeqState) : (m.modSeq b q f).dev.hampers = m.dev.hampers := rfl
@[simp] theorem Mach.modSeq_slices (m : Mach) (b : Nat) (q : Seq) (f : SeqState → SeqState) : (m.modSeq b q f).dev.slices = m.dev.slices := rfl
@[simp] theorem Mach.modSeq_dies (m : Mach) (b : Nat) (q : Seq) (f : SeqState → SeqState) : (m.modSeq b q f).dev.dies = m.dev.dies := rfl
@[simp] theorem Mach.modSeq_parts (m : Mach) (b : Nat) (q : Seq) (f : SeqState → SeqState) : (m.modSeq b q f).dev.parts = m.dev.parts := rfl
@[simp] theorem Mach.modSeq_gangs (m : Mach) (b : Nat) (q : Seq) (f : SeqState → SeqState) : (m.modSeq b q f).dev.gangs = m.dev.gangs := rfl
@[simp] theorem Mach.modSeq_plots (m : Mach) (b : Nat) (q : Seq) (f : SeqState → SeqState) : (m.modSeq b q f).dev.plots = m.dev.plots := rfl
@[simp] theorem Mach.modSeq_graphs (m : Mach) (b : Nat) (q : Seq) (f : SeqState → SeqState) : (m.modSeq b q f).dev.graphs = m.dev.graphs := rfl
@[simp] theorem Mach.modSeq_pkg (m : Mach) (b : Nat) (q : Seq) (f : SeqState → SeqState) : (m.modSeq b q f).dev.pkg = m.dev.pkg := rfl
@[simp] theorem Mach.modSeq_actBank (m : Mach) (b : Nat) (q : Seq) (f : SeqState → SeqState) : (m.modSeq b q f).dev.actBank = m.dev.actBank := rfl
@[simp] theorem Mach.modSeq_actSeq (m : Mach) (b : Nat) (q : Seq) (f : SeqState → SeqState) : (m.modSeq b q f).dev.actSeq = m.dev.actSeq := rfl
@[simp] theorem Mach.modSeq_agenda (m : Mach) (b : Nat) (q : Seq) (f : SeqState → SeqState) : (m.modSeq b q f).dev.agenda = m.dev.agenda := rfl
@[simp] theorem Mach.modSeq_ticks (m : Mach) (b : Nat) (q : Seq) (f : SeqState → SeqState) : (m.modSeq b q f).dev.ticks = m.dev.ticks := rfl
@[simp] theorem Mach.modSeq_nextOrd (m : Mach) (b : Nat) (q : Seq) (f : SeqState → SeqState) : (m.modSeq b q f).dev.nextOrd = m.dev.nextOrd := rfl

/-! ### modCore -/

@[simp] theorem Mach.modCore_mem0 (m : Mach) (c : Nat) (f : CoreState → CoreState) : (m.modCore c f).mem0 = m.mem0 := rfl
@[simp] theorem Mach.modCore_writes (m : Mach) (c : Nat) (f : CoreState → CoreState) : (m.modCore c f).writes = m.writes := rfl
@[simp] theorem Mach.modCore_banks (m : Mach) (c : Nat) (f : CoreState → CoreState) : (m.modCore c f).dev.banks = m.dev.banks := rfl
@[simp] theorem Mach.modCore_cores (m : Mach) (c : Nat) (f : CoreState → CoreState) : (m.modCore c f).dev.cores = tput m.dev.cores c (f (m.core c)) := rfl
@[simp] theorem Mach.modCore_hampers (m : Mach) (c : Nat) (f : CoreState → CoreState) : (m.modCore c f).dev.hampers = m.dev.hampers := rfl
@[simp] theorem Mach.modCore_slices (m : Mach) (c : Nat) (f : CoreState → CoreState) : (m.modCore c f).dev.slices = m.dev.slices := rfl
@[simp] theorem Mach.modCore_dies (m : Mach) (c : Nat) (f : CoreState → CoreState) : (m.modCore c f).dev.dies = m.dev.dies := rfl
@[simp] theorem Mach.modCore_parts (m : Mach) (c : Nat) (f : CoreState → CoreState) : (m.modCore c f).dev.parts = m.dev.parts := rfl
@[simp] theorem Mach.modCore_gangs (m : Mach) (c : Nat) (f : CoreState → CoreState) : (m.modCore c f).dev.gangs = m.dev.gangs := rfl
@[simp] theorem Mach.modCore_plots (m : Mach) (c : Nat) (f : CoreState → CoreState) : (m.modCore c f).dev.plots = m.dev.plots := rfl
@[simp] theorem Mach.modCore_graphs (m : Mach) (c : Nat) (f : CoreState → CoreState) : (m.modCore c f).dev.graphs = m.dev.graphs := rfl
@[simp] theorem Mach.modCore_pkg (m : Mach) (c : Nat) (f : CoreState → CoreState) : (m.modCore c f).dev.pkg = m.dev.pkg := rfl
@[simp] theorem Mach.modCore_actBank (m : Mach) (c : Nat) (f : CoreState → CoreState) : (m.modCore c f).dev.actBank = m.dev.actBank := rfl
@[simp] theorem Mach.modCore_actSeq (m : Mach) (c : Nat) (f : CoreState → CoreState) : (m.modCore c f).dev.actSeq = m.dev.actSeq := rfl
@[simp] theorem Mach.modCore_agenda (m : Mach) (c : Nat) (f : CoreState → CoreState) : (m.modCore c f).dev.agenda = m.dev.agenda := rfl
@[simp] theorem Mach.modCore_ticks (m : Mach) (c : Nat) (f : CoreState → CoreState) : (m.modCore c f).dev.ticks = m.dev.ticks := rfl
@[simp] theorem Mach.modCore_nextOrd (m : Mach) (c : Nat) (f : CoreState → CoreState) : (m.modCore c f).dev.nextOrd = m.dev.nextOrd := rfl

/-! ### modSlice -/

@[simp] theorem Mach.modSlice_mem0 (m : Mach) (i : Nat) (f : Slice → Slice) : (m.modSlice i f).mem0 = m.mem0 := rfl
@[simp] theorem Mach.modSlice_writes (m : Mach) (i : Nat) (f : Slice → Slice) : (m.modSlice i f).writes = m.writes := rfl
@[simp] theorem Mach.modSlice_banks (m : Mach) (i : Nat) (f : Slice → Slice) : (m.modSlice i f).dev.banks = m.dev.banks := rfl
@[simp] theorem Mach.modSlice_cores (m : Mach) (i : Nat) (f : Slice → Slice) : (m.modSlice i f).dev.cores = m.dev.cores := rfl
@[simp] theorem Mach.modSlice_hampers (m : Mach) (i : Nat) (f : Slice → Slice) : (m.modSlice i f).dev.hampers = m.dev.hampers := rfl
@[simp] theorem Mach.modSlice_slices (m : Mach) (i : Nat) (f : Slice → Slice) : (m.modSlice i f).dev.slices = tput m.dev.slices i (f (m.slice i)) := rfl
@[simp] theorem Mach.modSlice_dies (m : Mach) (i : Nat) (f : Slice → Slice) : (m.modSlice i f).dev.dies = m.dev.dies := rfl
@[simp] theorem Mach.modSlice_parts (m : Mach) (i : Nat) (f : Slice → Slice) : (m.modSlice i f).dev.parts = m.dev.parts := rfl
@[simp] theorem Mach.modSlice_gangs (m : Mach) (i : Nat) (f : Slice → Slice) : (m.modSlice i f).dev.gangs = m.dev.gangs := rfl
@[simp] theorem Mach.modSlice_plots (m : Mach) (i : Nat) (f : Slice → Slice) : (m.modSlice i f).dev.plots = m.dev.plots := rfl
@[simp] theorem Mach.modSlice_graphs (m : Mach) (i : Nat) (f : Slice → Slice) : (m.modSlice i f).dev.graphs = m.dev.graphs := rfl
@[simp] theorem Mach.modSlice_pkg (m : Mach) (i : Nat) (f : Slice → Slice) : (m.modSlice i f).dev.pkg = m.dev.pkg := rfl
@[simp] theorem Mach.modSlice_actBank (m : Mach) (i : Nat) (f : Slice → Slice) : (m.modSlice i f).dev.actBank = m.dev.actBank := rfl
@[simp] theorem Mach.modSlice_actSeq (m : Mach) (i : Nat) (f : Slice → Slice) : (m.modSlice i f).dev.actSeq = m.dev.actSeq := rfl
@[simp] theorem Mach.modSlice_agenda (m : Mach) (i : Nat) (f : Slice → Slice) : (m.modSlice i f).dev.agenda = m.dev.agenda := rfl
@[simp] theorem Mach.modSlice_ticks (m : Mach) (i : Nat) (f : Slice → Slice) : (m.modSlice i f).dev.ticks = m.dev.ticks := rfl
@[simp] theorem Mach.modSlice_nextOrd (m : Mach) (i : Nat) (f : Slice → Slice) : (m.modSlice i f).dev.nextOrd = m.dev.nextOrd := rfl

/-! ### modDie -/

@[simp] theorem Mach.modDie_mem0 (m : Mach) (i : Nat) (f : Die → Die) : (m.modDie i f).mem0 = m.mem0 := rfl
@[simp] theorem Mach.modDie_writes (m : Mach) (i : Nat) (f : Die → Die) : (m.modDie i f).writes = m.writes := rfl
@[simp] theorem Mach.modDie_banks (m : Mach) (i : Nat) (f : Die → Die) : (m.modDie i f).dev.banks = m.dev.banks := rfl
@[simp] theorem Mach.modDie_cores (m : Mach) (i : Nat) (f : Die → Die) : (m.modDie i f).dev.cores = m.dev.cores := rfl
@[simp] theorem Mach.modDie_hampers (m : Mach) (i : Nat) (f : Die → Die) : (m.modDie i f).dev.hampers = m.dev.hampers := rfl
@[simp] theorem Mach.modDie_slices (m : Mach) (i : Nat) (f : Die → Die) : (m.modDie i f).dev.slices = m.dev.slices := rfl
@[simp] theorem Mach.modDie_dies (m : Mach) (i : Nat) (f : Die → Die) : (m.modDie i f).dev.dies = tput m.dev.dies i (f (m.dev.die i)) := rfl
@[simp] theorem Mach.modDie_parts (m : Mach) (i : Nat) (f : Die → Die) : (m.modDie i f).dev.parts = m.dev.parts := rfl
@[simp] theorem Mach.modDie_gangs (m : Mach) (i : Nat) (f : Die → Die) : (m.modDie i f).dev.gangs = m.dev.gangs := rfl
@[simp] theorem Mach.modDie_plots (m : Mach) (i : Nat) (f : Die → Die) : (m.modDie i f).dev.plots = m.dev.plots := rfl
@[simp] theorem Mach.modDie_graphs (m : Mach) (i : Nat) (f : Die → Die) : (m.modDie i f).dev.graphs = m.dev.graphs := rfl
@[simp] theorem Mach.modDie_pkg (m : Mach) (i : Nat) (f : Die → Die) : (m.modDie i f).dev.pkg = m.dev.pkg := rfl
@[simp] theorem Mach.modDie_actBank (m : Mach) (i : Nat) (f : Die → Die) : (m.modDie i f).dev.actBank = m.dev.actBank := rfl
@[simp] theorem Mach.modDie_actSeq (m : Mach) (i : Nat) (f : Die → Die) : (m.modDie i f).dev.actSeq = m.dev.actSeq := rfl
@[simp] theorem Mach.modDie_agenda (m : Mach) (i : Nat) (f : Die → Die) : (m.modDie i f).dev.agenda = m.dev.agenda := rfl
@[simp] theorem Mach.modDie_ticks (m : Mach) (i : Nat) (f : Die → Die) : (m.modDie i f).dev.ticks = m.dev.ticks := rfl
@[simp] theorem Mach.modDie_nextOrd (m : Mach) (i : Nat) (f : Die → Die) : (m.modDie i f).dev.nextOrd = m.dev.nextOrd := rfl

/-! ### modPart -/

@[simp] theorem Mach.modPart_mem0 (m : Mach) (p : Nat) (f : Part → Part) : (m.modPart p f).mem0 = m.mem0 := rfl
@[simp] theorem Mach.modPart_writes (m : Mach) (p : Nat) (f : Part → Part) : (m.modPart p f).writes = m.writes := rfl
@[simp] theorem Mach.modPart_banks (m : Mach) (p : Nat) (f : Part → Part) : (m.modPart p f).dev.banks = m.dev.banks := rfl
@[simp] theorem Mach.modPart_cores (m : Mach) (p : Nat) (f : Part → Part) : (m.modPart p f).dev.cores = m.dev.cores := rfl
@[simp] theorem Mach.modPart_hampers (m : Mach) (p : Nat) (f : Part → Part) : (m.modPart p f).dev.hampers = m.dev.hampers := rfl
@[simp] theorem Mach.modPart_slices (m : Mach) (p : Nat) (f : Part → Part) : (m.modPart p f).dev.slices = m.dev.slices := rfl
@[simp] theorem Mach.modPart_dies (m : Mach) (p : Nat) (f : Part → Part) : (m.modPart p f).dev.dies = m.dev.dies := rfl
@[simp] theorem Mach.modPart_parts (m : Mach) (p : Nat) (f : Part → Part) : (m.modPart p f).dev.parts = tput m.dev.parts p (f (m.dev.part p)) := rfl
@[simp] theorem Mach.modPart_gangs (m : Mach) (p : Nat) (f : Part → Part) : (m.modPart p f).dev.gangs = m.dev.gangs := rfl
@[simp] theorem Mach.modPart_plots (m : Mach) (p : Nat) (f : Part → Part) : (m.modPart p f).dev.plots = m.dev.plots := rfl
@[simp] theorem Mach.modPart_graphs (m : Mach) (p : Nat) (f : Part → Part) : (m.modPart p f).dev.graphs = m.dev.graphs := rfl
@[simp] theorem Mach.modPart_pkg (m : Mach) (p : Nat) (f : Part → Part) : (m.modPart p f).dev.pkg = m.dev.pkg := rfl
@[simp] theorem Mach.modPart_actBank (m : Mach) (p : Nat) (f : Part → Part) : (m.modPart p f).dev.actBank = m.dev.actBank := rfl
@[simp] theorem Mach.modPart_actSeq (m : Mach) (p : Nat) (f : Part → Part) : (m.modPart p f).dev.actSeq = m.dev.actSeq := rfl
@[simp] theorem Mach.modPart_agenda (m : Mach) (p : Nat) (f : Part → Part) : (m.modPart p f).dev.agenda = m.dev.agenda := rfl
@[simp] theorem Mach.modPart_ticks (m : Mach) (p : Nat) (f : Part → Part) : (m.modPart p f).dev.ticks = m.dev.ticks := rfl
@[simp] theorem Mach.modPart_nextOrd (m : Mach) (p : Nat) (f : Part → Part) : (m.modPart p f).dev.nextOrd = m.dev.nextOrd := rfl

/-! ### modPkg -/

@[simp] theorem Mach.modPkg_mem0 (m : Mach) (f : Pkg → Pkg) : (m.modPkg f).mem0 = m.mem0 := rfl
@[simp] theorem Mach.modPkg_writes (m : Mach) (f : Pkg → Pkg) : (m.modPkg f).writes = m.writes := rfl
@[simp] theorem Mach.modPkg_banks (m : Mach) (f : Pkg → Pkg) : (m.modPkg f).dev.banks = m.dev.banks := rfl
@[simp] theorem Mach.modPkg_cores (m : Mach) (f : Pkg → Pkg) : (m.modPkg f).dev.cores = m.dev.cores := rfl
@[simp] theorem Mach.modPkg_hampers (m : Mach) (f : Pkg → Pkg) : (m.modPkg f).dev.hampers = m.dev.hampers := rfl
@[simp] theorem Mach.modPkg_slices (m : Mach) (f : Pkg → Pkg) : (m.modPkg f).dev.slices = m.dev.slices := rfl
@[simp] theorem Mach.modPkg_dies (m : Mach) (f : Pkg → Pkg) : (m.modPkg f).dev.dies = m.dev.dies := rfl
@[simp] theorem Mach.modPkg_parts (m : Mach) (f : Pkg → Pkg) : (m.modPkg f).dev.parts = m.dev.parts := rfl
@[simp] theorem Mach.modPkg_gangs (m : Mach) (f : Pkg → Pkg) : (m.modPkg f).dev.gangs = m.dev.gangs := rfl
@[simp] theorem Mach.modPkg_plots (m : Mach) (f : Pkg → Pkg) : (m.modPkg f).dev.plots = m.dev.plots := rfl
@[simp] theorem Mach.modPkg_graphs (m : Mach) (f : Pkg → Pkg) : (m.modPkg f).dev.graphs = m.dev.graphs := rfl
@[simp] theorem Mach.modPkg_pkg (m : Mach) (f : Pkg → Pkg) : (m.modPkg f).dev.pkg = f m.dev.pkg := rfl
@[simp] theorem Mach.modPkg_actBank (m : Mach) (f : Pkg → Pkg) : (m.modPkg f).dev.actBank = m.dev.actBank := rfl
@[simp] theorem Mach.modPkg_actSeq (m : Mach) (f : Pkg → Pkg) : (m.modPkg f).dev.actSeq = m.dev.actSeq := rfl
@[simp] theorem Mach.modPkg_agenda (m : Mach) (f : Pkg → Pkg) : (m.modPkg f).dev.agenda = m.dev.agenda := rfl
@[simp] theorem Mach.modPkg_ticks (m : Mach) (f : Pkg → Pkg) : (m.modPkg f).dev.ticks = m.dev.ticks := rfl
@[simp] theorem Mach.modPkg_nextOrd (m : Mach) (f : Pkg → Pkg) : (m.modPkg f).dev.nextOrd = m.dev.nextOrd := rfl

/-! ### modGang -/

@[simp] theorem Mach.modGang_mem0 (m : Mach) (g : Nat) (f : Gang → Gang) : (m.modGang g f).mem0 = m.mem0 := by unfold Mach.modGang; split <;> rfl
@[simp] theorem Mach.modGang_writes (m : Mach) (g : Nat) (f : Gang → Gang) : (m.modGang g f).writes = m.writes := by unfold Mach.modGang; split <;> rfl
@[simp] theorem Mach.modGang_banks (m : Mach) (g : Nat) (f : Gang → Gang) : (m.modGang g f).dev.banks = m.dev.banks := by unfold Mach.modGang; split <;> rfl
@[simp] theorem Mach.modGang_cores (m : Mach) (g : Nat) (f : Gang → Gang) : (m.modGang g f).dev.cores = m.dev.cores := by unfold Mach.modGang; split <;> rfl
@[simp] theorem Mach.modGang_hampers (m : Mach) (g : Nat) (f : Gang → Gang) : (m.modGang g f).dev.hampers = m.dev.hampers := by unfold Mach.modGang; split <;> rfl
@[simp] theorem Mach.modGang_slices (m : Mach) (g : Nat) (f : Gang → Gang) : (m.modGang g f).dev.slices = m.dev.slices := by unfold Mach.modGang; split <;> rfl
@[simp] theorem Mach.modGang_dies (m : Mach) (g : Nat) (f : Gang → Gang) : (m.modGang g f).dev.dies = m.dev.dies := by unfold Mach.modGang; split <;> rfl
@[simp] theorem Mach.modGang_parts (m : Mach) (g : Nat) (f : Gang → Gang) : (m.modGang g f).dev.parts = m.dev.parts := by unfold Mach.modGang; split <;> rfl
@[simp] theorem Mach.modGang_plots (m : Mach) (g : Nat) (f : Gang → Gang) : (m.modGang g f).dev.plots = m.dev.plots := by unfold Mach.modGang; split <;> rfl
@[simp] theorem Mach.modGang_graphs (m : Mach) (g : Nat) (f : Gang → Gang) : (m.modGang g f).dev.graphs = m.dev.graphs := by unfold Mach.modGang; split <;> rfl
@[simp] theorem Mach.modGang_pkg (m : Mach) (g : Nat) (f : Gang → Gang) : (m.modGang g f).dev.pkg = m.dev.pkg := by unfold Mach.modGang; split <;> rfl
@[simp] theorem Mach.modGang_actBank (m : Mach) (g : Nat) (f : Gang → Gang) : (m.modGang g f).dev.actBank = m.dev.actBank := by unfold Mach.modGang; split <;> rfl
@[simp] theorem Mach.modGang_actSeq (m : Mach) (g : Nat) (f : Gang → Gang) : (m.modGang g f).dev.actSeq = m.dev.actSeq := by unfold Mach.modGang; split <;> rfl
@[simp] theorem Mach.modGang_agenda (m : Mach) (g : Nat) (f : Gang → Gang) : (m.modGang g f).dev.agenda = m.dev.agenda := by unfold Mach.modGang; split <;> rfl
@[simp] theorem Mach.modGang_ticks (m : Mach) (g : Nat) (f : Gang → Gang) : (m.modGang g f).dev.ticks = m.dev.ticks := by unfold Mach.modGang; split <;> rfl
@[simp] theorem Mach.modGang_nextOrd (m : Mach) (g : Nat) (f : Gang → Gang) : (m.modGang g f).dev.nextOrd = m.dev.nextOrd := by unfold Mach.modGang; split <;> rfl

/-! ### setHamper -/

@[simp] theorem Mach.setHamper_mem0 (m : Mach) (h : Nat) (v : List HampEnt) : (m.setHamper h v).mem0 = m.mem0 := rfl
@[simp] theorem Mach.setHamper_writes (m : Mach) (h : Nat) (v : List HampEnt) : (m.setHamper h v).writes = m.writes := rfl
@[simp] theorem Mach.setHamper_banks (m : Mach) (h : Nat) (v : List HampEnt) : (m.setHamper h v).dev.banks = m.dev.banks := rfl
@[simp] theorem Mach.setHamper_cores (m : Mach) (h : Nat) (v : List HampEnt) : (m.setHamper h v).dev.cores = m.dev.cores := rfl
@[simp] theorem Mach.setHamper_hampers (m : Mach) (h : Nat) (v : List HampEnt) : (m.setHamper h v).dev.hampers = tput m.dev.hampers h v := rfl
@[simp] theorem Mach.setHamper_slices (m : Mach) (h : Nat) (v : List HampEnt) : (m.setHamper h v).dev.slices = m.dev.slices := rfl
@[simp] theorem Mach.setHamper_dies (m : Mach) (h : Nat) (v : List HampEnt) : (m.setHamper h v).dev.dies = m.dev.dies := rfl
@[simp] theorem Mach.setHamper_parts (m : Mach) (h : Nat) (v : List HampEnt) : (m.setHamper h v).dev.parts = m.dev.parts := rfl
@[simp] theorem Mach.setHamper_gangs (m : Mach) (h : Nat) (v : List HampEnt) : (m.setHamper h v).dev.gangs = m.dev.gangs := rfl
@[simp] theorem Mach.setHamper_plots (m : Mach) (h : Nat) (v : List HampEnt) : (m.setHamper h v).dev.plots = m.dev.plots := rfl
@[simp] theorem Mach.setHamper_graphs (m : Mach) (h : Nat) (v : List HampEnt) : (m.setHamper h v).dev.graphs = m.dev.graphs := rfl
@[simp] theorem Mach.setHamper_pkg (m : Mach) (h : Nat) (v : List HampEnt) : (m.setHamper h v).dev.pkg = m.dev.pkg := rfl
@[simp] theorem Mach.setHamper_actBank (m : Mach) (h : Nat) (v : List HampEnt) : (m.setHamper h v).dev.actBank = m.dev.actBank := rfl
@[simp] theorem Mach.setHamper_actSeq (m : Mach) (h : Nat) (v : List HampEnt) : (m.setHamper h v).dev.actSeq = m.dev.actSeq := rfl
@[simp] theorem Mach.setHamper_agenda (m : Mach) (h : Nat) (v : List HampEnt) : (m.setHamper h v).dev.agenda = m.dev.agenda := rfl
@[simp] theorem Mach.setHamper_ticks (m : Mach) (h : Nat) (v : List HampEnt) : (m.setHamper h v).dev.ticks = m.dev.ticks := rfl
@[simp] theorem Mach.setHamper_nextOrd (m : Mach) (h : Nat) (v : List HampEnt) : (m.setHamper h v).dev.nextOrd = m.dev.nextOrd := rfl

/-! ### put -/

@[simp] theorem Mach.put_mem0 (m : Mach) (a : Nat) (bs : List Byte) : (m.put a bs).mem0 = m.mem0 := rfl
@[simp] theorem Mach.put_writes (m : Mach) (a : Nat) (bs : List Byte) : (m.put a bs).writes = (a, bs) :: m.writes := rfl
@[simp] theorem Mach.put_dev (m : Mach) (a : Nat) (bs : List Byte) : (m.put a bs).dev = m.dev := rfl

/-! ### addTrap -/

@[simp] theorem Mach.addTrap_mem0 (m : Mach) (b : Nat) (t : TrapEnt) : (m.addTrap b t).mem0 = m.mem0 := rfl
@[simp] theorem Mach.addTrap_writes (m : Mach) (b : Nat) (t : TrapEnt) : (m.addTrap b t).writes = m.writes := rfl
@[simp] theorem Mach.addTrap_cores (m : Mach) (b : Nat) (t : TrapEnt) : (m.addTrap b t).dev.cores = m.dev.cores := rfl
@[simp] theorem Mach.addTrap_hampers (m : Mach) (b : Nat) (t : TrapEnt) : (m.addTrap b t).dev.hampers = m.dev.hampers := rfl
@[simp] theorem Mach.addTrap_slices (m : Mach) (b : Nat) (t : TrapEnt) : (m.addTrap b t).dev.slices = m.dev.slices := rfl
@[simp] theorem Mach.addTrap_dies (m : Mach) (b : Nat) (t : TrapEnt) : (m.addTrap b t).dev.dies = m.dev.dies := rfl
@[simp] theorem Mach.addTrap_parts (m : Mach) (b : Nat) (t : TrapEnt) : (m.addTrap b t).dev.parts = m.dev.parts := rfl
@[simp] theorem Mach.addTrap_gangs (m : Mach) (b : Nat) (t : TrapEnt) : (m.addTrap b t).dev.gangs = m.dev.gangs := rfl
@[simp] theorem Mach.addTrap_plots (m : Mach) (b : Nat) (t : TrapEnt) : (m.addTrap b t).dev.plots = m.dev.plots := rfl
@[simp] theorem Mach.addTrap_graphs (m : Mach) (b : Nat) (t : TrapEnt) : (m.addTrap b t).dev.graphs = m.dev.graphs := rfl
@[simp] theorem Mach.addTrap_pkg (m : Mach) (b : Nat) (t : TrapEnt) : (m.addTrap b t).dev.pkg = m.dev.pkg := rfl
@[simp] theorem Mach.addTrap_actBank (m : Mach) (b : Nat) (t : TrapEnt) : (m.addTrap b t).dev.actBank = m.dev.actBank := rfl
@[simp] theorem Mach.addTrap_actSeq (m : Mach) (b : Nat) (t : TrapEnt) : (m.addTrap b t).dev.actSeq = m.dev.actSeq := rfl
@[simp] theorem Mach.addTrap_agenda (m : Mach) (b : Nat) (t : TrapEnt) : (m.addTrap b t).dev.agenda = m.dev.agenda := rfl
@[simp] theorem Mach.addTrap_ticks (m : Mach) (b : Nat) (t : TrapEnt) : (m.addTrap b t).dev.ticks = m.dev.ticks := rfl
@[simp] theorem Mach.addTrap_nextOrd (m : Mach) (b : Nat) (t : TrapEnt) : (m.addTrap b t).dev.nextOrd = m.dev.nextOrd := rfl

/-! ### addRecord -/

@[simp] theorem Mach.addRecord_mem0 (m : Mach) (p : Nat) (r : FaultRec) : (m.addRecord p r).mem0 = m.mem0 := rfl
@[simp] theorem Mach.addRecord_writes (m : Mach) (p : Nat) (r : FaultRec) : (m.addRecord p r).writes = m.writes := rfl
@[simp] theorem Mach.addRecord_banks (m : Mach) (p : Nat) (r : FaultRec) : (m.addRecord p r).dev.banks = m.dev.banks := rfl
@[simp] theorem Mach.addRecord_cores (m : Mach) (p : Nat) (r : FaultRec) : (m.addRecord p r).dev.cores = m.dev.cores := rfl
@[simp] theorem Mach.addRecord_hampers (m : Mach) (p : Nat) (r : FaultRec) : (m.addRecord p r).dev.hampers = m.dev.hampers := rfl
@[simp] theorem Mach.addRecord_slices (m : Mach) (p : Nat) (r : FaultRec) : (m.addRecord p r).dev.slices = m.dev.slices := rfl
@[simp] theorem Mach.addRecord_dies (m : Mach) (p : Nat) (r : FaultRec) : (m.addRecord p r).dev.dies = m.dev.dies := rfl
@[simp] theorem Mach.addRecord_gangs (m : Mach) (p : Nat) (r : FaultRec) : (m.addRecord p r).dev.gangs = m.dev.gangs := rfl
@[simp] theorem Mach.addRecord_plots (m : Mach) (p : Nat) (r : FaultRec) : (m.addRecord p r).dev.plots = m.dev.plots := rfl
@[simp] theorem Mach.addRecord_graphs (m : Mach) (p : Nat) (r : FaultRec) : (m.addRecord p r).dev.graphs = m.dev.graphs := rfl
@[simp] theorem Mach.addRecord_pkg (m : Mach) (p : Nat) (r : FaultRec) : (m.addRecord p r).dev.pkg = m.dev.pkg := rfl
@[simp] theorem Mach.addRecord_actBank (m : Mach) (p : Nat) (r : FaultRec) : (m.addRecord p r).dev.actBank = m.dev.actBank := rfl
@[simp] theorem Mach.addRecord_actSeq (m : Mach) (p : Nat) (r : FaultRec) : (m.addRecord p r).dev.actSeq = m.dev.actSeq := rfl
@[simp] theorem Mach.addRecord_agenda (m : Mach) (p : Nat) (r : FaultRec) : (m.addRecord p r).dev.agenda = m.dev.agenda := rfl
@[simp] theorem Mach.addRecord_ticks (m : Mach) (p : Nat) (r : FaultRec) : (m.addRecord p r).dev.ticks = m.dev.ticks := rfl
@[simp] theorem Mach.addRecord_nextOrd (m : Mach) (p : Nat) (r : FaultRec) : (m.addRecord p r).dev.nextOrd = m.dev.nextOrd := rfl

/-! ### nextOrd -/

@[simp] theorem Mach.nextOrd_fst (m : Mach) : m.nextOrd.1 = m.dev.nextOrd := rfl
@[simp] theorem Mach.nextOrd_mem0 (m : Mach) : m.nextOrd.2.mem0 = m.mem0 := rfl
@[simp] theorem Mach.nextOrd_writes (m : Mach) : m.nextOrd.2.writes = m.writes := rfl
@[simp] theorem Mach.nextOrd_banks (m : Mach) : m.nextOrd.2.dev.banks = m.dev.banks := rfl
@[simp] theorem Mach.nextOrd_cores (m : Mach) : m.nextOrd.2.dev.cores = m.dev.cores := rfl
@[simp] theorem Mach.nextOrd_hampers (m : Mach) : m.nextOrd.2.dev.hampers = m.dev.hampers := rfl
@[simp] theorem Mach.nextOrd_slices (m : Mach) : m.nextOrd.2.dev.slices = m.dev.slices := rfl
@[simp] theorem Mach.nextOrd_dies (m : Mach) : m.nextOrd.2.dev.dies = m.dev.dies := rfl
@[simp] theorem Mach.nextOrd_parts (m : Mach) : m.nextOrd.2.dev.parts = m.dev.parts := rfl
@[simp] theorem Mach.nextOrd_gangs (m : Mach) : m.nextOrd.2.dev.gangs = m.dev.gangs := rfl
@[simp] theorem Mach.nextOrd_plots (m : Mach) : m.nextOrd.2.dev.plots = m.dev.plots := rfl
@[simp] theorem Mach.nextOrd_graphs (m : Mach) : m.nextOrd.2.dev.graphs = m.dev.graphs := rfl
@[simp] theorem Mach.nextOrd_pkg (m : Mach) : m.nextOrd.2.dev.pkg = m.dev.pkg := rfl
@[simp] theorem Mach.nextOrd_actBank (m : Mach) : m.nextOrd.2.dev.actBank = m.dev.actBank := rfl
@[simp] theorem Mach.nextOrd_actSeq (m : Mach) : m.nextOrd.2.dev.actSeq = m.dev.actSeq := rfl
@[simp] theorem Mach.nextOrd_agenda (m : Mach) : m.nextOrd.2.dev.agenda = m.dev.agenda := rfl
@[simp] theorem Mach.nextOrd_ticks (m : Mach) : m.nextOrd.2.dev.ticks = m.dev.ticks := rfl
@[simp] theorem Mach.nextOrd_nextOrd (m : Mach) : m.nextOrd.2.dev.nextOrd = m.dev.nextOrd + 1 := rfl

/-! ### of and close -/

@[simp] theorem Mach.of_mem0 (s : State) : (Mach.of s).mem0 = s.mem := rfl
@[simp] theorem Mach.of_writes (s : State) : (Mach.of s).writes = [] := rfl
@[simp] theorem Mach.of_dev (s : State) : (Mach.of s).dev = s.dev := rfl
@[simp] theorem Mach.close_dev (m : Mach) (s : State) : (m.close s).dev = m.dev := rfl
@[simp] theorem Mach.close_mem (m : Mach) (s : State) : (m.close s).mem = applyWrites s.mem m.writes := rfl

end Sys2Proof.Machine
end

