-- ==== Sys2Proof/Laws/Table.lean ====
section
/-! SUPPORT. Laws of tables: reading a key after a table operation. -/

namespace Sys2Proof.Machine

variable {α : Type}

@[simp] theorem tget_nil (d : α) (k : Nat) : tget d [] k = d := rfl
@[simp] theorem tfind_nil (k : Nat) : tfind ([] : Table α) k = none := rfl

@[simp] theorem tget_tput_same (d : α) (t : Table α) (k : Nat) (v : α) : tget d (tput t k v) k = v := by
  induction t with
  | nil => simp [tput, tget]
  | cons p t ih =>
    obtain ⟨k', v'⟩ := p
    simp only [tput]
    split
    · simp [tget]
    · split
      · simp [tget]
      · simp [tget, *]

theorem tget_tput_ne (d : α) (t : Table α) (k k' : Nat) (v : α) (h : k' ≠ k) : tget d (tput t k v) k' = tget d t k' := by
  induction t with
  | nil => simp [tput, tget, h]
  | cons p t ih =>
    obtain ⟨j, w⟩ := p
    simp only [tput]
    split
    · simp [tget, h]
    · split
      · subst_vars; simp [tget, h]
      · simp [tget, ih]

/-- Reading after a write: the value written at its key, and what stood there at every other. -/
theorem tget_tput (d : α) (t : Table α) (k k' : Nat) (v : α) :
    tget d (tput t k v) k' = if k' = k then v else tget d t k' := by
  split
  · subst_vars; simp
  · exact tget_tput_ne d t k k' v ‹_›

@[simp] theorem tfind_tput_same (t : Table α) (k : Nat) (v : α) : tfind (tput t k v) k = some v := by
  induction t with
  | nil => simp [tput, tfind]
  | cons p t ih =>
    obtain ⟨k', v'⟩ := p
    simp only [tput]
    split
    · simp [tfind]
    · split
      · simp [tfind]
      · simp [tfind, *]

theorem tfind_tput_ne (t : Table α) (k k' : Nat) (v : α) (h : k' ≠ k) : tfind (tput t k v) k' = tfind t k' := by
  induction t with
  | nil => simp [tput, tfind, h]
  | cons p t ih =>
    obtain ⟨j, w⟩ := p
    simp only [tput]
    split
    · simp [tfind, h]
    · split
      · subst_vars; simp [tfind, h]
      · simp [tfind, ih]

theorem tget_eq_tfind (d : α) (t : Table α) (k : Nat) : tget d t k = (tfind t k).getD d := by
  induction t with
  | nil => rfl
  | cons p t ih =>
    obtain ⟨j, w⟩ := p
    simp only [tget, tfind]
    split
    · rfl
    · exact ih

@[simp] theorem tput_tput_same (t : Table α) (k : Nat) (v w : α) : tput (tput t k v) k w = tput t k w := by
  induction t with
  | nil => simp [tput]
  | cons p t ih =>
    obtain ⟨k', v'⟩ := p
    simp only [tput]
    split
    · simp [tput]
    · split
      · simp [tput]
      · simp [tput, *]

theorem tfind_tdel (t : Table α) (k k' : Nat) : tfind (tdel t k) k' = if k' = k then none else tfind t k' := by
  induction t with
  | nil => simp [tdel, tfind]
  | cons p t ih =>
    obtain ⟨j, w⟩ := p
    by_cases hj : j = k
    · subst hj
      have e : tdel ((j, w) :: t) j = tdel t j := by simp [tdel]
      rw [e, ih]
      by_cases h : k' = j <;> simp [tfind, h]
    · have e : tdel ((j, w) :: t) k = (j, w) :: tdel t k := by simp [tdel, hj]
      rw [e]
      by_cases h : k' = j
      · subst h; simp [tfind, hj]
      · simp [tfind, h, ih]

/-! ## Banks of a step in progress -/

@[simp] theorem Mach.setBank_bank (m : Mach) (b : Nat) (v : Bank) : (m.setBank b v).bank b = v := tget_tput_same _ _ _ _

theorem Mach.setBank_bank_ne (m : Mach) (b b' : Nat) (v : Bank) (h : b' ≠ b) : (m.setBank b v).bank b' = m.bank b' :=
  tget_tput_ne _ _ _ _ _ h

@[simp] theorem Mach.modBank_bank (m : Mach) (b : Nat) (f : Bank → Bank) : (m.modBank b f).bank b = f (m.bank b) :=
  tget_tput_same _ _ _ _

theorem Mach.modBank_bank_ne (m : Mach) (b b' : Nat) (f : Bank → Bank) (h : b' ≠ b) :
    (m.modBank b f).bank b' = m.bank b' := tget_tput_ne _ _ _ _ _ h

@[simp] theorem Mach.modSeq_bank (m : Mach) (b : Nat) (q : Seq) (f : SeqState → SeqState) :
    (m.modSeq b q f).bank b = (m.bank b).setSeq q (f ((m.bank b).seq q)) := tget_tput_same _ _ _ _

theorem Mach.modSeq_bank_ne (m : Mach) (b b' : Nat) (q : Seq) (f : SeqState → SeqState) (h : b' ≠ b) :
    (m.modSeq b q f).bank b' = m.bank b' := tget_tput_ne _ _ _ _ _ h

@[simp] theorem Mach.modPart_part (m : Mach) (p : Nat) (f : Part → Part) : (m.modPart p f).dev.part p = f (m.dev.part p) :=
  tget_tput_same _ _ _ _

theorem Mach.modPart_part_ne (m : Mach) (p p' : Nat) (f : Part → Part) (h : p' ≠ p) :
    (m.modPart p f).dev.part p' = m.dev.part p' := tget_tput_ne _ _ _ _ _ h

@[simp] theorem Mach.modCore_core (m : Mach) (c : Nat) (f : CoreState → CoreState) :
    (m.modCore c f).core c = f (m.core c) := tget_tput_same _ _ _ _

@[simp] theorem Mach.modSlice_slice (m : Mach) (i : Nat) (f : Slice → Slice) : (m.modSlice i f).slice i = f (m.slice i) :=
  tget_tput_same _ _ _ _

@[simp] theorem Mach.modDie_die (m : Mach) (i : Nat) (f : Die → Die) : (m.modDie i f).dev.die i = f (m.dev.die i) :=
  tget_tput_same _ _ _ _

end Sys2Proof.Machine
end

