-- ==== Sys2Proof/Laws/Issue.lean ====
section
/-! SUPPORT. Laws of issue: everything an issue opportunity can do, once; what operands can do; results in the acting bank. -/

namespace Sys2Proof.Machine

@[simp] theorem Mach.of_bank (s : State) : (Mach.of s).bank s.dev.actBank = s.bank := rfl
@[simp] theorem ctx_b (s : State) : (Mach.of s).ctx.b = s.dev.actBank := rfl
@[simp] theorem ctx_q (s : State) : (Mach.of s).ctx.q = s.dev.actSeq := rfl
@[simp] theorem ctx_k (s : State) : (Mach.of s).ctx.k = s.bank := rfl
@[simp] theorem ctx_s (s : State) : (Mach.of s).ctx.s = s.seq := rfl

/-- The machine in which a word's own description runs: an older QFENCE that it has passed is forgotten (R266). -/
def Mach.entered (m : Mach) (i : Instr) : Mach :=
  if fencedOf i then m.modSeq m.dev.actBank m.dev.actSeq (fun s => { s with qfence := none }) else m

theorem Mach.entered_of_not_fenced (m : Mach) (i : Instr) (h : fencedOf i = false) : m.entered i = m := by
  simp [Mach.entered, h]

/-- What holds of a word whose time has come and that steps 2 to 4 of R207 let by. -/
theorem reaches_iff {s : State} {i : Instr} : s.reaches i = true ↔ s.bank.open s.dev.actSeq = true ∧
    s.seq.earliest (hdrOf i) ≤ s.bank.clk ∧
    ((hdrOf i).pred = 0 ∨ s.seq.keyReady s.bank.clk (64 + (hdrOf i).pred.toNat) = true) ∧ (Mach.of s).ctx.refuses i = none := by
  have hr : (Mach.of s).ctx.refuses i = none ↔ streamsOk i s.dev.actSeq = true ∧ legalOn i s.dev.actSeq = true ∧
      privOk s.bank.prov s.dev.actSeq i = true := by
    show (if !(streamsOk i s.dev.actSeq) then some Cause.streamx
      else if !(legalOn i s.dev.actSeq) then some .illegal
      else if !(privOk s.bank.prov s.dev.actSeq i) then some .priv else none) = none ↔ _
    by_cases h1 : streamsOk i s.dev.actSeq = true <;> by_cases h2 : legalOn i s.dev.actSeq = true <;>
      by_cases h3 : privOk s.bank.prov s.dev.actSeq i = true <;> simp [h1, h2, h3]
  rw [hr]
  simp only [State.reaches, State.opens, Bool.and_eq_true, Bool.or_eq_true, beq_iff_eq, decide_eq_true_eq, and_assoc]

/-- A word that reaches its clock is held up by nothing of R42, R43, R44 (its predicate) and R207. -/
theorem issue_of_reaches {s : State} {i : Instr} (h : s.reaches i = true) (body : Ctx → Mach → Act) :
    (Mach.of s).issue i body =
      if !(s.seq.pred (hdrOf i)) then (Mach.of s).finish (Mach.of s).ctx (.done (Mach.of s) (occOf i) none)
      else if fencedOf i && (Mach.of s).fenced (Mach.of s).ctx then Mach.of s
      else (Mach.of s).finish (Mach.of s).ctx (body (Mach.of s).ctx ((Mach.of s).entered i)) := by
  obtain ⟨h1, h2, h3, h4⟩ := reaches_iff.1 h
  have h0 : ¬ ((!(s.bank.open s.dev.actSeq) || decide (s.bank.clk < s.seq.earliest (hdrOf i))) = true) := by
    simp [h1, h2]
  refine (if_neg h0).trans <| (if_neg ?_).trans ?_
  · rcases h3 with h | h <;> simp [h]
  · rw [h4]; rfl

/-- A word that issues does what its own description says. -/
theorem issueWord_of_issues {s : State} {i : Instr} (h : s.issues i = true) (body : Ctx → Mach → Act) :
    issueWord i s body = .next (((Mach.of s).finish (Mach.of s).ctx (body (Mach.of s).ctx ((Mach.of s).entered i))).close s) := by
  simp only [State.issues, State.unfenced, Bool.and_eq_true, Bool.or_eq_true, Bool.not_eq_true'] at h
  obtain ⟨⟨h1, h2⟩, h3⟩ := h
  refine congrArg (fun m => Host.Outcome.next (Mach.close s m)) ((issue_of_reaches h1 body).trans ?_)
  rcases h3 with h | h <;> simp [h, h2]

/-- A word whose predicate is false takes its slot and does nothing else (R185). -/
theorem issueWord_of_skips {s : State} {i : Instr} (h : s.skips i = true) (body : Ctx → Mach → Act) :
    issueWord i s body = .next (((Mach.of s).finish (Mach.of s).ctx (.done (Mach.of s) (occOf i) none)).close s) := by
  simp only [State.skips, Bool.and_eq_true] at h
  exact congrArg (fun m => Host.Outcome.next (Mach.close s m)) ((issue_of_reaches h.1 body).trans (if_pos h.2))

/-- What a word can come to: nothing (its clock has not come, or a stall), a trap of R207, its slot alone under a false
predicate, or what its description does. -/
theorem Mach.issue_cases (m : Mach) (i : Instr) (body : Ctx → Mach → Act) :
    m.issue i body = m ∨ (∃ cause, m.issue i body = m.addTrap m.ctx.b (m.ctx.trap cause)) ∨
      m.issue i body = m.finish m.ctx (.done m (occOf i) none) ∨
      m.issue i body = m.finish m.ctx (body m.ctx (m.entered i)) := by
  have e : m.issue i body =
      if !(m.ctx.k.open m.ctx.q) || decide (m.ctx.k.clk < m.ctx.s.earliest (hdrOf i)) then m
      else if (hdrOf i).pred != 0 && !(m.ctx.s.keyReady m.ctx.k.clk (64 + (hdrOf i).pred.toNat)) then m
      else match m.ctx.refuses i with
        | some cause =>
          if m.ctx.s.pred (hdrOf i) && ((fencedOf i && m.fenced m.ctx) || (body m.ctx (m.entered i)).stalls) then m
          else m.addTrap m.ctx.b (m.ctx.trap cause)
        | none =>
          if !(m.ctx.s.pred (hdrOf i)) then m.finish m.ctx (.done m (occOf i) none)
          else if fencedOf i && m.fenced m.ctx then m
          else m.finish m.ctx (body m.ctx (m.entered i)) := rfl
  rw [e]
  split
  · exact .inl rfl
  · split
    · exact .inl rfl
    · split
      · split
        · exact .inl rfl
        · exact .inr (.inl ⟨_, rfl⟩)
      · split
        · exact .inr (.inr (.inl rfl))
        · split
          · exact .inl rfl
          · exact .inr (.inr (.inr rfl))

/-! ## Ends of a word -/

/-- A word that leaves the acting bank as `k` and nothing else changed. -/
theorem close_finish_done (s : State) (k : Bank) (occ : Nat) (next : Option Nat) (m : Mach)
    (hm : m = (Mach.of s).setBank s.dev.actBank k) (hc : k.clk = s.bank.clk) :
    ((Mach.of s).finish (Mach.of s).ctx (.done m occ next)).close s = s.wordDone k occ next := by
  subst hm
  simp only [Mach.finish, Mach.modSeq, Mach.modBank, Mach.close, State.wordDone, State.setBank, Bank.issued, ctx_b, ctx_q,
    ctx_k, Mach.setBank_bank, hc]
  simp [Mach.setBank, applyWrites]

theorem close_finish_trap (s : State) (t : TrapEnt) :
    ((Mach.of s).finish (Mach.of s).ctx (.trap t)).close s = s.trapped t := by
  simp [Mach.finish, Mach.addTrap, Mach.modBank, Mach.close, State.trapped, State.setBank, Mach.setBank, applyWrites]

theorem close_finish_stall (s : State) : ((Mach.of s).finish (Mach.of s).ctx .stall).close s = s := by
  simp [Mach.finish, Mach.close, applyWrites]

@[simp] theorem setBank_self (s : State) (k : Bank) :
    (Mach.of s).setBank s.dev.actBank k = { mem0 := s.mem, dev := (s.setBank k).dev, writes := [] } := rfl

@[simp] theorem Mach.setBank_setBank (m : Mach) (b : Nat) (k k' : Bank) : (m.setBank b k).setBank b k' = m.setBank b k' := by
  simp [Mach.setBank]

theorem Mach.modBank_setBank (m : Mach) (b : Nat) (k : Bank) (f : Bank → Bank) :
    (m.setBank b k).modBank b f = m.setBank b (f k) := by
  simp [Mach.modBank]

theorem Mach.modSeq_setBank (m : Mach) (b : Nat) (k : Bank) (q : Seq) (f : SeqState → SeqState) :
    (m.setBank b k).modSeq b q f = m.setBank b (k.setSeq q (f (k.seq q))) := by
  simp [Mach.modSeq, Mach.modBank]

/-! ## Operands -/

/-- Everything the operands of a word can do: hold it up, be refused by a binding, or give their values. -/
theorem operandsElse_eq (s : State) (srcs : List RegF) (dst : RegF) (n : Nat) (refused : Mach → Act)
    (body : Mach → List Word → Act) :
    operandsElse (Mach.of s).ctx (Mach.of s) srcs dst n refused body =
      if s.waits srcs dst n then .stall
      else match s.fetched srcs with
        | none => .stall
        | some (vs, k) => if s.refuses srcs dst n then refused ((Mach.of s).setBank s.dev.actBank k)
          else body ((Mach.of s).setBank s.dev.actBank k) vs := by
  show (if !((dst :: srcs).all (fun f => isQ f || s.seq.keyReady s.bank.clk f.toNat)) then Act.stall
    else match s.fetched srcs with
      | none => Act.stall
      | some (vs, k) =>
        if isQ dst && !(s.bank.dstRefused dst) && decide (k.room (qNum dst) < n) then Act.stall
        else if s.refuses srcs dst n then refused ((Mach.of s).setBank s.dev.actBank k)
        else body ((Mach.of s).setBank s.dev.actBank k) vs) = _
  unfold State.waits
  by_cases hk : (dst :: srcs).all (fun f => isQ f || s.seq.keyReady s.bank.clk f.toNat) = true
  · simp only [hk]
    cases s.fetched srcs <;> simp
  · rw [Bool.not_eq_true] at hk
    simp [hk]

/-- Where the operands are there, the word's description runs on their values. -/
theorem operands_of_sources {s : State} {srcs : List RegF} {dst : RegF} {n : Nat} {vs : List Word} {k : Bank}
    (h : s.sources srcs dst n = some (vs, k)) (body : Mach → List Word → Act) :
    operands (Mach.of s).ctx (Mach.of s) srcs dst n body = body ((Mach.of s).setBank s.dev.actBank k) vs := by
  unfold State.sources at h
  split at h
  · contradiction
  · next h1 =>
    simp only [Bool.or_eq_true, not_or, Bool.not_eq_true] at h1
    exact (operandsElse_eq ..).trans (by simp [h, h1])

/-- A word whose operands hold it up stalls. -/
theorem operands_of_waits {s : State} {srcs : List RegF} {dst : RegF} {n : Nat} (h : s.waits srcs dst n = true)
    (body : Mach → List Word → Act) : operands (Mach.of s).ctx (Mach.of s) srcs dst n body = .stall :=
  (operandsElse_eq ..).trans (if_pos h)

/-- Where nothing else holds it up, a word that a binding refuses traps. -/
theorem operands_of_refuses {s : State} {srcs : List RegF} {dst : RegF} {n : Nat} (h : s.waits srcs dst n = false)
    (hr : s.refuses srcs dst n = true) (body : Mach → List Word → Act) :
    operands (Mach.of s).ctx (Mach.of s) srcs dst n body = .trap (s.trapOf .qovf) := by
  refine (operandsElse_eq ..).trans ?_
  have hf : s.fetched srcs ≠ none := by
    intro e
    simp [State.waits, e] at h
  cases e : s.fetched srcs with
  | none => exact absurd e hf
  | some p => simp [h, hr]; rfl

/-- Pops leave everything of a bank but the stream registers. -/
theorem Bank.pop_keeps {k k' : Bank} {n : Nat} {v : Word} (h : k.pop n = some (v, k')) : ∃ q, k' = { k with q := q } := by
  unfold Bank.pop at h
  split at h
  · contradiction
  · split at h
    · cases h; exact ⟨_, rfl⟩
    · contradiction

theorem fetchFields_keeps {q : Seq} (fs : List RegF) {k k' : Bank} {vs : List Word} (h : fetchFields q k fs = some (vs, k')) :
    ∃ t, k' = { k with q := t } := by
  induction fs generalizing k k' vs with
  | nil => cases h; exact ⟨_, rfl⟩
  | cons f fs ih =>
    unfold fetchFields at h
    split at h
    · split at h
      · contradiction
      · next v k1 e =>
        obtain ⟨t1, rfl⟩ := Bank.pop_keeps e
        split at h
        · contradiction
        · next vs2 k2 e2 =>
          obtain ⟨t2, rfl⟩ := ih e2
          cases h
          exact ⟨_, rfl⟩
    · split at h
      · contradiction
      · next vs2 k2 e2 =>
        obtain ⟨t2, rfl⟩ := ih e2
        cases h
        exact ⟨_, rfl⟩

theorem sources_keeps {s : State} {srcs : List RegF} {dst : RegF} {n : Nat} {vs : List Word} {k : Bank}
    (h : s.sources srcs dst n = some (vs, k)) : ∃ t, k = { s.bank with q := t } := by
  unfold State.sources at h
  split at h
  · contradiction
  · exact fetchFields_keeps _ h

theorem sources_clk {s : State} {srcs : List RegF} {dst : RegF} {n : Nat} {vs : List Word} {k : Bank}
    (h : s.sources srcs dst n = some (vs, k)) : k.clk = s.bank.clk := by
  obtain ⟨t, rfl⟩ := sources_keeps h; rfl

/-! ## Results -/

@[simp] theorem Bank.result_clk (k : Bank) (q : Seq) (dst : RegF) (lat : Nat) (v : Word) : (k.result q dst lat v).clk = k.clk := by
  unfold Bank.result
  repeat' split
  all_goals simp

/-- Writing a result changes the acting bank alone. -/
theorem putReg_setBank (s : State) (k : Bank) (dst : RegF) (lat : Nat) (v : Word) (hc : k.clk = s.bank.clk) :
    ((Mach.of s).setBank s.dev.actBank k).putReg (Mach.of s).ctx dst lat v =
      (Mach.of s).setBank s.dev.actBank (k.result s.dev.actSeq dst lat v) := by
  unfold Mach.putReg Bank.result
  simp only [ctx_b, ctx_q, ctx_k, hc]
  split
  · rfl
  · split
    · exact Mach.modSeq_setBank ..
    · split
      · exact Mach.modSeq_setBank ..
      · exact Mach.modBank_setBank ..

end Sys2Proof.Machine
end

