-- ==== Sys2Proof/Laws/Memory.lean ====
section
/-! SUPPORT. Laws of memory: reading after writing, and that every memory operation keeps the canonical form. -/

namespace Sys2Proof.Machine

/-! ## Reading after writing -/

theorem memGet_memIns (m : List Host.Cell) (a x : Nat) (v : Byte) :
    memGet (memIns m a v) x = if x = a then v else memGet m x := by
  induction m with
  | nil => simp [memIns, memGet]
  | cons c m ih =>
    obtain ⟨k, w⟩ := c
    simp only [memIns]
    split
    · simp [memGet]
    · split
      · subst_vars
        simp only [memGet]
        split <;> rfl
      · simp only [memGet, ih]
        split
        · next h => subst h; simp [show ¬ x = a from fun e => ‹¬a = x› e.symm]
        · rfl

theorem memGet_filter (m : List Host.Cell) (a x : Nat) :
    memGet (m.filter (fun c => c.1 != a)) x = if x = a then unlistedByte else memGet m x := by
  induction m with
  | nil => simp [memGet]
  | cons c m ih =>
    obtain ⟨k, w⟩ := c
    by_cases hk : k = a
    · subst hk
      simp only [List.filter, bne_self_eq_false, ih, memGet]
      split <;> rfl
    · have h : (k != a) = true := by simp [hk]
      simp only [List.filter, h, memGet, ih]
      by_cases hx : x = k
      · subst hx; simp [hk]
      · simp [hx]

/-- A write of one byte changes that byte alone. -/
theorem memGet_memPut (m : List Host.Cell) (a x : Nat) (v : Byte) :
    memGet (memPut m a v) x = if x = a then v else memGet m x := by
  unfold memPut
  split
  · subst_vars; exact memGet_filter m a x
  · exact memGet_memIns m a x v

/-- A write of bytes changes those bytes alone. -/
theorem memGet_memPutAll (bs : List Byte) (m : List Host.Cell) (a x : Nat) :
    memGet (memPutAll m a bs) x = if a ≤ x ∧ x < a + bs.length then bs.getD (x - a) 0 else memGet m x := by
  induction bs generalizing m a with
  | nil =>
    have h : ¬ (a ≤ x ∧ x < a + 0) := by omega
    simp only [memPutAll, List.length_nil, if_neg h]
  | cons b bs ih =>
    simp only [memPutAll, ih, memGet_memPut, List.length_cons]
    by_cases h : x = a
    · subst h
      have h1 : ¬ (x + 1 ≤ x ∧ x < x + 1 + bs.length) := by omega
      have h2 : x ≤ x ∧ x < x + (bs.length + 1) := by omega
      rw [if_neg h1, if_pos h2]
      simp
    · by_cases h1 : a + 1 ≤ x ∧ x < a + 1 + bs.length
      · have h2 : a ≤ x ∧ x < a + (bs.length + 1) := by omega
        obtain ⟨d, hd⟩ : ∃ d, x - a = d + 1 := ⟨x - a - 1, by omega⟩
        have hd' : x - (a + 1) = d := by omega
        rw [if_pos h1, if_pos h2, hd, hd']
        simp [List.getD]
      · have h2 : ¬ (a ≤ x ∧ x < a + (bs.length + 1)) := by omega
        simp only [if_neg h1, if_neg h2, if_neg h]

theorem memGet_applyWrites (ws : List (Nat × List Byte)) (m : List Host.Cell) (x : Nat) :
    memGet (applyWrites m ws) x = (pendingByte ws x).getD (memGet m x) := by
  induction ws with
  | nil => rfl
  | cons w ws ih =>
    obtain ⟨a, bs⟩ := w
    simp only [applyWrites, memGet_memPutAll, pendingByte]
    split
    · next h =>
      have hl : x - a < bs.length := by omega
      simp [List.getD, List.getElem?_eq_getElem hl]
    · exact ih

/-- The byte a step leaves is the byte that stands in the step. -/
theorem Mach.memGet_close (m : Mach) (s : State) (h : m.mem0 = s.mem) (x : Nat) :
    memGet (m.close s).mem x = m.byte x := by
  unfold Mach.close Mach.byte
  simp only [memGet_applyWrites, h]
  split <;> simp_all

@[simp] theorem Mach.of_byte (s : State) (x : Nat) : (Mach.of s).byte x = memGet s.mem x := rfl

/-- Bytes written in a step read back; every other byte stands. -/
theorem Mach.byte_put (m : Mach) (a x : Nat) (bs : List Byte) :
    (m.put a bs).byte x = if a ≤ x ∧ x < a + bs.length then bs.getD (x - a) 0 else m.byte x := by
  by_cases h : a ≤ x ∧ x < a + bs.length
  · have hl : x - a < bs.length := by omega
    simp [Mach.byte, Mach.put, pendingByte, h, List.getD, List.getElem?_eq_getElem hl]
  · simp only [Mach.byte, Mach.put, pendingByte, if_neg h]

/-- A step that makes no write leaves memory as it was. -/
theorem Mach.close_mem_of_no_writes (m : Mach) (s : State) (h : m.writes = []) : (m.close s).mem = s.mem := by
  simp [Mach.close, h, applyWrites]

/-! ## The canonical form -/

theorem wf_iff (m : List Host.Cell) :
    Memory.wf m = true ↔ m.Pairwise (fun c d => c.1 < d.1) ∧ ∀ c ∈ m, c.2 ≠ unlistedByte := by
  induction m with
  | nil => simp [Memory.wf]
  | cons c m ih =>
    cases m with
    | nil => simp [Memory.wf]
    | cons d t =>
      simp only [Memory.wf, Bool.and_eq_true, bne_iff_ne, decide_eq_true_eq, ih, List.pairwise_cons, List.forall_mem_cons]
      constructor
      · rintro ⟨⟨hc, hlt⟩, ⟨hd, hp⟩, hdv, hr⟩
        exact ⟨⟨⟨hlt, fun e he => Nat.lt_trans hlt (hd e he)⟩, hd, hp⟩, hc, hdv, hr⟩
      · rintro ⟨⟨⟨hlt, _⟩, hd, hp⟩, hc, hdv, hr⟩
        exact ⟨⟨hc, hlt⟩, ⟨hd, hp⟩, hdv, hr⟩

theorem memIns_mem (m : List Host.Cell) (a : Nat) (v : Byte) (c : Host.Cell) (h : c ∈ memIns m a v) :
    c = (a, v) ∨ c ∈ m := by
  induction m with
  | nil => simpa [memIns] using h
  | cons d m ih =>
    obtain ⟨k, w⟩ := d
    simp only [memIns] at h
    split at h
    · simpa using h
    · split at h
      · rcases List.mem_cons.mp h with h | h
        · exact .inl h
        · exact .inr (List.mem_cons_of_mem _ h)
      · rcases List.mem_cons.mp h with h | h
        · exact .inr (by simp [h])
        · rcases ih h with h | h
          · exact .inl h
          · exact .inr (List.mem_cons_of_mem _ h)

theorem memIns_pairwise (m : List Host.Cell) (a : Nat) (v : Byte) (h : m.Pairwise (fun c d => c.1 < d.1)) :
    (memIns m a v).Pairwise (fun c d => c.1 < d.1) := by
  induction m with
  | nil => simp [memIns]
  | cons d m ih =>
    obtain ⟨k, w⟩ := d
    obtain ⟨hk, hm⟩ := List.pairwise_cons.mp h
    simp only [memIns]
    split
    · next hlt =>
      refine List.pairwise_cons.mpr ⟨fun e he => ?_, h⟩
      rcases List.mem_cons.mp he with rfl | he
      · exact hlt
      · exact Nat.lt_trans hlt (hk e he)
    · split
      · next he =>
        subst he
        exact List.pairwise_cons.mpr ⟨hk, hm⟩
      · next h1 h2 =>
        refine List.pairwise_cons.mpr ⟨fun e he => ?_, ih hm⟩
        rcases memIns_mem m a v e he with rfl | he
        · show k < a
          omega
        · exact hk e he

theorem memPut_wf (m : List Host.Cell) (a : Nat) (v : Byte) (h : Memory.wf m = true) : Memory.wf (memPut m a v) = true := by
  rw [wf_iff] at h ⊢
  unfold memPut
  split
  · exact ⟨h.1.filter _, fun c hc => h.2 c (List.mem_filter.mp hc).1⟩
  · next hv =>
    refine ⟨memIns_pairwise m a v h.1, fun c hc => ?_⟩
    rcases memIns_mem m a v c hc with rfl | hc
    · exact hv
    · exact h.2 c hc

theorem memPutAll_wf (bs : List Byte) (m : List Host.Cell) (a : Nat) (h : Memory.wf m = true) :
    Memory.wf (memPutAll m a bs) = true := by
  induction bs generalizing m a with
  | nil => exact h
  | cons b bs ih => exact ih _ _ (memPut_wf m a b h)

theorem applyWrites_wf (ws : List (Nat × List Byte)) (m : List Host.Cell) (h : Memory.wf m = true) :
    Memory.wf (applyWrites m ws) = true := by
  induction ws with
  | nil => exact h
  | cons w ws ih => exact memPutAll_wf _ _ _ ih

/-- Closing a step keeps the canonical form: every write of every step goes through here. -/
theorem Mach.close_memOk (m : Mach) (s : State) (h : s.MemOk) : (m.close s).MemOk := applyWrites_wf _ _ h

theorem filter_wf (m : List Host.Cell) (p : Host.Cell → Bool) (h : Memory.wf m = true) : Memory.wf (m.filter p) = true := by
  rw [wf_iff] at h ⊢
  exact ⟨h.1.filter _, fun c hc => h.2 c (List.mem_filter.mp hc).1⟩

/-- Equal bytes are equal memories: two canonical memories that read alike at every address are the same list. -/
theorem wf_ext (m n : List Host.Cell) (hm : Memory.wf m = true) (hn : Memory.wf n = true)
    (h : ∀ x, memGet m x = memGet n x) : m = n := by
  rw [wf_iff] at hm hn
  induction m generalizing n with
  | nil =>
    cases n with
    | nil => rfl
    | cons d n =>
      have := h d.1
      exact absurd this.symm (by simpa [memGet] using hn.2 d (by simp))
  | cons c m ih =>
    obtain ⟨k, v⟩ := c
    obtain ⟨hk, hmp⟩ := List.pairwise_cons.mp hm.1
    have hv : v ≠ unlistedByte := hm.2 (k, v) (by simp)
    have out : ∀ (l : List Host.Cell) (x : Nat), (∀ e ∈ l, x < e.1) → memGet l x = unlistedByte := by
      intro l x
      induction l with
      | nil => intro _; rfl
      | cons e l ihl =>
        intro he
        have h1 : x < e.1 := he e (by simp)
        simp only [memGet, if_neg (Nat.ne_of_lt h1)]
        exact ihl (fun e' he' => he e' (by simp [he']))
    cases n with
    | nil =>
      have := h k
      simp [memGet] at this
      exact absurd this hv
    | cons d n =>
      obtain ⟨j, w⟩ := d
      obtain ⟨hj, hnp⟩ := List.pairwise_cons.mp hn.1
      have hw : w ≠ unlistedByte := hn.2 (j, w) (by simp)
      have hkj : k = j := by
        rcases Nat.lt_trichotomy k j with hlt | heq | hgt
        · have h1 := h k
          simp only [memGet, if_true] at h1
          rw [if_neg (Nat.ne_of_lt hlt), out n k (fun e he => Nat.lt_trans hlt (hj e he))] at h1
          exact absurd h1 hv
        · exact heq
        · have h1 := h j
          simp only [memGet, if_true] at h1
          rw [if_neg (Nat.ne_of_lt hgt), out m j (fun e he => Nat.lt_trans hgt (hk e he))] at h1
          exact absurd h1.symm hw
      subst hkj
      have hvw : v = w := by simpa [memGet] using h k
      subst hvw
      congr 1
      apply ih n ⟨hmp, fun c hc => hm.2 c (by simp [hc])⟩ ⟨hnp, fun c hc => hn.2 c (by simp [hc])⟩
      intro x
      by_cases hx : x = k
      · subst hx
        rw [out m x hk, out n x hj]
      · simpa [memGet, hx] using h x

end Sys2Proof.Machine
end

