-- ==== Sys2Proof/Laws/PerInstr.lean ====
section
/-! SUPPORT. PerInstr: statements made of each instruction as syntax. -/

namespace Sys2Proof.Laws.Opcode

/-- A word's opcode is one that R201 assigns. -/
def Statement (i : Instr) : Prop := ∀ op fn, opOf i = some (op, fn) → opAssigned op = true

/-- The check of one constructor. -/
theorem of_find (i : Instr) (h : (opOf i).all (fun p => opAssigned p.1) = true) : Statement i := by
  intro op fn e
  rw [e] at h
  exact h

theorem nop (f : RF) : Statement (.nop f) := of_find _ rfl
theorem add (f : RF) : Statement (.add f) := of_find _ rfl
theorem sub (f : RF) : Statement (.sub f) := of_find _ rfl
theorem and (f : RF) : Statement (.and f) := of_find _ rfl
theorem or (f : RF) : Statement (.or f) := of_find _ rfl
theorem xor (f : RF) : Statement (.xor f) := of_find _ rfl
theorem shl (f : RF) : Statement (.shl f) := of_find _ rfl
theorem shr (f : RF) : Statement (.shr f) := of_find _ rfl
theorem sra (f : RF) : Statement (.sra f) := of_find _ rfl
theorem rotl (f : RF) : Statement (.rotl f) := of_find _ rfl
theorem min (f : RF) : Statement (.min f) := of_find _ rfl
theorem max (f : RF) : Statement (.max f) := of_find _ rfl
theorem minn (f : RF) : Statement (.minn f) := of_find _ rfl
theorem maxn (f : RF) : Statement (.maxn f) := of_find _ rfl
theorem mul (f : RF) : Statement (.mul f) := of_find _ rfl
theorem mulh (f : RF) : Statement (.mulh f) := of_find _ rfl
theorem mulhn (f : RF) : Statement (.mulhn f) := of_find _ rfl
theorem div (f : RF) : Statement (.div f) := of_find _ rfl
theorem divn (f : RF) : Statement (.divn f) := of_find _ rfl
theorem rem (f : RF) : Statement (.rem f) := of_find _ rfl
theorem remn (f : RF) : Statement (.remn f) := of_find _ rfl
theorem clz (f : RF) : Statement (.clz f) := of_find _ rfl
theorem popc (f : RF) : Statement (.popc f) := of_find _ rfl
theorem brev (f : RF) : Statement (.brev f) := of_find _ rfl
theorem sext (f : RF) : Statement (.sext f) := of_find _ rfl
theorem zext (f : RF) : Statement (.zext f) := of_find _ rfl
theorem cmp (f : RF) : Statement (.cmp f) := of_find _ rfl
theorem plog (f : RF) : Statement (.plog f) := of_find _ rfl
theorem sel (f : RF) : Statement (.sel f) := of_find _ rfl
theorem addi (f : IF) : Statement (.addi f) := of_find _ rfl
theorem andi (f : IF) : Statement (.andi f) := of_find _ rfl
theorem ori (f : IF) : Statement (.ori f) := of_find _ rfl
theorem xori (f : IF) : Statement (.xori f) := of_find _ rfl
theorem shli (f : IF) : Statement (.shli f) := of_find _ rfl
theorem shri (f : IF) : Statement (.shri f) := of_find _ rfl
theorem srai (f : IF) : Statement (.srai f) := of_find _ rfl
theorem muli (f : IF) : Statement (.muli f) := of_find _ rfl
theorem ldi (f : IF) : Statement (.ldi f) := of_find _ rfl
theorem ldhi (f : IF) : Statement (.ldhi f) := of_find _ rfl
theorem br (f : JF) : Statement (.br f) := of_find _ rfl
theorem call (f : JF) : Statement (.call f) := of_find _ rfl
theorem jr (f : RF) : Statement (.jr f) := of_find _ rfl
theorem loop (f : RF) : Statement (.loop f) := of_find _ rfl
theorem brq (f : JF) : Statement (.brq f) := of_find _ rfl
theorem bopush (f : RF) : Statement (.bopush f) := of_find _ rfl
theorem post (f : IF) : Statement (.post f) := of_find _ rfl
theorem await (f : IF) : Statement (.await f) := of_find _ rfl
theorem waitc (f : IF) : Statement (.waitc f) := of_find _ rfl
theorem go (f : RF) : Statement (.go f) := of_find _ rfl
theorem halt (f : RF) : Statement (.halt f) := of_find _ rfl
theorem yield (f : RF) : Statement (.yield f) := of_find _ rfl
theorem bar (f : RF) : Statement (.bar f) := of_find _ rfl
theorem amode (f : RF) : Statement (.amode f) := of_find _ rfl
theorem aadd (f : RF) : Statement (.aadd f) := of_find _ rfl
theorem astep (f : RF) : Statement (.astep f) := of_find _ rfl
theorem ld (f : MF) : Statement (.ld f) := of_find _ rfl
theorem st (f : MF) : Statement (.st f) := of_find _ rfl
theorem ldq (f : MF) : Statement (.ldq f) := of_find _ rfl
theorem stq (f : MF) : Statement (.stq f) := of_find _ rfl
theorem mark (f : MF) : Statement (.mark f) := of_find _ rfl
theorem fence (f : MF) : Statement (.fence f) := of_find _ rfl
theorem rinv (f : MF) : Statement (.rinv f) := of_find _ rfl
theorem pref (f : MF) : Statement (.pref f) := of_find _ rfl
theorem rpin (f : MF) : Statement (.rpin f) := of_find _ rfl
theorem runpin (f : MF) : Statement (.runpin f) := of_find _ rfl
theorem atom (f : MF) : Statement (.atom f) := of_find _ rfl
theorem red (f : MF) : Statement (.red f) := of_find _ rfl
theorem redx (f : MF) : Statement (.redx f) := of_find _ rfl
theorem rdx (f : MF) : Statement (.rdx f) := of_find _ rfl
theorem waita (f : MF) : Statement (.waita f) := of_find _ rfl
theorem wset (f : MF) : Statement (.wset f) := of_find _ rfl
theorem wclr (f : RF) : Statement (.wclr f) := of_find _ rfl
theorem warm (f : RF) : Statement (.warm f) := of_find _ rfl
theorem winfo (f : RF) : Statement (.winfo f) := of_find _ rfl
theorem cpy (f : QF) : Statement (.cpy f) := of_find _ rfl
theorem cpySnk (f : QF) : Statement (.cpySnk f) := of_find _ rfl
theorem cpySrc (f : QF) : Statement (.cpySrc f) := of_find _ rfl
theorem cpy2 (f : QF) : Statement (.cpy2 f) := of_find _ rfl
theorem gath (f : QF) : Statement (.gath f) := of_find _ rfl
theorem scat (f : QF) : Statement (.scat f) := of_find _ rfl
theorem crcqSum (f : QF) : Statement (.crcqSum f) := of_find _ rfl
theorem crcqPut (f : QF) : Statement (.crcqPut f) := of_find _ rfl
theorem crcqSeed (f : QF) : Statement (.crcqSeed f) := of_find _ rfl
theorem trset (f : QF) : Statement (.trset f) := of_find _ rfl
theorem tradv (f : QF) : Statement (.tradv f) := of_find _ rfl
theorem trel (f : QF) : Statement (.trel f) := of_find _ rfl
theorem qfence (f : QF) : Statement (.qfence f) := of_find _ rfl
theorem qbind (f : QF) : Statement (.qbind f) := of_find _ rfl
theorem csrr (f : SF) : Statement (.csrr f) := of_find _ rfl
theorem csrw (f : SF) : Statement (.csrw f) := of_find _ rfl
theorem csrs (f : SF) : Statement (.csrs f) := of_find _ rfl
theorem csrc (f : SF) : Statement (.csrc f) := of_find _ rfl
theorem trap (f : SF) : Statement (.trap f) := of_find _ rfl
theorem bkpt (f : SF) : Statement (.bkpt f) := of_find _ rfl
theorem rmark (f : SF) : Statement (.rmark f) := of_find _ rfl
theorem ecall (f : SF) : Statement (.ecall f) := of_find _ rfl
theorem vadd (f : VF) : Statement (.vadd f) := of_find _ rfl
theorem vsub (f : VF) : Statement (.vsub f) := of_find _ rfl
theorem vmul (f : VF) : Statement (.vmul f) := of_find _ rfl
theorem vfma (f : VF) : Statement (.vfma f) := of_find _ rfl
theorem vmin (f : VF) : Statement (.vmin f) := of_find _ rfl
theorem vmax (f : VF) : Statement (.vmax f) := of_find _ rfl
theorem vabs (f : VF) : Statement (.vabs f) := of_find _ rfl
theorem vneg (f : VF) : Statement (.vneg f) := of_find _ rfl
theorem vand (f : VF) : Statement (.vand f) := of_find _ rfl
theorem vor (f : VF) : Statement (.vor f) := of_find _ rfl
theorem vxor (f : VF) : Statement (.vxor f) := of_find _ rfl
theorem vshl (f : VF) : Statement (.vshl f) := of_find _ rfl
theorem vshr (f : VF) : Statement (.vshr f) := of_find _ rfl
theorem vsra (f : VF) : Statement (.vsra f) := of_find _ rfl
theorem vsadd (f : VF) : Statement (.vsadd f) := of_find _ rfl
theorem vssub (f : VF) : Statement (.vssub f) := of_find _ rfl
theorem vcmp (f : VF) : Statement (.vcmp f) := of_find _ rfl
theorem vsel (f : VF) : Statement (.vsel f) := of_find _ rfl
theorem vmov (f : VF) : Statement (.vmov f) := of_find _ rfl
theorem vmovIns (f : VF) : Statement (.vmovIns f) := of_find _ rfl
theorem vsplat (f : VF) : Statement (.vsplat f) := of_find _ rfl
theorem viota (f : VF) : Statement (.viota f) := of_find _ rfl
theorem vcvt (f : VF) : Statement (.vcvt f) := of_find _ rfl
theorem vquant (f : VF) : Statement (.vquant f) := of_find _ rfl
theorem vdeq (f : VF) : Statement (.vdeq f) := of_find _ rfl
theorem vchk (f : VF) : Statement (.vchk f) := of_find _ rfl
theorem vclamp (f : VF) : Statement (.vclamp f) := of_find _ rfl
theorem vrcp (f : VF) : Statement (.vrcp f) := of_find _ rfl
theorem vrsq (f : VF) : Statement (.vrsq f) := of_find _ rfl
theorem vsqrt (f : VF) : Statement (.vsqrt f) := of_find _ rfl
theorem vexp2 (f : VF) : Statement (.vexp2 f) := of_find _ rfl
theorem vlog2 (f : VF) : Statement (.vlog2 f) := of_find _ rfl
theorem vsin (f : VF) : Statement (.vsin f) := of_find _ rfl
theorem vcos (f : VF) : Statement (.vcos f) := of_find _ rfl
theorem vtanh (f : VF) : Statement (.vtanh f) := of_find _ rfl
theorem vrrot (f : VF) : Statement (.vrrot f) := of_find _ rfl
theorem vrbc (f : VF) : Statement (.vrbc f) := of_find _ rfl
theorem vcrot (f : VF) : Statement (.vcrot f) := of_find _ rfl
theorem vcbc (f : VF) : Statement (.vcbc f) := of_find _ rfl
theorem vrred (f : VF) : Statement (.vrred f) := of_find _ rfl
theorem vrscan (f : VF) : Statement (.vrscan f) := of_find _ rfl
theorem vcred (f : VF) : Statement (.vcred f) := of_find _ rfl
theorem vcscan (f : VF) : Statement (.vcscan f) := of_find _ rfl
theorem vtrn (f : VF) : Statement (.vtrn f) := of_find _ rfl
theorem vwmax (f : VF) : Statement (.vwmax f) := of_find _ rfl
theorem vwmin (f : VF) : Statement (.vwmin f) := of_find _ rfl
theorem vwmed (f : VF) : Statement (.vwmed f) := of_find _ rfl
theorem vwssum (f : VF) : Statement (.vwssum f) := of_find _ rfl
theorem vwclamp (f : VF) : Statement (.vwclamp f) := of_find _ rfl
theorem vadj (f : VF) : Statement (.vadj f) := of_find _ rfl
theorem vwout (f : VF) : Statement (.vwout f) := of_find _ rfl
theorem vwin (f : VF) : Statement (.vwin f) := of_find _ rfl
theorem vldw (f : VF) : Statement (.vldw f) := of_find _ rfl
theorem vstw (f : VF) : Statement (.vstw f) := of_find _ rfl
theorem vpopq (f : VF) : Statement (.vpopq f) := of_find _ rfl
theorem vpushq (f : VF) : Statement (.vpushq f) := of_find _ rfl
theorem vcpush (f : VF) : Statement (.vcpush f) := of_find _ rfl
theorem vcpop (f : VF) : Statement (.vcpop f) := of_find _ rfl
theorem mldw (f : XF) : Statement (.mldw f) := of_find _ rfl
theorem mswap (f : XF) : Statement (.mswap f) := of_find _ rfl
theorem mmul (f : XF) : Statement (.mmul f) := of_find _ rfl
theorem mzero (f : XF) : Statement (.mzero f) := of_find _ rfl
theorem mrd (f : XF) : Statement (.mrd f) := of_find _ rfl
theorem mrdq (f : XF) : Statement (.mrdq f) := of_find _ rfl
theorem mmode (f : XF) : Statement (.mmode f) := of_find _ rfl
theorem mchain (f : XF) : Statement (.mchain f) := of_find _ rfl
theorem kbind (f : XF) : Statement (.kbind f) := of_find _ rfl
theorem krel (f : XF) : Statement (.krel f) := of_find _ rfl
theorem kgen (f : XF) : Statement (.kgen f) := of_find _ rfl
theorem msolve (f : XF) : Statement (.msolve f) := of_find _ rfl
theorem mstat (f : XF) : Statement (.mstat f) := of_find _ rfl
theorem msamp (f : XF) : Statement (.msamp f) := of_find _ rfl
theorem postTakesEffect (bank : Nat) (unit : Nat) : Statement (.postTakesEffect bank unit) := of_find _ rfl
theorem waitaBoundExpiry (bank : Nat) : Statement (.waitaBoundExpiry bank) := of_find _ rfl
theorem waitaReturn (bank : Nat) : Statement (.waitaReturn bank) := of_find _ rfl
theorem engineCommandStart (bank : Nat) (queue : Nat) : Statement (.engineCommandStart bank queue) := of_find _ rfl
theorem engineCommandComplete (bank : Nat) (queue : Nat) : Statement (.engineCommandComplete bank queue) := of_find _ rfl
theorem enginePageFault (bank : Nat) (queue : Nat) : Statement (.enginePageFault bank queue) := of_find _ rfl
theorem trailRowArrival (bank : Nat) (trail : Nat) (row : Nat) : Statement (.trailRowArrival bank trail row) := of_find _ rfl
theorem drainRowWritten (bank : Nat) (trail : Nat) (row : Nat) : Statement (.drainRowWritten bank trail row) := of_find _ rfl
theorem ecallAnswer (bank : Nat) : Statement (.ecallAnswer bank) := of_find _ rfl
theorem matrixEntryStart (bank : Nat) : Statement (.matrixEntryStart bank) := of_find _ rfl
theorem matrixEntryComplete (bank : Nat) (entry : Nat) : Statement (.matrixEntryComplete bank entry) := of_find _ rfl
theorem loadPerformed (bank : Nat) (unit : Nat) (id : Nat) : Statement (.loadPerformed bank unit id) := of_find _ rfl
theorem eccuDataDelivery (bank : Nat) (unit : Nat) (pos : Nat) (pa : Option Nat) : Statement (.eccuDataDelivery bank unit pos pa) := of_find _ rfl
theorem storePerformed (bank : Nat) (unit : Nat) (id : Nat) : Statement (.storePerformed bank unit id) := of_find _ rfl
theorem leadEntryWriteArrival (die : Nat) (slice : Nat) : Statement (.leadEntryWriteArrival die slice) := of_find _ rfl
theorem triggerClose (bank : Nat) : Statement (.triggerClose bank) := of_find _ rfl
theorem rateWindowReset (die : Nat) (slice : Nat) : Statement (.rateWindowReset die slice) := of_find _ rfl
theorem lqTailWrite (part : Nat) (prov : Bool) (value : Word) : Statement (.lqTailWrite part prov value) := of_find _ rfl
theorem launchEntryRead (part : Nat) (prov : Bool) : Statement (.launchEntryRead part prov) := of_find _ rfl
theorem gangSubmission (die : Nat) : Statement (.gangSubmission die) := of_find _ rfl
theorem versionCopyComplete (part : Nat) (plot : Nat) (version : Nat) : Statement (.versionCopyComplete part plot version) := of_find _ rfl
theorem gangReady (gang : Nat) : Statement (.gangReady gang) := of_find _ rfl
theorem basketUp (quadLevel : Bool) (unit : Nat) : Statement (.basketUp quadLevel unit) := of_find _ rfl
theorem basketDown (quadLevel : Bool) (unit : Nat) : Statement (.basketDown quadLevel unit) := of_find _ rfl
theorem dispatch (bank : Nat) : Statement (.dispatch bank) := of_find _ rfl
theorem overlayLoad (bank : Nat) : Statement (.overlayLoad bank) := of_find _ rfl
theorem taskStart (gang : Nat) : Statement (.taskStart gang) := of_find _ rfl
theorem taskRetire (bank : Nat) : Statement (.taskRetire bank) := of_find _ rfl
theorem gangCompletion (gang : Nat) : Statement (.gangCompletion gang) := of_find _ rfl
theorem gateRead (gang : Nat) : Statement (.gateRead gang) := of_find _ rfl
theorem versionPublication (part : Nat) (plot : Nat) : Statement (.versionPublication part plot) := of_find _ rfl
theorem graphAccept (die : Nat) : Statement (.graphAccept die) := of_find _ rfl
theorem graphTaskNode (graph : Nat) (node : Nat) : Statement (.graphTaskNode graph node) := of_find _ rfl
theorem graphJoinNode (graph : Nat) (node : Nat) : Statement (.graphJoinNode graph node) := of_find _ rfl
theorem graphIfNode (graph : Nat) (node : Nat) : Statement (.graphIfNode graph node) := of_find _ rfl
theorem graphSwitchNode (graph : Nat) (node : Nat) : Statement (.graphSwitchNode graph node) := of_find _ rfl
theorem graphWhileNode (graph : Nat) (node : Nat) : Statement (.graphWhileNode graph node) := of_find _ rfl
theorem graphNodeSkip (graph : Nat) (node : Nat) : Statement (.graphNodeSkip graph node) := of_find _ rfl
theorem graphComplete (graph : Nat) : Statement (.graphComplete graph) := of_find _ rfl
theorem bind (bank : Nat) (record : BitVec 128) : Statement (.bind bank record) := of_find _ rfl
theorem preempt (bank : Nat) (record : BitVec 128) : Statement (.preempt bank record) := of_find _ rfl
theorem reserve (bank : Nat) (record : BitVec 128) : Statement (.reserve bank record) := of_find _ rfl
theorem drain (bank : Nat) (record : BitVec 128) : Statement (.drain bank record) := of_find _ rfl
theorem save (bank : Nat) (record : BitVec 128) : Statement (.save bank record) := of_find _ rfl
theorem restore (bank : Nat) : Statement (.restore bank) := of_find _ rfl
theorem bankSwitchIn (bank : Nat) : Statement (.bankSwitchIn bank) := of_find _ rfl
theorem rangerQuantumEnd (part : Nat) : Statement (.rangerQuantumEnd part) := of_find _ rfl
theorem faultRecordWrite (part : Nat) : Statement (.faultRecordWrite part) := of_find _ rfl
theorem fansCont (part : Nat) (value : Word) : Statement (.fansCont part value) := of_find _ rfl
theorem fansRetire (part : Nat) (value : Word) : Statement (.fansRetire part value) := of_find _ rfl
theorem fansAerrClear (part : Nat) (value : Word) : Statement (.fansAerrClear part value) := of_find _ rfl
theorem rangerPagePlace (part : Nat) (seq : Nat) : Statement (.rangerPagePlace part seq) := of_find _ rfl
theorem tinv (part : Nat) (whole : Bool) (lo : Nat) (len : Nat) : Statement (.tinv part whole lo len) := of_find _ rfl
theorem hotPageEpochEnd (die : Nat) : Statement (.hotPageEpochEnd die) := of_find _ rfl
theorem migration (die : Nat) : Statement (.migration die) := of_find _ rfl
theorem migrationComplete (die : Nat) : Statement (.migrationComplete die) := of_find _ rfl
theorem freqGive (part : Nat) (value : Word) : Statement (.freqGive part value) := of_find _ rfl
theorem freqTake (part : Nat) (value : Word) : Statement (.freqTake part value) := of_find _ rfl
theorem resizeGo (part : Nat) : Statement (.resizeGo part) := of_find _ rfl
theorem hostMemRead (addr : Nat) (size : Nat) : Statement (.hostMemRead addr size) := of_find _ rfl
theorem hostMemWrite (addr : Nat) (data : List Byte) : Statement (.hostMemWrite addr data) := of_find _ rfl
theorem hostSnoop (addr : Nat) (invalidate : Bool) : Statement (.hostSnoop addr invalidate) := of_find _ rfl
theorem backInvalidateAnswer (line : Nat) : Statement (.backInvalidateAnswer line) := of_find _ rfl
theorem lineWriteback (part : Nat) (line : Nat) : Statement (.lineWriteback part line) := of_find _ rfl
theorem msixUnmask (part : Nat) (vector : Nat) : Statement (.msixUnmask part vector) := of_find _ rfl
theorem peerRead (f : Flit) : Statement (.peerRead f) := of_find _ rfl
theorem peerWrite (f : Flit) : Statement (.peerWrite f) := of_find _ rfl
theorem peerAtom (f : Flit) : Statement (.peerAtom f) := of_find _ rfl
theorem peerRed (f : Flit) : Statement (.peerRed f) := of_find _ rfl
theorem peerReadData (f : Flit) : Statement (.peerReadData f) := of_find _ rfl
theorem peerWriteDone (f : Flit) : Statement (.peerWriteDone f) := of_find _ rfl
theorem peerError (f : Flit) : Statement (.peerError f) := of_find _ rfl
theorem peerAckFlit (f : Flit) : Statement (.peerAckFlit f) := of_find _ rfl
theorem flitRetry (port : Nat) : Statement (.flitRetry port) := of_find _ rfl
theorem dieStop (die : Nat) (unit : Nat) (pa : Option Nat) : Statement (.dieStop die unit pa) := of_find _ rfl
theorem bistBankTest (stack : Nat) (pch : Nat) (bank : Nat) (found : BankTest) : Statement (.bistBankTest stack pch bank found) := of_find _ rfl
theorem attestRequest (value : Word) : Statement (.attestRequest value) := of_find _ rfl
theorem attestDone : Statement (.attestDone) := of_find _ rfl
theorem reset : Statement (.reset) := of_find _ rfl
theorem providerWordWrite (offset : Nat) (value : Word) : Statement (.providerWordWrite offset value) := of_find _ rfl
theorem recNone (bank : Nat) (record : BitVec 128) : Statement (.recNone bank record) := of_find _ rfl
theorem capWindowEnd (link : Nat) : Statement (.capWindowEnd link) := of_find _ rfl

end Sys2Proof.Laws.Opcode
end

