-- ==== Sys2Proof/Laws/Signature.lean ====
section
/-! SUPPORT. Signature: the lengths of SHAKE256's answers and of the parts of a signature, and that a signature verifies under the
public key of the key that made it. -/

namespace Sys2Proof.Machine

theorem length_flatMap_of {α β : Type} (n : Nat) (f : α → List β) :
    ∀ l : List α, (∀ a ∈ l, (f a).length = n) → (l.flatMap f).length = n * l.length
  | [], _ => by simp
  | a :: l, h => by
    simp only [List.flatMap_cons, List.length_append, List.length_cons, h a (by simp),
      length_flatMap_of n f l (fun b hb => h b (by simp [hb]))]
    rw [Nat.mul_succ]; omega

theorem planes_length (s : List Word) : (planes s).length = 5 := by simp [planes]
theorem plane_length {s : List Word} (h : s.length = 25) : ∀ p ∈ planes s, p.length = 5 := by
  intro p hp
  simp only [planes, List.mem_map, List.mem_range] at hp
  obtain ⟨y, hy, rfl⟩ := hp
  simp [h]; omega

theorem turned_length {α : Type} (n : Nat) (l : List α) : (turned n l).length = l.length := by
  simp [turned]; omega

theorem foldl_zip_length (f : Word → Word → Word) :
    ∀ (ps : List (List Word)) (a : List Word), a.length = 5 → (∀ p ∈ ps, p.length = 5) → (ps.foldl (List.zipWith f) a).length = 5
  | [], _, h, _ => h
  | p :: ps, a, h, hp => foldl_zip_length f ps _ (by simp [h, hp p (by simp)]) (fun q hq => hp q (by simp [hq]))

theorem mixColumns_length {s : List Word} (h : s.length = 25) : (mixColumns s).length = 25 := by
  have hs := foldl_zip_length (· ^^^ ·) (planes s) (List.replicate 5 0) (by simp) (plane_length h)
  unfold mixColumns
  rw [length_flatMap_of 5 _ _ (fun p hp => by
    rw [List.length_zipWith, List.length_zipWith, turned_length, turned_length, hs, plane_length h p hp]; rfl), planes_length]

theorem walkLanes_length : ∀ (n x y k : Nat) (v : Word) (s : List Word), (walkLanes n x y k v s).length = s.length
  | 0, _, _, _, _, _ => rfl
  | n + 1, x, y, k, v, s => by unfold walkLanes; simp [walkLanes_length n]

theorem mixRows_length {s : List Word} (h : s.length = 25) : (mixRows s).length = 25 := by
  unfold mixRows
  rw [length_flatMap_of 5 _ _ (fun p hp => by simp [turned_length, plane_length h p hp]), planes_length]

theorem keccakRounds_length : ∀ (n r : Nat) (s : List Word), s.length = 25 → (keccakRounds n r s).length = 25
  | 0, _, _, h => h
  | n + 1, r, s, h => by
    unfold keccakRounds
    exact keccakRounds_length n _ _ (by
      rw [List.length_modifyHead, mixRows_length (by rw [walkLanes_length, mixColumns_length h])])

theorem absorbAll_length : ∀ (n : Nat) (a : List Word) (bs : List Byte), a.length = 25 → (absorbAll n a bs).length = 25
  | 0, _, _, h => h
  | n + 1, a, bs, _ => absorbAll_length n _ _ (by unfold absorb keccakF; exact keccakRounds_length _ _ _ (by simp))

theorem leBytes_length : ∀ n v : Nat, (leBytes n v).length = n
  | 0, _ => rfl
  | n + 1, v => by simp [leBytes, leBytes_length n]

theorem shake256_length {n : Nat} (h : n ≤ 136) (bs : List Byte) : (shake256 n bs).length = n := by
  unfold shake256
  dsimp only
  generalize hA : absorbAll _ _ _ = a
  have ha : a.length = 25 := by rw [← hA]; exact absorbAll_length _ _ _ (by simp)
  have h1 : ((a.take 17).flatMap (fun w => leBytes 8 w.toNat)).length = 8 * 17 := by
    rw [length_flatMap_of 8 _ _ (fun w _ => leBytes_length 8 _)]; simp [ha]
  unfold squeeze
  rw [List.length_take, List.length_append, h1]
  omega

theorem hash_length (p : HashPlace) (pub data : List Byte) : (p.hash pub data).length = 32 := shake256_length (by omega) _

/-- Steps of a chain in two parts. -/
theorem chainSteps_add (p : HashPlace) (pub : List Byte) : ∀ (a b first : Nat) (v : List Byte),
    chainSteps p pub b (first + a) (chainSteps p pub a first v) = chainSteps p pub (a + b) first v
  | 0, b, first, v => by simp [chainSteps]
  | a + 1, b, first, v => by
    rw [show a + 1 + b = (a + b) + 1 by omega, show first + (a + 1) = (first + 1) + a by omega]
    exact chainSteps_add p pub a b (first + 1) _

/-- A node climbs past the nodes beside its way to the node above. -/
theorem climbTree_beside (p : HashPlace) (pub : List Byte) (leaf : Nat → List Byte) : ∀ (n h place : Nat),
    climbTree p pub h (place / 2 ^ h) (treeNode p pub leaf h (place / 2 ^ h))
      ((List.range n).map (fun i => treeNode p pub leaf (h + i) (Nat.xor (place / 2 ^ (h + i)) 1))) =
    treeNode p pub leaf (h + n) (place / 2 ^ (h + n))
  | 0, h, place => by simp [climbTree]
  | n + 1, h, place => by
    have key : ({ p with row := h + 1, col := place / 2 ^ h / 2 } : HashPlace).join pub (place / 2 ^ h)
        (treeNode p pub leaf h (place / 2 ^ h)) (treeNode p pub leaf h (Nat.xor (place / 2 ^ h) 1)) =
        treeNode p pub leaf (h + 1) (place / 2 ^ (h + 1)) := by
      generalize hx : place / 2 ^ h = x
      have hy : place / 2 ^ (h + 1) = x / 2 := by rw [Nat.pow_succ, ← Nat.div_div_eq_div_mul, hx]
      rw [hy]
      have hxor : Nat.xor x 1 = if x % 2 = 0 then 2 * (x / 2) + 1 else 2 * (x / 2) := by
        have h1 : (x ^^^ 1) % 2 = (x + 1) % 2 := by
          have := Nat.xor_mod_two_eq_one (a := x) (b := 1)
          omega
        have h2 : (x ^^^ 1) / 2 = x / 2 := by rw [Nat.xor_div_two]; simp
        have : Nat.xor x 1 = x ^^^ 1 := rfl
        rw [this]; split <;> omega
      simp only [HashPlace.join, treeNode, hxor]
      by_cases hp : x % 2 = 0
      · simp only [hp, if_true]; rw [show 2 * (x / 2) = x by omega]
      · simp only [hp, if_false]; rw [show 2 * (x / 2) + 1 = x by omega]
    rw [List.range_succ_eq_map, List.map_cons, List.map_map, climbTree]
    simp only [Nat.add_zero]
    rw [key]
    have hd : place / 2 ^ h / 2 = place / 2 ^ (h + 1) := by rw [Nat.pow_succ, Nat.div_div_eq_div_mul]
    rw [hd]
    have := climbTree_beside p pub leaf n (h + 1) place
    rw [show h + 1 + n = h + (n + 1) by omega] at this
    rw [← this]
    congr 1
    apply List.map_congr_left
    intro i _
    simp only [Function.comp, show h + Nat.succ i = h + 1 + i by omega]

/-- A leaf climbs past the nodes beside its way to the root. -/
theorem climbTree_root (p : HashPlace) (pub : List Byte) (leaf : Nat → List Byte) (n place : Nat) :
    climbTree p pub 0 place (leaf place) (besideWay p pub leaf n place) = treeNode p pub leaf n (place / 2 ^ n) := by
  have := climbTree_beside p pub leaf n 0 place
  simpa [besideWay, treeNode] using this

theorem leNat_lt : ∀ bs : List Byte, leNat bs < 256 ^ bs.length
  | [] => by simp [leNat]
  | b :: bs => by
    have h := leNat_lt bs
    have hb : b.toNat < 256 := b.isLt
    simp only [leNat, List.length_cons, Nat.pow_succ]
    omega

theorem chainDigits_le {v : List Byte} (h : v.length = 32) : ∀ i, (chainDigits v).getD i 0 ≤ 15 := by
  have hsum : ∀ ds : List Nat, (ds.map (15 - ·)).sum ≤ 15 * ds.length := by
    intro ds
    induction ds with
    | nil => simp
    | cons d ds ih => simp only [List.map_cons, List.sum_cons, List.length_cons]; omega
  have hall : ∀ d ∈ chainDigits v, d ≤ 15 := by
    intro d hd
    simp only [chainDigits, List.mem_append, List.mem_flatMap, List.mem_cons, List.not_mem_nil, or_false] at hd
    rcases hd with ⟨b, _, rfl | rfl⟩ | rfl | rfl | rfl
    · have : b.toNat < 256 := b.isLt
      omega
    · omega
    · have := hsum (v.flatMap (fun b => [b.toNat / 16, b.toNat % 16]))
      rw [length_flatMap_of 2 _ v (fun b _ => rfl), h] at this
      omega
    · omega
    · omega
  intro i
  by_cases hi : i < (chainDigits v).length
  · have : (chainDigits v).getD i 0 = (chainDigits v)[i] := by simp [List.getD, hi]
    rw [this]; exact hall _ (List.getElem_mem hi)
  · have : (chainDigits v).getD i 0 = 0 := by simp [List.getD, Nat.not_lt.mp hi]
    omega

/-- A one-time signature leads to its leaf. -/
theorem chainRecover_sign (p : HashPlace) (pub sec : List Byte) {v : List Byte} (h : v.length = 32) (leaf : Nat) :
    chainRecover { p with pair := leaf } pub v (chainSign { p with pair := leaf } pub sec v) = merkleLeaf p pub sec leaf := by
  unfold chainRecover merkleLeaf chainSign chainKey
  dsimp only
  refine congrArg (fun l => HashPlace.hash { layer := p.layer, tree := p.tree, kind := 1, pair := leaf, row := 0, col := 0 } pub (List.flatten l))
    (List.map_congr_left fun i hi => ?_)
  have hi' : i < 67 := List.mem_range.mp hi
  rw [show ∀ g : Nat → List Byte, ((List.range 67).map g).getD i [] = g i from fun g => by simp [List.getD, hi']]
  have hd := chainDigits_le h i
  have := chainSteps_add { p with kind := 0, pair := leaf, row := i } pub ((chainDigits v).getD i 0) (15 - (chainDigits v).getD i 0) 0
    (chainStart { p with kind := 0, pair := leaf } pub sec i)
  rw [Nat.zero_add, show (chainDigits v).getD i 0 + (15 - (chainDigits v).getD i 0) = 15 by omega] at this
  exact this

theorem merkleSign_length (pub sec : List Byte) (layer tree leaf : Nat) (v : List Byte) :
    (merkleSign pub sec layer tree leaf v).length = 75 := by simp [merkleSign, chainSign, besideWay]

/-- The root of a tree of a layer. -/
def merkleRoot (pub sec : List Byte) (layer tree : Nat) : List Byte :=
  treeNode (merklePlace layer tree) pub (merkleLeaf (merklePlace layer tree) pub sec) 8 0

theorem merkleRecover_sign (pub sec : List Byte) (layer tree : Nat) {leaf : Nat} (hl : leaf < 256) {v : List Byte} (h : v.length = 32) :
    merkleRecover pub layer tree leaf v (merkleSign pub sec layer tree leaf v) = merkleRoot pub sec layer tree := by
  have h67 : (chainSign { merklePlace layer tree with pair := leaf } pub sec v).length = 67 := by simp [chainSign]
  unfold merkleRecover merkleSign
  dsimp only
  rw [List.take_left' h67, List.drop_left' h67, chainRecover_sign _ pub sec h, climbTree_root,
    show leaf / 2 ^ 8 = 0 by omega]
  rfl

theorem merkleRoot_length (pub sec : List Byte) (layer tree : Nat) : (merkleRoot pub sec layer tree).length = 32 := hash_length _ _ _

/-- The layers of a signature lead to the root of the top tree. -/
theorem layersRecover_sign (pub sec : List Byte) : ∀ (n layer tree leaf : Nat) (v : List Byte), leaf < 256 → v.length = 32 →
    layersRecover pub (n + 1) layer tree leaf v (layersSign pub sec (n + 1) layer tree leaf v) =
      merkleRoot pub sec (layer + n) (tree / 256 ^ n)
  | n, layer, tree, leaf, v, hl, hv => by
    have h75 := merkleSign_length pub sec layer tree leaf v
    unfold layersRecover layersSign
    dsimp only
    rw [List.take_left' h75, List.drop_left' h75, merkleRecover_sign pub sec layer tree hl hv]
    match n with
    | 0 => simp [layersRecover]
    | n + 1 =>
      rw [layersRecover_sign pub sec n (layer + 1) (tree / 256) (tree % 256) _ (by omega) (merkleRoot_length _ _ _ _)]
      rw [show layer + 1 + n = layer + (n + 1) by omega, Nat.div_div_eq_div_mul, Nat.pow_succ, Nat.mul_comm 256]

theorem layersSign_length (pub sec : List Byte) : ∀ (n layer tree leaf : Nat) (v : List Byte),
    (layersSign pub sec n layer tree leaf v).length = 75 * n
  | 0, _, _, _, _ => rfl
  | n + 1, layer, tree, leaf, v => by
    unfold layersSign
    dsimp only
    rw [List.length_append, merkleSign_length, layersSign_length pub sec n]; omega

theorem chainSteps_length (p : HashPlace) (pub : List Byte) : ∀ (n first : Nat) (v : List Byte), v.length = 32 →
    (chainSteps p pub n first v).length = 32
  | 0, _, _, h => h
  | n + 1, first, _, _ => chainSteps_length p pub n (first + 1) _ (hash_length _ _ _)

theorem treeNode_length (p : HashPlace) (pub : List Byte) (leaf : Nat → List Byte) (h : ∀ i, (leaf i).length = 32) :
    ∀ n i : Nat, (treeNode p pub leaf n i).length = 32
  | 0, i => h i
  | _ + 1, _ => hash_length _ _ _

theorem merkleSign_parts (pub sec : List Byte) (layer tree leaf : Nat) (v : List Byte) :
    ∀ x ∈ merkleSign pub sec layer tree leaf v, x.length = 32 := by
  intro x hx
  simp only [merkleSign, chainSign, besideWay, List.mem_append, List.mem_map] at hx
  rcases hx with ⟨i, _, rfl⟩ | ⟨i, _, rfl⟩
  · exact chainSteps_length _ _ _ _ _ (hash_length _ _ _)
  · exact treeNode_length _ _ _ (fun _ => hash_length _ _ _) _ _

theorem layersSign_parts (pub sec : List Byte) : ∀ (n layer tree leaf : Nat) (v : List Byte),
    ∀ x ∈ layersSign pub sec n layer tree leaf v, x.length = 32
  | 0, _, _, _, _, x, hx => by simp [layersSign] at hx
  | n + 1, layer, tree, leaf, _, x, hx => by
    unfold layersSign at hx
    rcases List.mem_append.mp hx with h | h
    · exact merkleSign_parts _ _ _ _ _ _ x h
    · exact layersSign_parts pub sec n _ _ _ _ x h

theorem fewSign_length (p : HashPlace) (pub sec digest : List Byte) : (fewSign p pub sec digest).length = 330 := by
  unfold fewSign
  rw [length_flatMap_of 15 _ _ (fun t _ => by simp [besideWay])]; simp

theorem fewSign_parts (p : HashPlace) (pub sec digest : List Byte) : ∀ x ∈ fewSign p pub sec digest, x.length = 32 := by
  intro x hx
  simp only [fewSign, besideWay, List.mem_flatMap, List.mem_cons, List.mem_map] at hx
  obtain ⟨t, _, rfl | ⟨i, _, rfl⟩⟩ := hx
  · exact hash_length _ _ _
  · exact treeNode_length _ _ _ (fun _ => hash_length _ _ _) _ _

/-- The hash values of a signature are found again. -/
theorem pieces_flatten : ∀ (l : List (List Byte)), (∀ x ∈ l, x.length = 32) → ∀ n, n = l.length →
    (List.range n).map (fun i => (l.flatten.drop (32 * i)).take 32) = l := by
  intro l
  induction l with
  | nil => intro _ n hn; subst hn; rfl
  | cons a l ih =>
    intro h n hn
    subst hn
    have ha : a.length = 32 := h a (by simp)
    rw [List.length_cons, List.range_succ_eq_map, List.map_cons, List.map_map]
    simp only [List.flatten_cons, Nat.mul_zero, List.drop_zero, List.take_left' ha]
    congr 1
    conv => rhs; rw [← ih (fun x hx => h x (by simp [hx])) l.length rfl]
    apply List.map_congr_left
    intro i _
    simp only [Function.comp]
    rw [show 32 * Nat.succ i = a.length + 32 * i by rw [ha]; omega, List.drop_append,
      List.drop_eq_nil_of_le (by omega), List.nil_append, Nat.add_sub_cancel_left]

theorem flatten_length_of : ∀ (l : List (List Byte)), (∀ x ∈ l, x.length = 32) → l.flatten.length = 32 * l.length
  | [], _ => rfl
  | a :: l, h => by
    rw [List.flatten_cons, List.length_append, h a (by simp), flatten_length_of l (fun x hx => h x (by simp [hx])), List.length_cons]
    omega

theorem slhPublic_eq (key : List Byte) : slhPublic key = (key.drop 64).take 32 ++ merkleRoot ((key.drop 64).take 32) (key.take 32) 7 0 := rfl

theorem slhPublic_length {key : List Byte} (hk : 96 ≤ key.length) : (slhPublic key).length = 64 := by
  rw [slhPublic_eq, List.length_append, merkleRoot_length, List.length_take, List.length_drop]; omega

/-- What a signature is made of: 931 hash values of 32 bytes. -/
theorem slhSign_eq (key msg noise : List Byte) : ∃ rand : List Byte, rand.length = 32 ∧ ∀ sec pub digest p few v,
    sec = key.take 32 → pub = (key.drop 64).take 32 → digest = slhDigest rand (slhPublic key) msg →
    p = fewPlace (slhTree digest) (slhLeaf digest) → few = fewSign p pub sec digest → v = fewRecover p pub digest few →
    slhSign key msg noise = (rand :: (few ++ layersSign pub sec 8 0 (slhTree digest) (slhLeaf digest) v)).flatten := by
  refine ⟨shake256 32 ((key.drop 32).take 32 ++ noise ++ slhMessage msg), shake256_length (by omega) _, ?_⟩
  rintro _ _ _ _ _ _ rfl rfl rfl rfl rfl rfl
  rfl

theorem slhSign_parts (rand pub sec digest : List Byte) (hr : rand.length = 32) (p : HashPlace) (layer tree leaf : Nat) (v : List Byte) :
    (∀ x ∈ rand :: (fewSign p pub sec digest ++ layersSign pub sec 8 layer tree leaf v), x.length = 32) ∧
      (rand :: (fewSign p pub sec digest ++ layersSign pub sec 8 layer tree leaf v)).length = 931 := by
  refine ⟨fun x hx => ?_, by simp [fewSign_length, layersSign_length]⟩
  rcases List.mem_cons.mp hx with rfl | hx
  · exact hr
  · rcases List.mem_append.mp hx with h | h
    · exact fewSign_parts _ _ _ _ x h
    · exact layersSign_parts _ _ _ _ _ _ _ x h

theorem slhSign_length {key : List Byte} (_ : 96 ≤ key.length) (msg noise : List Byte) : (slhSign key msg noise).length = 29792 := by
  obtain ⟨rand, hr, h⟩ := slhSign_eq key msg noise
  rw [h _ _ _ _ _ _ rfl rfl rfl rfl rfl rfl]
  obtain ⟨h1, h2⟩ := slhSign_parts rand _ (key.take 32) _ hr _ 0 _ _ _
  rw [flatten_length_of _ h1, h2]

/-- A signature verifies under the public key of the key that made it (R372, R374). -/
theorem slhVerify_sign {key : List Byte} (hk : 96 ≤ key.length) (msg noise : List Byte) :
    slhVerify (slhPublic key) msg (slhSign key msg noise) = true := by
  have hlen := slhSign_length hk msg noise
  have h3 := slhPublic_length hk
  obtain ⟨rand, hr, h⟩ := slhSign_eq key msg noise
  generalize hpub : (key.drop 64).take 32 = pub at h
  generalize hdig : slhDigest rand (slhPublic key) msg = digest at h
  have hsig := h _ _ _ _ _ _ rfl rfl rfl rfl rfl rfl
  obtain ⟨hall, h931⟩ := slhSign_parts rand pub (key.take 32) digest hr (fewPlace (slhTree digest) (slhLeaf digest)) 0 (slhTree digest)
    (slhLeaf digest) (fewRecover (fewPlace (slhTree digest) (slhLeaf digest)) pub digest
      (fewSign (fewPlace (slhTree digest) (slhLeaf digest)) pub (key.take 32) digest))
  have hpl : pub.length = 32 := by rw [← hpub, List.length_take, List.length_drop]; omega
  have h1 : (slhPublic key).take 32 = pub := by rw [slhPublic_eq, hpub, List.take_left' hpl]
  have h2 : (slhPublic key).drop 32 = merkleRoot pub (key.take 32) 7 0 := by rw [slhPublic_eq, hpub, List.drop_left' hpl]
  have hd : digest.length = 47 := by rw [← hdig]; exact shake256_length (by omega) _
  have hleaf : slhLeaf digest < 256 := by
    have := leNat_lt (digest.drop 46).reverse
    simpa [slhLeaf, ofBigEndian, hd] using this
  have htree : slhTree digest / 256 ^ 7 = 0 := by
    have := leNat_lt ((digest.drop 39).take 7).reverse
    rw [List.length_reverse, List.length_take, List.length_drop, hd] at this
    exact Nat.div_eq_of_lt this
  have hparts := pieces_flatten _ hall 931 h931.symm
  rw [← hsig] at hparts
  have hfl := fewSign_length (fewPlace (slhTree digest) (slhLeaf digest)) pub (key.take 32) digest
  unfold slhVerify
  simp only [slhParts, hparts, h1, h2, h3, hlen, List.getD_cons_zero, hdig, List.drop_succ_cons, List.drop_zero, List.take_left' hfl,
    List.drop_left' hfl, beq_self_eq_true, Bool.true_and]
  have := layersRecover_sign pub (key.take 32) 7 0 (slhTree digest) (slhLeaf digest)
    (fewRecover (fewPlace (slhTree digest) (slhLeaf digest)) pub digest
      (fewSign (fewPlace (slhTree digest) (slhLeaf digest)) pub (key.take 32) digest)) hleaf (hash_length _ _ _)
  rw [this, htree]
  simp

end Sys2Proof.Machine
end

