-- ==== Sys2Proof/Tests/Slice0.lean ====
section
/-! SUPPORT. Slice0: small tests. Decode tests give words written out from the encodings and samples of the spec; the
smoke tests give one ill-formed term for each check of WellFormed; the witness tests give, for every statement with
hypotheses, a concrete state and operands that meet them together. -/

namespace Sys2Proof.Tests

open Sys2Proof Sys2Proof.Machine


/-! ## Words -/

/-- A header: IDLE, PRED. -/
def hd (idle : BitVec 10) (pred : BitVec 3) : Hdr := { idle := idle, pred := pred, pneg := false }
/-- The header of a word with IDLE 0 and no predicate. -/
def h0 : Hdr := hd 0 0
/-- R fields: DST, SA, SB, FN8, IMM16. -/
def r (dst sa sb : RegF) (fn : BitVec 8) (imm : BitVec 16) : RF := { h := h0, dst, sa, sb, fn, imm }
/-- I fields: DST, SA, IMM30. -/
def im (dst sa : RegF) (imm : BitVec 30) : IF := { h := h0, dst, sa, imm }
/-- J fields: LNK, OFF36. -/
def j (lnk : RegF) (off : BitVec 36) : JF := { h := h0, lnk, off }
/-- M fields: DS, BASE, IDX, SZ, SC, HINT, FN, OFF12. -/
def mf (ds base idx : RegF) (sz sc : BitVec 3) (hint : BitVec 2) (fn : BitVec 4) (off : BitVec 12) : MF :=
  { h := h0, ds, base, idx, sz, sc, hint, fn, off }
/-- V fields with no slice and no scalar: TD, TA, TB, TC, MSK, TY, MD. -/
def vf (td ta tb tc : BitVec 5) (msk : BitVec 3) (ty : BitVec 4) (md : BitVec 2) : VF :=
  { h := h0, td, ta, tb, tc, sm := 0, sx := 0, si := 0, msk, ty, md }
/-- X fields, all 0. -/
def x0 : XF :=
  { h := h0, ew := 0, ep := 0, ts := 0, sq := false, ct := 0, hn := 0, fn := 0, ty := 0, t := false, acc := false,
    sat := false, chn := 0 }
/-- Q fields: QN, DA, SA, LN, CRC, FN, IMM12. -/
def qf (qn : BitVec 4) (da sa ln : RegF) (crc : BitVec 2) (fn : BitVec 6) (imm : BitVec 12) : QF :=
  { h := h0, qn, da, sa, ln, crc, fn, imm }
/-- S fields: DST, SA, IMM22. -/
def sf (dst sa : RegF) (imm : BitVec 22) : SF := { h := h0, dst, sa, imm }

/-! ## Decoding -/

/-- The samples of the scalar chapter, and the other ALU and immediate words by the codes of R201 and R202. -/
theorem test_words_scalar : ∀ p ∈ ([
    (0x0240000000000000, .nop { r 0 0 0 0 0 with h := hd 9 0 }), (0x00004070C40E0000, .mulh (r 7 3 4 14 0)),
    (0x0000803109030000, .cmp (r 3 4 9 3 0)), (0x0000C02043030000, .plog (r 2 1 3 3 0)),
    (0x00010080C40A0000, .sel (r 8 3 4 10 0)), (0x00C2005140000001, .addi { im 5 5 1 with h := hd 3 0 }),
    (0x0100431180000000, .add { r 49 6 0 0 0 with h := hd 4 0 }), (0x0003806180000003, .srai (im 6 6 3)),
    (0x0004003000000041, .ldi (im 3 0 65)), (0x000440927F800000, .ldhi (im 9 9 0x3F800000)),
    (0x0006100FFFFFFFFD, .br { j 0 0xFFFFFFFFD with h := hd 0 2 }), (0x000641F00000000C, .call (j 31 12)),
    (0x00068007C0000000, .jr (r 0 31 0 0 0)), (0x0006C00100000003, .loop (r 0 4 0 0 3)),
    (0x0007000000000005, .brq (j 0 5)), (0x0007400040060000, .bopush (r 0 1 0 6 0)),
    (0x0008000000000007, .post (im 0 0 7)), (0x0008400000000007, .await (im 0 0 7)),
    (0x000880000003FFFF, .waitc (im 0 0 0x3FFFF)), (0x0008C00000000000, .go (r 0 0 0 0 0)),
    (0x0009000000000000, .halt (r 0 0 0 0 0)), (0x0009400000000000, .yield (r 0 0 0 0 0)),
    (0x000C0071400B0000, .bar (r 7 5 0 11 0)), (0x000A022180030000, .amode (r 34 6 0 3 0)),
    (0x000A422140000000, .aadd (r 34 5 0 0 0)), (0x000A822000000008, .astep (r 34 0 0 0 8))] : List (Nat × Instr)),
    decodeTableWord 64 p.1 = some p.2 := by
  decide

/-- ALU words g1 = g2 op g3 with IMM16 5 (0 where the word has one operand): OP 1, the FN of R202. -/
theorem test_words_alu : ∀ p ∈ ([
    (0, .add (r 1 2 3 0 5)), (1, .sub (r 1 2 3 1 5)), (2, .and (r 1 2 3 2 5)), (3, .or (r 1 2 3 3 5)),
    (4, .xor (r 1 2 3 4 5)), (5, .shl (r 1 2 3 5 5)), (6, .shr (r 1 2 3 6 5)), (7, .sra (r 1 2 3 7 5)),
    (8, .rotl (r 1 2 3 8 5)), (9, .min (r 1 2 3 9 5)), (10, .max (r 1 2 3 10 5)), (11, .minn (r 1 2 3 11 5)),
    (12, .maxn (r 1 2 3 12 5)), (13, .mul (r 1 2 3 13 5)), (14, .mulh (r 1 2 3 14 5)), (15, .mulhn (r 1 2 3 15 5)),
    (16, .div (r 1 2 3 16 5)), (17, .divn (r 1 2 3 17 5)), (18, .rem (r 1 2 3 18 5)), (19, .remn (r 1 2 3 19 5)),
    (23, .sext (r 1 2 3 23 5)), (24, .zext (r 1 2 3 24 5))] : List (Nat × Instr)),
    decodeTableWord 64 (2 ^ 46 + 1 * 2 ^ 36 + 2 * 2 ^ 30 + 3 * 2 ^ 24 + p.1 * 2 ^ 16 + 5) = some p.2 := by
  decide

/-- CLZ, POPC and BREV (FN 0x14 to 0x16), and the immediate words of OP 0x09 to 0x0F. -/
theorem test_words_one_operand : ∀ p ∈ ([
    (2 ^ 46 + 2 ^ 36 + 2 * 2 ^ 30 + 0x14 * 2 ^ 16, .clz (r 1 2 0 0x14 0)),
    (2 ^ 46 + 2 ^ 36 + 2 * 2 ^ 30 + 0x15 * 2 ^ 16, .popc (r 1 2 0 0x15 0)),
    (2 ^ 46 + 2 ^ 36 + 2 * 2 ^ 30 + 0x16 * 2 ^ 16, .brev (r 1 2 0 0x16 0)),
    (0x09 * 2 ^ 46 + 2 ^ 36 + 2 * 2 ^ 30 + 7, .andi (im 1 2 7)), (0x0A * 2 ^ 46 + 2 ^ 36 + 2 * 2 ^ 30 + 7, .ori (im 1 2 7)),
    (0x0B * 2 ^ 46 + 2 ^ 36 + 2 * 2 ^ 30 + 7, .xori (im 1 2 7)), (0x0C * 2 ^ 46 + 2 ^ 36 + 2 * 2 ^ 30 + 7, .shli (im 1 2 7)),
    (0x0D * 2 ^ 46 + 2 ^ 36 + 2 * 2 ^ 30 + 7, .shri (im 1 2 7)), (0x0F * 2 ^ 46 + 2 ^ 36 + 2 * 2 ^ 30 + 7, .muli (im 1 2 7))]
    : List (Nat × Instr)), decodeTableWord 64 p.1 = some p.2 := by
  decide

/-- The samples of the memory, atomic and Lookout chapters. -/
theorem test_words_memory : ∀ p ∈ ([
    (0x0010006105401008, .ld (mf 6 4 5 2 0 0 1 8)), (0x0010003040600000, .ld (mf 3 1 0 3 0 0 0 0)),
    (0x00104080406C0020, .st (mf 8 1 0 3 3 0 0 0x20)), (0x0010407880410010, .st (mf 7 34 0 2 0 1 0 16)),
    (0x0010832800800000, .ldq (mf 50 32 0 4 0 0 0 0)), (0x0010C350C0800000, .stq (mf 53 3 0 4 0 0 0 0)),
    (0x0011000000000000, .mark (mf 0 0 0 0 0 0 0 0)), (0x00114000000C0000, .fence (mf 0 0 0 0 3 0 0 0)),
    (0x0011400000140000, .fence (mf 0 0 0 0 5 0 0 0)), (0x00118040C0600000, .rinv (mf 4 3 0 3 0 0 0 0)),
    (0x0011800000800000, .rinv (mf 0 0 0 4 0 0 0 0)), (0x00120000C0820100, .pref (mf 0 3 0 4 0 2 0 256)),
    (0x00128050C0000000, .rpin (mf 5 3 0 0 0 0 0 0)), (0x0012C05000000000, .runpin (mf 5 0 0 0 0 0 0 0)),
    (0x00140060C5600000, .atom (mf 6 3 5 3 0 0 0 0)), (0x00140060C76C9008, .atom (mf 6 3 7 3 3 0 9 8)),
    (0x00144050C0405004, .red (mf 5 3 0 2 0 0 5 4)), (0x00148090C0601000, .redx (mf 9 3 0 3 0 0 1 0)),
    (0x0014C0A0C0608000, .rdx (mf 10 3 0 3 0 0 8 0)), (0x00150060C7600002, .waita (mf 6 3 7 3 0 0 0 2)),
    (0x00160040C0800000, .wset (mf 4 3 0 4 0 0 0 0)), (0x0016400100000000, .wclr (r 0 4 0 0 0)),
    (0x0016800100000000, .warm (r 0 4 0 0 0)), (0x0016C06000010000, .winfo (r 6 0 0 1 0)),
    (0x0016C07100130000, .winfo (r 7 4 0 0x13 0))] : List (Nat × Instr)), decodeTableWord 64 p.1 = some p.2 := by
  decide

/-- The samples of the engine and system chapters; the remaining copy, CRC and control words by R201, R202 and R193. -/
theorem test_words_queue : ∀ p ∈ ([
    (0x001800440C600000, .cpy (qf 1 4 3 6 0 0 0)), (0x001800840C680000, .cpy (qf 2 4 3 6 2 0 0)),
    (0x001800800C601000, .cpySnk (qf 2 0 3 6 0 1 0)), (0x60 * 2 ^ 46 + 1 * 2 ^ 38 + 4 * 2 ^ 32 + 6 * 2 ^ 20 + 2 * 2 ^ 12, .cpySrc (qf 1 4 0 6 0 2 0)),
    (0x001840A188600000, .cpy2 (qf 2 33 34 6 0 0 0)), (0x001880040C507000, .gath (qf 0 4 3 5 0 7 0)),
    (0x0018C0440C502000, .scat (qf 1 4 3 5 0 2 0)), (0x64 * 2 ^ 46 + 1 * 2 ^ 38 + 3 * 2 ^ 26 + 6 * 2 ^ 20 + 2 ^ 18, .crcqSum (qf 1 0 3 6 1 0 0)),
    (0x0019004400001000, .crcqPut (qf 1 4 0 0 0 1 0)), (0x64 * 2 ^ 46 + 1 * 2 ^ 38 + 3 * 2 ^ 26 + 2 * 2 ^ 12, .crcqSeed (qf 1 0 3 0 0 2 0)),
    (0x001940000C000000, .trset (qf 0 0 3 0 0 0 0)), (0x001940C00C000003, .trset (qf 3 0 3 0 0 0 3)),
    (0x001980C000000010, .tradv (qf 3 0 0 0 0 0 16)), (0x0019C04000000000, .trel (qf 1 0 0 0 0 0 0)),
    (0x001A000000000002, .qfence (qf 0 0 0 0 0 0 2)), (0x001A000000000022, .qfence (qf 0 0 0 0 0 0 0x22)),
    (0x001A808000001004, .qbind (qf 2 0 0 0 0 1 4)), (0x001E000060000009, .csrr (sf 6 0 9)),
    (0x001E000401000008, .csrw (sf 0 4 8)), (0x001E000C01400009, .csrc (sf 0 5 9)),
    (0x78 * 2 ^ 46 + 2 * 2 ^ 34 + 5 * 2 ^ 22 + 9, .csrs (sf 0 5 9)), (0x78 * 2 ^ 46 + 8 * 2 ^ 34, .trap (sf 0 0 0)),
    (0x001E002400000000, .bkpt (sf 0 0 0)), (0x001E002801C00015, .rmark (sf 0 7 0x15)),
    (0x001E002C80C00001, .ecall (sf 8 3 1))] : List (Nat × Instr)), decodeTableWord 64 p.1 = some p.2 := by
  decide

/-- The samples of the vector chapters. -/
theorem test_words_vector : ∀ p ∈ ([
    (0x0020006110000001, .vadd (vf 3 1 2 0 0 0 1)), (0x0020C08531C00008, .vfma (vf 4 5 6 7 0 2 0)),
    (0x0021490848000040, .vmax { vf 8 8 9 0 1 0 0 with h := hd 0 1 }),
    (0x0124402848800000, .vcmp { vf 1 8 9 2 0 0 0 with h := hd 4 0 }),
    (0x0024C1880031C600, .vmov { vf 12 8 0 0 0 0 0 with sm := 3, sx := 3, si := 35 }),
    (0x0025028000038000, .vsplat { vf 20 0 0 0 0 0 0 with sx := 7 }),
    (0x0025812804000209, .vcvt { vf 9 8 0 16 0 2 1 with si := 1 }),
    (0x0025C14800028035, .vquant { vf 10 8 0 0 0 13 1 with sx := 5 }), (0x002640460000000C, .vchk (vf 2 6 0 0 0 3 0)),
    (0x002C804100000001, .vrred (vf 2 1 0 0 0 0 1)), (0x002E004100000000, .vtrn (vf 2 1 0 0 0 0 0)),
    (0x0030004100C18A00, .vwmax { vf 2 1 0 3 0 0 0 with sx := 3, si := 5 }),
    (0x0031408308C18A00, .vadj { vf 4 3 1 3 0 0 0 with sx := 3, si := 5 }), (0x0031800330000000, .vwout (vf 0 3 6 0 0 0 0)),
    (0x0031C06030000000, .vwin (vf 3 0 6 0 0 0 0)), (0x0034008000100000, .vldw { vf 4 0 0 0 0 0 0 with sm := 1 }),
    (0x0034400340100000, .vstw { vf 0 3 8 0 0 0 0 with h := h0, tb := 8, ta := 3, sm := 1 }),
    (0x003480A020118400, .vpopq { vf 5 0 4 0 0 0 0 with sm := 1, sx := 3, si := 2 }),
    (0x0035012610100AC0, .vcpush { vf 9 6 2 0 3 0 0 with sm := 1, si := 5 })] : List (Nat × Instr)),
    decodeTableWord 64 p.1 = some p.2 := by
  decide

/-- The remaining vector words, TD 1, TA 2, TB 3 where the word has them, of type I32 (TY 7), by the OPs of R201. -/
theorem test_words_vector_ops : ∀ p ∈ ([
    (0x81, .vsub (vf 1 2 3 0 0 7 0)), (0x82, .vmul (vf 1 2 3 0 0 7 0)), (0x84, .vmin (vf 1 2 3 0 0 7 0)),
    (0x89, .vand (vf 1 2 3 0 0 7 0)), (0x8A, .vor (vf 1 2 3 0 0 7 0)), (0x8B, .vxor (vf 1 2 3 0 0 7 0)),
    (0x8C, .vshl (vf 1 2 3 0 0 7 0)), (0x8D, .vshr (vf 1 2 3 0 0 7 0)), (0x8E, .vsra (vf 1 2 3 0 0 7 0)),
    (0x8F, .vsadd (vf 1 2 3 0 0 7 0)), (0x90, .vssub (vf 1 2 3 0 0 7 0)), (0x92, .vsel (vf 1 2 3 0 0 7 0)),
    (0x9A, .vclamp (vf 1 2 3 0 0 7 0)), (0xC4, .vwclamp (vf 1 2 3 0 0 7 0))] : List (Nat × Instr)),
    decodeTableWord 64 (p.1 * 2 ^ 46 + 1 * 2 ^ 37 + 2 * 2 ^ 32 + 3 * 2 ^ 27 + 7 * 2 ^ 2) = some p.2 := by
  decide

/-- The one-source vector words, TD 1, TA 2 (TY 7 for integers, 0 for F32), by the OPs of R201. -/
theorem test_words_vector_unary : ∀ p ∈ ([
    (0x86, 7, .vabs (vf 1 2 0 0 0 7 0)), (0x87, 7, .vneg (vf 1 2 0 0 0 7 0)), (0xA0, 0, .vrcp (vf 1 2 0 0 0 0 0)),
    (0xA1, 0, .vrsq (vf 1 2 0 0 0 0 0)), (0xA2, 0, .vsqrt (vf 1 2 0 0 0 0 0)), (0xA3, 0, .vexp2 (vf 1 2 0 0 0 0 0)),
    (0xA4, 0, .vlog2 (vf 1 2 0 0 0 0 0)), (0xA5, 0, .vsin (vf 1 2 0 0 0 0 0)), (0xA6, 0, .vcos (vf 1 2 0 0 0 0 0)),
    (0xA7, 0, .vtanh (vf 1 2 0 0 0 0 0)), (0xB0, 0, .vrrot (vf 1 2 0 0 0 0 0)), (0xB1, 0, .vrbc (vf 1 2 0 0 0 0 0)),
    (0xB3, 0, .vrscan (vf 1 2 0 0 0 0 0)), (0xB4, 0, .vcrot (vf 1 2 0 0 0 0 0)), (0xB5, 0, .vcbc (vf 1 2 0 0 0 0 0)),
    (0xB6, 0, .vcred (vf 1 2 0 0 0 0 0)), (0xB7, 0, .vcscan (vf 1 2 0 0 0 0 0)), (0xC1, 0, .vwmin (vf 1 2 0 0 0 0 0)),
    (0xC2, 0, .vwmed (vf 1 2 0 0 0 0 0)), (0xC3, 0, .vwssum (vf 1 2 0 0 0 0 0))] : List (Nat × Nat × Instr)),
    decodeTableWord 64 (p.1 * 2 ^ 46 + 1 * 2 ^ 37 + 2 * 2 ^ 32 + p.2.1 * 2 ^ 2) = some p.2.2 := by
  decide

/-- VMOV insert (TC 1), VIOTA, VDEQ of KB8 (TC 14) to F32, VPUSHQ and VCPOP. -/
theorem test_words_vector_forms : ∀ p ∈ ([
    (0x93 * 2 ^ 46 + 2 ^ 37 + 2 * 2 ^ 32 + 3 * 2 ^ 27 + 2 ^ 22 + 2 ^ 20, .vmovIns { vf 1 2 3 1 0 0 0 with sm := 1 }),
    (0x95 * 2 ^ 46 + 2 ^ 37 + 7 * 2 ^ 2, .viota (vf 1 0 0 0 0 7 0)),
    (0x98 * 2 ^ 46 + 2 ^ 37 + 2 * 2 ^ 32 + 14 * 2 ^ 22, .vdeq (vf 1 2 0 14 0 0 0)),
    (0xD3 * 2 ^ 46 + 2 * 2 ^ 32 + 4 * 2 ^ 27 + 2 ^ 20, .vpushq { vf 0 2 4 0 0 0 0 with sm := 1 }),
    (0xD5 * 2 ^ 46 + 2 ^ 37 + 4 * 2 ^ 27 + 2 ^ 20, .vcpop { vf 1 0 4 0 0 0 0 with sm := 1 })] : List (Nat × Instr)),
    decodeTableWord 64 p.1 = some p.2 := by
  decide

/-- The samples of the matrix chapter, and MSWAP. -/
theorem test_words_matrix : ∀ p ∈ ([
    (0x0038000018000100, .mldw { x0 with ts := 12, ty := 4 }), (0x0038000080000C00, .mldw { x0 with ep := 2, fn := 3 }),
    (0x003880000A2A7CA0, .mmul { x0 with ts := 5, ct := 2, hn := 10, fn := 31, ty := 2, t := true }),
    (0x0038800008003C00, .mmul { x0 with ts := 4, fn := 15 }),
    (0x0038C01100300000, .mzero { x0 with ew := 1, ep := 4, ct := 3 }),
    (0x00390000D0000010, .mrd { x0 with ep := 3, ts := 8, acc := true }),
    (0x003900001413F340, .mrd { x0 with ts := 10, ct := 1, hn := 3, fn := 60, ty := 13 }),
    (0x003940000B210340, .mrdq { x0 with ts := 5, sq := true, ct := 2, hn := 1, ty := 13 }),
    (0x0039800006003800, .mmode { x0 with ts := 3, fn := 14 }),
    (0x0039C0000010FC82, .mchain { x0 with ct := 1, fn := 63, ty := 2, chn := 1 }),
    (0x003A000028000000, .kbind { x0 with ts := 20 }), (0x003A400000030000, .krel { x0 with hn := 3 }),
    (0x003A800012000800, .kgen { x0 with ts := 9, fn := 2 }),
    (0x003AC0000C011010, .msolve { x0 with ts := 6, hn := 1, fn := 4, acc := true }), (0x003B00000E000000, .mstat { x0 with ts := 7 }),
    (0x003B400000001000, .msamp { x0 with fn := 4 }), (0x003B400000008000, .msamp { x0 with fn := 32 }),
    (0xE1 * 2 ^ 46, .mswap x0)] : List (Nat × Instr)), decodeTableWord 64 p.1 = some p.2 := by
  decide

/-- Reserved OPs and reserved values of fields give no instruction (R201, R204, R185). -/
theorem test_words_refused : ∀ w ∈ [0x05 * 2 ^ 46, 0x69 * 2 ^ 46, 0xFF * 2 ^ 46, 0x0240000000000001, 0x40 * 2 ^ 46 + 7 * 2 ^ 21,
    0x78 * 2 ^ 46 + 4 * 2 ^ 34, 2 ^ 46 + 0x19 * 2 ^ 16, 0x78 * 2 ^ 46 + 0x1FF], decodeTableWord 64 w = none := by
  decide


/-! ## Ill-formed terms -/

/-- A flit of a port and an operation, all else 0. -/
def flit (port opc : Nat) : Flit :=
  { port, opc, part := 0, seq := 0, ack := 0, srcn := 0, dstn := 0, size := 0, tag := 0, fn := 0, addr := 0, data := [] }

/-- PRED 0 with PNEG 1 (R185), on a word of each format. -/
theorem test_ill_formed_header : ∀ i ∈ ([
    .addi { im 1 2 3 with h := { h0 with pneg := true } }, .add { r 1 2 3 0 0 with h := { h0 with pneg := true } },
    .br { j 0 1 with h := { h0 with pneg := true } }, .ld { mf 3 1 0 3 0 0 0 0 with h := { h0 with pneg := true } },
    .vadd { vf 1 2 3 0 0 0 0 with h := { h0 with pneg := true } }, .mswap { x0 with h := { h0 with pneg := true } },
    .cpy { qf 1 4 3 6 0 0 0 with h := { h0 with pneg := true } }, .csrr { sf 6 0 9 with h := { h0 with pneg := true } }] : List Instr), i.wf = false := by
  decide

/-- Scalar words: unused fields, function codes, and registers outside their kind (R185 to R197, R212 to R234). -/
theorem test_ill_formed_scalar : ∀ i ∈ ([
    .nop (r 1 0 0 0 0), .nop (r 0 1 0 0 0), .nop (r 0 0 1 0 0), .nop (r 0 0 0 1 0), .nop (r 0 0 0 0 1), .add (r 1 2 3 1 0),
    .clz (r 1 2 3 0x14 0), .popc (r 1 2 0 0x15 1), .brev (r 1 2 0 0 0), .cmp (r 0 4 9 3 0), .cmp (r 8 4 9 3 0), .cmp (r 3 4 9 6 0),
    .plog (r 0 1 3 3 0), .plog (r 2 8 3 3 0), .plog (r 2 1 8 3 0), .plog (r 2 1 3 6 0), .plog (r 2 1 3 5 0), .plog (r 2 1 3 3 1),
    .sel (r 8 3 4 16 0), .sel (r 8 3 4 10 1), .ldi (im 3 1 65), .br (j 1 3), .call (j 0 12), .call (j 32 12), .jr (r 0 31 1 0 0),
    .jr (r 0 31 0 1 0), .loop (r 1 4 0 0 3), .loop (r 0 4 1 0 3), .loop (r 0 4 0 1 3), .brq (j 1 5), .bopush (r 1 1 0 6 0),
    .bopush (r 0 8 0 6 0), .bopush (r 0 1 1 6 0), .bopush (r 0 1 0 0 0), .bopush (r 0 1 0 16 0), .bopush (r 0 1 0 32 0),
    .bopush (r 0 1 0 6 1), .post (im 1 0 7), .post (im 0 1 7), .post (im 0 0 0), .await (im 0 0 64), .waitc (im 1 0 0),
    .waitc (im 0 1 0), .waitc (im 0 0 (BitVec.ofNat 30 (2 ^ 24))), .go (r 0 0 0 0 1), .halt (r 1 0 0 0 0), .yield (r 0 1 0 0 0), .bar (r 7 5 1 11 0),
    .bar (r 7 5 0 7 0), .bar (r 7 5 0 20 0), .bar (r 7 5 0 11 1), .amode (r 31 6 0 3 0), .amode (r 48 6 0 3 0),
    .amode (r 34 6 1 3 0), .amode (r 34 6 0 4 0), .amode (r 34 6 0 3 1), .aadd (r 5 5 0 0 0), .aadd (r 34 5 0 1 0),
    .astep (r 34 0 1 0 8), .astep (r 34 0 0 1 8)] : List Instr), i.wf = false := by
  decide

/-- Memory words: sizes, scopes, hints, functions, unused fields (R190, R204, R237 to R254). -/
theorem test_ill_formed_memory : ∀ i ∈ ([
    .ld (mf 3 1 0 4 0 0 0 0), .ld (mf 3 1 0 3 6 0 0 0), .ld (mf 3 1 0 3 0 3 0 0), .ld (mf 3 1 0 3 0 0 2 0),
    .ld (mf 3 1 0 3 0 0 1 0), .st (mf 8 1 0 4 0 0 0 0), .st (mf 8 1 0 3 0 0 1 0), .ldq (mf 47 1 0 3 0 0 0 0),
    .ldq (mf 50 1 0 5 0 0 0 0), .ldq (mf 50 1 0 3 0 0 1 0), .stq (mf 5 1 0 3 0 0 0 0), .mark (mf 0 0 0 1 0 0 0 0),
    .mark (mf 0 0 0 0 1 0 0 0), .mark (mf 1 0 0 0 0 0 0 0), .fence (mf 0 1 0 0 3 0 0 0), .fence (mf 0 0 1 0 3 0 0 0),
    .fence (mf 0 0 0 0 6 0 0 0), .fence (mf 0 0 0 0 3 0 0 1), .rinv (mf 4 3 0 2 0 0 0 0), .rinv (mf 4 0 0 4 0 0 0 0),
    .pref (mf 0 3 0 3 0 0 0 0), .pref (mf 1 3 0 4 0 0 0 0), .pref (mf 0 3 0 4 1 0 0 0), .rpin (mf 5 3 0 1 0 0 0 0),
    .runpin (mf 5 3 0 0 0 0 0 0), .runpin (mf 5 0 0 0 0 0 0 1), .atom (mf 6 3 5 1 0 0 0 0), .atom (mf 6 3 5 3 0 1 0 0),
    .atom (mf 6 3 5 3 0 0 10 0), .red (mf 5 3 0 4 0 0 0 0), .red (mf 5 3 0 3 0 0 8 0), .redx (mf 9 3 0 2 0 0 1 0),
    .redx (mf 9 3 0 3 0 0 2 0), .rdx (mf 10 3 0 2 0 0 8 0), .rdx (mf 10 3 0 3 0 0 6 0), .waita (mf 6 3 7 3 0 0 0 0),
    .waita (mf 6 3 7 3 0 0 0 8), .waita (mf 6 3 7 1 0 0 0 2), .waita (mf 6 3 7 3 1 0 0 2), .wset (mf 4 3 0 3 0 0 0 0),
    .wset (mf 4 3 0 4 0 1 0 0), .wclr (r 1 4 0 0 0), .wclr (r 0 4 1 0 0), .warm (r 0 4 0 1 0), .warm (r 0 4 0 0 1),
    .winfo (r 6 0 1 1 0), .winfo (r 6 0 0 1 1), .winfo (r 6 1 0 1 0), .winfo (r 6 0 0 4 0), .winfo (r 6 0 0 32 0)] : List Instr), i.wf = false := by
  decide

/-- Engine, trail and system words: queue numbers, functions, CRC, unused fields, control words (R193, R194, R257 to R268, R330 to R339). -/
theorem test_ill_formed_queue : ∀ i ∈ ([
    .cpy (qf 4 4 3 6 0 0 0), .cpy (qf 1 4 3 6 0 0 1), .cpy (qf 1 4 3 6 0 1 0), .cpySnk (qf 1 4 3 6 0 1 0),
    .cpySnk (qf 1 0 3 6 0 2 0), .cpySnk (qf 1 0 3 6 0 3 0), .cpySrc (qf 1 4 3 6 0 2 0), .cpySrc (qf 1 4 0 6 3 2 0),
    .cpy2 (qf 2 48 34 6 0 0 0), .cpy2 (qf 2 33 50 6 0 0 0), .cpy2 (qf 2 33 34 6 0 1 0), .gath (qf 0 4 3 5 0 8 0),
    .scat (qf 5 4 3 5 0 0 0), .crcqSum (qf 1 4 3 6 1 0 0), .crcqSum (qf 1 0 3 6 0 0 0), .crcqPut (qf 1 4 3 0 0 1 0),
    .crcqPut (qf 1 4 0 6 0 1 0), .crcqPut (qf 1 4 0 0 1 1 0), .crcqSeed (qf 1 4 3 0 0 2 0), .crcqSeed (qf 1 0 3 6 0 2 0),
    .trset (qf 0 1 3 0 0 0 0), .trset (qf 0 0 3 1 0 0 0), .trset (qf 0 0 3 0 1 0 0), .trset (qf 0 0 3 0 0 1 0),
    .tradv (qf 3 0 1 0 0 0 16), .trel (qf 1 0 1 0 0 0 0), .trel (qf 1 0 0 1 0 0 0), .trel (qf 1 0 0 0 0 0 1),
    .qfence (qf 1 0 0 0 0 0 2), .qfence (qf 0 0 1 0 0 0 2), .qfence (qf 0 0 0 1 0 0 2),
    .qfence (qf 0 0 0 0 0 0 128), .qbind (qf 2 1 0 0 0 1 4), .qbind (qf 2 0 1 0 0 1 4), .qbind (qf 2 0 0 1 0 1 4),
    .qbind (qf 2 0 0 0 1 1 4), .qbind (qf 2 0 0 0 0 4 4), .qbind (qf 2 0 0 0 0 1 16),
    .qbind (qf 1 0 0 0 0 3 4), .csrr (sf 6 1 9), .csrr (sf 6 0 2), .csrw (sf 0 4 0x18E), .csrs (sf 0 4 0x24), .csrc (sf 0 4 0x107),
    .trap (sf 1 0 0), .trap (sf 0 1 0), .trap (sf 0 0 1), .bkpt (sf 1 0 0), .bkpt (sf 0 0 1), .rmark (sf 1 7 0), .ecall (sf 8 3 256)] : List Instr), i.wf = false := by
  decide

/-- Vector words: types, modes, slices, masks, unused fields (R198 to R200, R269 to R299). -/
theorem test_ill_formed_vector : ∀ i ∈ ([
    .vadd (vf 1 2 3 1 0 0 0), .vadd (vf 1 2 3 0 0 4 0), .vadd (vf 1 2 3 0 0 7 1), .vadd { vf 1 2 3 0 0 0 0 with sx := 1 },
    .vadd { vf 1 2 3 0 0 0 0 with si := 1 }, .vmin (vf 1 2 3 0 0 0 1), .vabs (vf 1 2 3 0 0 0 0), .vand (vf 1 2 3 0 0 13 0),
    .vshl (vf 1 2 3 0 0 0 0), .vfma (vf 1 2 3 4 0 4 0), .vfma (vf 1 2 3 4 0 7 1), .vcmp (vf 8 2 3 0 0 0 0), .vcmp (vf 1 2 3 8 0 0 0),
    .vcmp (vf 1 2 3 6 0 7 0), .vcmp (vf 1 2 3 0 0 0 1), .vsel (vf 1 2 3 8 0 0 0), .vsel (vf 1 2 3 0 0 13 0), .vmov (vf 1 2 3 0 0 0 0),
    .vmov (vf 1 2 0 2 0 0 0), .vmovIns (vf 1 2 3 1 0 0 0), .vmovIns { vf 1 2 3 0 0 0 0 with sm := 1 }, .vsplat (vf 1 2 0 0 0 0 0),
    .vsplat { vf 1 0 0 0 0 0 0 with si := 1 }, .viota (vf 1 0 0 0 0 0 0), .viota (vf 1 0 0 1 0 7 0), .vcvt (vf 1 2 3 0 0 0 0),
    .vcvt (vf 1 2 0 15 0 0 0), .vcvt { vf 1 2 0 2 0 0 0 with si := 2 }, .vcvt (vf 1 2 0 0 0 13 0),
        .vquant (vf 10 8 0 4 0 13 0), .vquant (vf 10 8 0 0 0 0 0), .vquant { vf 10 8 0 0 0 14 0 with si := 4 },
    .vdeq (vf 1 2 0 0 0 0 0), .vdeq { vf 1 2 0 14 0 0 0 with si := 4 }, .vchk (vf 8 6 0 0 0 3 0),
    .vchk (vf 2 6 0 0 0 6 0), .vclamp (vf 1 2 3 4 0 0 1), .vrcp (vf 1 2 3 0 0 0 0), .vrcp (vf 1 2 0 0 0 7 0),
    .vsin (vf 1 2 0 0 0 0 1), .vrrot { vf 1 2 0 0 0 0 0 with sm := 1 }, .vrrot (vf 1 2 0 1 0 0 0), .vrred (vf 1 2 0 3 0 0 0),
    .vrred (vf 1 2 0 4 0 0 0), .vrred (vf 1 2 0 16 0 0 0), .vrscan (vf 1 2 0 1 0 0 1), .vtrn (vf 1 2 0 0 0 1 0), .vtrn (vf 1 2 3 0 0 0 0),
    .vwmax (vf 1 2 3 0 0 0 0), .vwmax (vf 1 2 0 16 0 0 0), .vwmax (vf 1 2 0 0 1 0 0), .vwmax (vf 1 2 0 0 0 1 0), .vwmax (vf 1 2 0 0 0 0 1),
    .vwmax { vf 1 2 0 0 0 0 0 with sx := 8 }, .vwssum (vf 1 2 0 0 0 7 1), .vwclamp (vf 1 2 3 4 0 0 1), .vadj (vf 1 2 3 0 0 0 0),
    .vadj (vf 1 2 8 0 0 0 0), .vadj (vf 1 2 0 16 0 0 0), .vadj (vf 1 2 0 0 0 7 0), .vwout (vf 1 3 6 0 0 0 0), .vwout (vf 0 8 6 0 0 0 0),
    .vwout (vf 0 3 16 0 0 0 0), .vwin (vf 3 1 6 0 0 0 0), .vwin (vf 8 0 6 0 0 0 0), .vldw (vf 4 0 0 0 0 0 0),
    .vldw { vf 4 16 0 0 0 0 0 with sm := 1 }, .vldw { vf 4 0 0 17 0 0 0 with sm := 1 }, .vldw { vf 4 0 1 0 0 0 0 with sm := 1 },
    .vstw { vf 1 3 8 0 0 0 0 with sm := 1 }, .vpopq { vf 5 1 4 0 0 0 0 with sm := 1 }, .vpopq { vf 5 0 16 0 0 0 0 with sm := 1 },
    .vpushq { vf 1 2 4 0 0 0 0 with sm := 1 }, .vpushq { vf 0 2 4 0 1 0 0 with sm := 1 }, .vcpush { vf 1 2 4 0 0 2 0 with sm := 1 },
    .vcpop { vf 1 2 4 0 0 0 0 with sm := 1 }] : List Instr), i.wf = false := by
  decide

/-- Matrix words: fields that a word leaves unused, functions, types, trails (R192, R303). -/
theorem test_ill_formed_matrix : ∀ i ∈ ([
    .mldw { x0 with fn := 4 }, .mldw { x0 with ct := 1 }, .mldw { x0 with hn := 1 }, .mldw { x0 with sq := true },
    .mldw { x0 with fn := 1 }, .mldw { x0 with fn := 2, ts := 16 }, .mldw { x0 with fn := 3, ts := 1 }, .mldw { x0 with ty := 7 },
    .mldw { x0 with fn := 3, ty := 6 }, .mldw { x0 with t := true }, .mldw { x0 with acc := true }, .mldw { x0 with chn := 1 },
    .mswap { x0 with ts := 1 }, .mswap { x0 with chn := 1 }, .mmul { x0 with acc := true }, .mmul { x0 with hn := 4 },
    .mmul { x0 with t := true }, .mmul { x0 with hn := 8, sq := true }, .mmul { x0 with hn := 8, ts := 16 },
    .mmul { x0 with sq := true, ts := 16 }, .mmul { x0 with ty := 7 }, .mmul { x0 with chn := 2 }, .mzero { x0 with ts := 1 },
    .mzero { x0 with fn := 1 }, .mrd { x0 with sq := true }, .mrd { x0 with hn := 8 }, .mrd { x0 with ty := 15 }, .mrd { x0 with t := true },
    .mrdq x0, .mrdq { x0 with sq := true, ts := 16 }, .mrdq { x0 with sq := true, hn := 4 }, .mrdq { x0 with sq := true, chn := 1 },
    .mmode { x0 with ts := 1 }, .mmode { x0 with fn := 7 }, .mmode { x0 with fn := 16 }, .mmode { x0 with ct := 1 },
    .mchain { x0 with ts := 1 }, .mchain { x0 with hn := 4 }, .mchain { x0 with ty := 7 }, .mchain { x0 with chn := 2 },
    .kbind { x0 with ct := 1 }, .kbind { x0 with sq := true }, .kbind { x0 with fn := 16 }, .kbind { x0 with ty := 2 },
    .krel { x0 with ts := 1 }, .krel { x0 with ty := 1 }, .kgen { x0 with fn := 8 }, .kgen { x0 with ty := 2 }, .kgen { x0 with acc := true },
    .msolve { x0 with fn := 16 }, .msolve { x0 with sq := true }, .msolve { x0 with ty := 2 }, .mstat { x0 with hn := 1 },
    .mstat { x0 with sq := true }, .msamp { x0 with fn := 17 }, .msamp { x0 with fn := 33 }, .msamp { x0 with ts := 1 }] : List Instr), i.wf = false := by
  decide

/-- Device steps at a unit that the device lacks (R3, R31, R36, R346). -/
theorem test_ill_formed_units : ∀ i ∈ ([
    .postTakesEffect 512 0, .postTakesEffect 0 4, .waitaBoundExpiry 512, .waitaReturn 512, .engineCommandStart 0 20,
    .engineCommandComplete 0 4, .enginePageFault 0 20, .trailRowArrival 0 16 0, .drainRowWritten 0 16 0, .ecallAnswer 512,
    .matrixEntryStart 512, .matrixEntryComplete 0 2, .loadPerformed 0 8 0, .eccuDataDelivery 0 5 0 none, .storePerformed 0 8 0,
    .leadEntryWriteArrival 4 0, .leadEntryWriteArrival 0 80, .triggerClose 512, .rateWindowReset 0 80, .lqTailWrite 16 false 0,
    .launchEntryRead 16 false, .gangSubmission 4, .versionCopyComplete 16 0 0, .basketUp true 64, .basketUp false 256,
    .basketDown true 64, .basketDown false 256, .dispatch 512, .overlayLoad 512, .taskRetire 512, .versionPublication 16 0,
    .graphAccept 4, .graphTaskNode 0 4096, .graphJoinNode 0 4096, .graphIfNode 0 4096, .graphSwitchNode 0 4096,
    .graphWhileNode 0 4096, .graphNodeSkip 0 4096] : List Instr), i.wf = false := by
  decide

/-- Device steps with a record, command or argument of another kind, or at a unit that the device lacks. -/
theorem test_ill_formed_records : ∀ i ∈ ([
    .bind 0 2, .bind 512 1, .preempt 0 1, .reserve 0 1, .drain 0 1, .save 0 1,
    .restore 512, .bankSwitchIn 512, .rangerQuantumEnd 16, .faultRecordWrite 16, .fansCont 16 0, .fansRetire 16 0,
    .fansAerrClear 16 0, .rangerPagePlace 16 0, .tinv 16 true 0 0, .hotPageEpochEnd 4, .migration 4, .migrationComplete 4,
    .freqGive 0 1, .freqGive 16 0, .freqTake 0 0, .freqTake 16 1, .resizeGo 16, .hostMemRead 0 0, .hostMemRead 0 65,
    .hostMemWrite 0 [], .hostMemWrite 0 (List.replicate 65 0), .lineWriteback 17 0, .msixUnmask 16 0, .msixUnmask 0 64,
    .peerRead (flit 16 1), .peerRead (flit 0 2), .peerWrite (flit 0 1), .peerAtom (flit 0 1), .peerRed (flit 0 1),
    .peerReadData (flit 0 1), .peerWriteDone (flit 0 1), .peerError (flit 0 1), .peerAckFlit (flit 16 0), .flitRetry 16,
    .dieStop 4 1 none, .dieStop 0 0 none, .dieStop 0 4 none, .bistBankTest 12 0 0 ⟨[], []⟩, .bistBankTest 0 64 0 ⟨[], []⟩, .bistBankTest 0 0 32 ⟨[], []⟩,
    .recNone 0 1, .recNone 512 0, .capWindowEnd 29] : List Instr), i.wf = false := by
  decide

/-! ## Small states for the witnesses -/

/-- A released sequencer whose segment is eight words `NOP`, at position 2, with g1 to g5 holding 1, 2, 3, -1 and 64. -/
def sq : SeqState :=
  { SeqState.start true with
    code := List.replicate 8 0x0000000000000000, pos := 2,
    g := [(1, 1), (2, 2), (3, 3), (4, BitVec.allOnes 64), (5, 64)], p := [(2, true)],
    a := [(0, { val := 0x100, step := 8, modulus := 0, origin := 0, mode := 0 })] }
/-- A task of partition 1. -/
def tk : Task :=
  { part := 1, taskId := 5, gangId := 7, rank := 0, glast := 0, prio := 0, image := 0, repro := false, trig := false,
    prov := false, depth := 0, rply := false }
/-- A running bank on clock 100. -/
def bk : Bank := { Bank.empty with status := .running, task := some tk, clk := 100, k := sq, l := sq, x := sq, d := sq }
/-- The machine with host port 0 trained. -/
def hosted (s : State) : State := { s with dev := { s.dev with pkg := { s.dev.pkg with mup := 1 } } }
/-- The machine whose bank 0 is `k` and whose acting sequencer is `q` of it. -/
def on (q : Seq) (k : Bank) : State :=
  { State.reset with dev := { State.reset.dev with banks := [(0, k)], actSeq := q } }
/-- The machine whose next turn is bank 0's opportunity for `q`. -/
def turnOf (q : Seq) (k : Bank) : State :=
  let s : State := on q { k with slot := q }
  { s with dev := { s.dev with agenda := [.issue 0] } }
/-- A running bank whose sequencer K is `t`. -/
def withK (t : SeqState) : Bank := { bk with k := t }

/-! ## Witnesses: encoding and issue -/

/-- Terms of every format that are well formed and have an encoding (DecodeOfEncodeIsIdentity). -/
theorem witness_encode : ∀ i ∈ ([.add (r 1 2 3 0 5), .ldi (im 3 0 65), .br (j 0 3), .ld (mf 3 1 0 3 0 0 0 0),
    .vadd (vf 3 1 2 0 0 0 1), .mzero x0, .cpy (qf 1 4 3 6 0 0 0), .csrr (sf 6 0 9)] : List Instr),
    i.wf = true ∧ (encodeNat i).isSome = true := by
  decide

/-- Words that decode (EncodeOfDecodeIsIdentity). -/
theorem witness_decode : decodeWord 0x00004070C40E0000 = .ok (.mulh (r 7 3 4 14 0)) ∧
    decodeWord 0x000440927F800000 = .ok (.ldhi (im 9 9 0x3F800000)) := ⟨rfl, rfl⟩

/-- The reserved OPs at the edges of the gaps of R201 (WordsThatAreNoInstructionTrap, first part). -/
theorem witness_reserved_op : ∀ op ∈ [0x05, 0x07, 0x12, 0x17, 0x1E, 0x1F, 0x26, 0x27, 0x2B, 0x2F, 0x31, 0x3F, 0x47, 0x49,
    0x4C, 0x4F, 0x55, 0x57, 0x5C, 0x5F, 0x69, 0x6B, 0x77, 0x79, 0x7F, 0x88, 0x9B, 0x9F, 0xA8, 0xAF, 0xB9, 0xBF, 0xC8, 0xCF,
    0xD6, 0xDF, 0xEE, 0xFF],
    (∀ p ∈ [(0x00, 0x04), (0x08, 0x11), (0x18, 0x1D), (0x20, 0x25), (0x28, 0x2A), (0x30, 0x30), (0x40, 0x46), (0x48, 0x48),
        (0x4A, 0x4B), (0x50, 0x54), (0x58, 0x5B), (0x60, 0x68), (0x6A, 0x6A), (0x78, 0x78), (0x80, 0x87), (0x89, 0x9A),
        (0xA0, 0xA7), (0xB0, 0xB8), (0xC0, 0xC7), (0xD0, 0xD5), (0xE0, 0xED)], ¬ (p.1 ≤ op ∧ op ≤ p.2)) ∧
    opAssigned op = false := by
  decide

/-- A bank at a turn of its own, at a word `w` (poison where `pz`), or past its segment. -/
def atWord (q : Seq) (w : Word) (pz : Bool) (pos : Nat) : State :=
  turnOf q { bk with k := { sq with code := List.replicate 8 w, pos := pos, poison := if pz then [(pos, 0x1000)] else [] }
                     l := { sq with code := List.replicate 8 w, pos := pos, poison := if pz then [(pos, 0x1000)] else [] } }

/-- Poison, a reserved OP, another sequencer's OP, reserved fields, the end of a segment, and words that run
(WordsThatAreNoInstructionTrap; StepRunsDecodedInstruction). -/
theorem witness_fetch :
    (∀ p ∈ ([(atWord .K 0 true 2, 0), (atWord .K 0x0001400000000000 false 2, 0x0001400000000000),
        (atWord .L 0x0008C00000000000 false 2, 0x0008C00000000000), (atWord .K 0x0240000000000001 false 2, 0x0240000000000001),
        (atWord .L 0 false 2, 0)] : List (State × Word)),
      p.1.dev.stoppedDevice = false ∧ p.1.turn = .issue 0 ∧ p.1.take.blocked 0 = false ∧ (unpackHdr p.2.toNat).pred = 0 ∧
      (p.1.take.point 0).bank.open (p.1.take.point 0).dev.actSeq = true ∧
      (p.1.take.point 0).bank.phase = .main ∧
      (p.1.take.point 0).seq.code[(p.1.take.point 0).seq.pos]? = some p.2 ∧
      (p.1.take.point 0).seq.earliest (unpackHdr p.2.toNat) ≤ (p.1.take.point 0).bank.clk) ∧
    tfind (((atWord .K 0 true 2).take.point 0).seq.poison) 2 = some 0x1000 ∧
    opAssigned 5 = false ∧ opAssigned 1 = true ∧ opStreams 1 0 .L = true ∧ opStreams 0x23 0 .L = false ∧
    opStreams 0 0 .L = true ∧
    ((atWord .K 0 false 8).take.point 0).seq.code[((atWord .K 0 false 8).take.point 0).seq.pos]? = none := by
  decide

/-- An AWAIT in the first part of a clock and in its own, and a running bank before the end of its clock
(StepRunsDecodedInstruction; AWAIT ev7 is 0x00084000_00000007, R226). -/
theorem witness_await : (∀ p ∈ [Phase.main, .await],
    (turnOf .K { bk with phase := p, k := { sq with code := List.replicate 8 0x0008400000000007 } }).turn = .issue 0 ∧
    (turnOf .K { bk with phase := p, k := { sq with code := List.replicate 8 0x0008400000000007 } }).take.blocked 0 = false ∧
    ((turnOf .K { bk with phase := p, k := { sq with code := List.replicate 8 0x0008400000000007 } }).take.point 0).bank.phase = p ∧
    ((turnOf .K { bk with phase := p, k := { sq with code := List.replicate 8 0x0008400000000007 } }).take.point 0).bank.open .K = true ∧
    isAwait 0x0008400000000007 = true ∧ bk.phase ≠ .engines ∧ bk.status = .running) ∧
    decodeWord 0x0008400000000007 = .ok (.await (im 0 0 7)) := ⟨by decide, rfl⟩

/-- A WAITA of K at 0x100 with a bound of 5 clocks. -/
def wtDue : Waita :=
  { va := 0x100, pa := 0x100, n := 8, expected := 0, dst := 9, pdst := 0, pos := 1, srcs := [], bound := 5, since := 0,
    outcome := none, slot := 0, slice := 0, forced := none }

/-- A bank whose clock may not begin: the bound of its parked WAITA has passed (StepRunsDecodedInstruction, the turn that waits). -/
theorem witness_blocked : (turnOf .K { bk with k := { sq with cyc := 9, waita := some wtDue } }).turn = .issue 0 ∧
    (turnOf .K { bk with k := { sq with cyc := 9, waita := some wtDue } }).take.blocked 0 = true := by
  decide

/-- A word with reserved bits set is refused, and `NOP` is not (the same statements). -/
theorem witness_fetch_decode : decodeWord 0x0240000000000001 = .error (.badField 0) ∧
    decodeWord 0 = .ok (.nop (r 0 0 0 0 0)) := ⟨rfl, rfl⟩

/-- A device step at a turn of its own, from a state of canonical memory (StepRunsDecodedInstruction, StepKeepsMemoryCanonical). -/
theorem witness_event : ∃ s : State, s.MemOk ∧ s.dev.stoppedDevice = false ∧ s.turn = .event (.hostSnoop 0 true) ∧
    ∃ t, step s = .next t :=
  ⟨{ State.reset with dev := { State.reset.dev with agenda := [.event (.hostSnoop 0 true)] } }, by unfold State.MemOk; decide,
    by decide, by decide, _, rfl⟩

/-! ## Witnesses: scalar words -/

/-- A bank where q0 is bound OUT to copy queue 0, q1 IN, q2 holds two elements, q3 is full, q4 is empty. -/
def qk : Bank :=
  { bk with
    qbind := [(0, .copyOut 0), (1, .copyIn 0)]
    q := [(2, [{ val := 9, wait := none, ready := 0 }, { val := 10, wait := none, ready := 0 }]),
      (3, List.replicate 64 { val := 0, wait := none, ready := 0 })] }

/-- A bank at rest, a sequencer on its next word too early, and one that can issue (WordsIssueByTheirChecks). -/
theorem witness_rest : (on .K { bk with status := .waiting }).bank.open .K = false ∧
    (on .K (withK { sq with prevClk := 99, prevOcc := 2 })).bank.clk < 99 + Nat.max 0 2 ∧
    encodeNat (.add (r 1 2 3 0 5)) ≠ none ∧ (on .K bk).bank.open .K = true ∧ (on .K bk).seq.earliest h0 ≤ 100 := by
  decide

/-- STREAMX, ILLEGAL and PRIV with a true and a false predicate, a predicate that is not in place, and a word with a false
predicate (WordsIssueByTheirChecks). -/
theorem witness_checks : (∀ n : Bool, ∀ p ∈ ([(.L, .go { r 0 0 0 0 0 with h := { hd 0 2 with pneg := n } }, Cause.streamx),
      (.K, .clz { r 1 2 3 0x14 0 with h := { hd 0 2 with pneg := n } }, .illegal),
      (.X, .addi { im 32 1 1 with h := { hd 0 2 with pneg := n } }, .illegal),
      (.K, .csrr { sf 6 0 0x180 with h := { hd 0 2 with pneg := n } }, .priv)] : List (Seq × Instr × Cause)),
      (encodeNat p.2.1).isSome = true ∧ (on p.1 bk).opens p.2.1 = true ∧ (on p.1 bk).seq.pred (hdrOf p.2.1) = !n ∧
      ((p.2.2 = .streamx ∧ streamsOk p.2.1 p.1 = false) ∨
        (p.2.2 = .illegal ∧ streamsOk p.2.1 p.1 = true ∧ legalOn p.2.1 p.1 = false) ∨
        (p.2.2 = .priv ∧ streamsOk p.2.1 p.1 = true ∧ legalOn p.2.1 p.1 = true ∧ privOk bk.prov p.1 p.2.1 = false))) ∧
    (on .K (withK { sq with avail := [(66, 200)] })).seq.keyReady 100 66 = false ∧
    (on .K bk).skips (.add { r 1 2 3 0 5 with h := hd 0 1 }) = true ∧
    (on .K bk).skips (.halt { r 0 0 0 0 0 with h := { hd 0 2 with pneg := true } }) = true := by
  decide

/-- Stream registers bound the wrong way, empty, and full, a register and a predicate that are not in place, and a word of another
sequencer on the clock on which nothing holds it up (WordsIssueByTheirChecks). -/
theorem witness_streams : (∀ f ∈ [r 1 48 3 0 0, r 1 2 48 0 0, r 49 2 3 0 0],
      (on .K qk).issues (.add f) = true ∧ (on .K qk).waits [f.sa, f.sb] f.dst 1 = false ∧ (on .K qk).refuses [f.sa, f.sb] f.dst 1 = true) ∧
    (∀ f ∈ [r 1 52 3 0 0, r 51 2 3 0 0], (on .K qk).issues (.add f) = true ∧ (on .K qk).waits [f.sa, f.sb] f.dst 1 = true) ∧
    ((on .K qk).issues (.addi (im 49 2 3)) = true ∧ (on .K qk).waits [2] 49 1 = false ∧ (on .K qk).refuses [2] 49 1 = true ∧
      (on .K qk).waits [52] 1 1 = true) ∧
    ((on .L qk).issues (.aadd (r 34 48 0 0 0)) = true ∧ (on .L qk).waits [48] 34 0 = false ∧ (on .L qk).refuses [48] 34 0 = true) ∧
    (∀ k ∈ [withK { sq with avail := [(2, 200), (66, 200)] }], (on .K k).waits [2, 3] 1 1 = true ∧
      (on .K k).issues (.cmp (r 2 1 3 0 0)) = true ∧ (on .K k).seq.keyReady 100 66 = false) ∧
    (on .K qk).wouldIssue (.clz (r 1 4 2 0x14 0)) ((on .K qk).waits [4, 2] 1 1) = true ∧
    legalOn (.clz (r 1 4 2 0x14 0)) .K = false ∧
    (on .X bk).wouldIssue (.addi (im 32 1 1)) ((on .X bk).waits [1] 32 1) = true ∧ legalOn (.addi (im 32 1 1)) .X = false := by
  decide

/-- An ALU word with a register, g0, and a stream register as destination, and stream registers as sources
(AluWordsWriteTheirResults). -/
theorem witness_alu : ∀ p ∈ ([(Instr.add, 0), (.sub, 1), (.and, 2), (.or, 3), (.xor, 4), (.shl, 5), (.shr, 6), (.sra, 7),
    (.rotl, 8), (.min, 9), (.max, 10), (.minn, 11), (.maxn, 12), (.mul, 13), (.mulh, 14), (.mulhn, 15), (.div, 16), (.divn, 17),
    (.rem, 18), (.remn, 19), (.sext, 23), (.zext, 24)] : List ((RF → Instr) × BitVec 8)),
    ∀ f ∈ [r 1 2 3 p.2 5, r 0 4 0 p.2 0, r 52 50 50 p.2 0, r 31 3 50 p.2 0xFFFF],
    (on .K qk).issues (p.1 f) = true ∧ ((on .K qk).sources [f.sa, f.sb] f.dst 1).isSome = true := by
  decide

/-- CLZ, POPC and BREV, in their form and with an SB or IMM16 that is not 0 (AluWordsWriteTheirResults); an address register
as destination and source on L. -/
theorem witness_alu_one : (∀ p ∈ ([(Instr.clz, 0x14), (.popc, 0x15), (.brev, 0x16)] : List ((RF → Instr) × BitVec 8)),
    (on .K bk).issues (p.1 (r 1 4 0 p.2 0)) = true ∧ ((on .K bk).sources [4, 0] 1 1).isSome = true ∧
    ∀ f ∈ [r 1 4 2 p.2 0, r 1 4 0 p.2 1],
      streamsOk (p.1 f) .K = true ∧ (on .K bk).wouldIssue (p.1 f) ((on .K bk).waits [f.sa, f.sb] f.dst 1) = true) ∧
    (on .L bk).issues (.add (r 33 32 1 0 8)) = true ∧ ((on .L bk).sources [32, 1] 33 1).isSome = true := by
  decide

/-- Immediate words, and shifts by 0, 63, 64 and -1 (ImmediateWordsWriteTheirResults). -/
theorem witness_immediate : (∀ c ∈ ([.addi, .andi, .ori, .xori, .muli] : List (IF → Instr)), ∀ f ∈ [im 1 4 0, im 1 4 0x1FFFFFFF, im 1 4 0x20000000],
      (on .K bk).issues (c f) = true) ∧
    (on .K bk).issues (.ldi (im 1 0 0x20000000)) = true ∧ (on .K bk).issues (.ldhi (im 1 1 0x3FFFFFFF)) = true ∧
    (∀ c ∈ ([.shli, .shri, .srai] : List (IF → Instr)), ∀ f ∈ [im 1 4 0, im 1 4 63, im 1 4 64, im 1 4 0x3FFFFFFF],
      (on .K bk).issues (c f) = true) ∧
    ((on .K bk).sources [4] 1 1).isSome = true ∧ ((on .K bk).sources [0] 1 1).isSome = true ∧
    ((on .K bk).sources [1] 1 1).isSome = true ∧ (63 : BitVec 30).toInt = 63 ∧ (64 : BitVec 30).toInt = 64 ∧
    (0x3FFFFFFF : BitVec 30).toInt = -1 := by
  decide

/-- Each condition of CMP, each operation of PLOG and SEL, and the reserved ones (ComparesAndSelectsWriteTheirResults). -/
theorem witness_compare : (∀ f ∈ [r 3 1 0 0 0, r 3 1 2 1 0, r 3 1 2 2 0, r 3 1 2 3 0, r 3 1 2 4 0, r 3 1 0 5 0],
      (on .K bk).issues (.cmp f) = true ∧ (on .K bk).issues (.plog f) = true) ∧
    ((on .K bk).sources [1, 2] 0 0).isSome = true ∧ ((on .K bk).sources [1, 0] 0 0).isSome = true ∧ (∀ n ∈ [2, 1, 3, 0], (on .K bk).seq.keyReady 100 (64 + n) = true) ∧
    (∀ f ∈ [r 8 3 4 0 0, r 8 3 4 2 0, r 8 3 4 8 0, r 8 3 4 10 0], (on .K bk).issues (.sel f) = true) ∧ ((on .K bk).sources [3, 4] 8 1).isSome = true ∧
    (∀ f ∈ [r 3 4 2 6 1], streamsOk (.cmp f) .K = true ∧ (on .K bk).wouldIssue (.cmp f) ((on .K bk).waits [f.sa, f.sb] 0 0) = true) ∧
    (∀ f ∈ [r 2 1 3 5 0, r 2 1 3 6 0], streamsOk (.plog f) .K = true ∧ (on .K bk).wouldIssue (.plog f) false = true) ∧
    (∀ f ∈ [r 8 3 4 16 0, r 8 3 4 0 1], streamsOk (.sel f) .K = true ∧
      (on .K bk).wouldIssue (.sel f) ((on .K bk).waits [f.sa, f.sb] f.dst 1) = true) := by
  decide

/-- Transfers to position 0, to the end of the segment, and beyond each (TransfersReachTheirTargets). The segment has eight
words and the word stands at position 2. -/
theorem witness_transfer : (∀ f ∈ [j 0 0xFFFFFFFFE, j 0 6, j 0 0xFFFFFFFFD, j 0 7], (on .K bk).issues (.br f) = true ∧
      (on .K bk).issues (.call { f with lnk := 31 }) = true) ∧ ((on .K bk).sources [] 31 0).isSome = true ∧
    (0xFFFFFFFFE : BitVec 36).toInt = -2 ∧ (0xFFFFFFFFD : BitVec 36).toInt = -3 ∧
    (∀ f ∈ [r 0 1 0 0 0xFFFF, r 0 1 0 0 7, r 0 1 0 0 8], (on .K bk).issues (.jr f) = true ∧
      (on .K bk).issues (.jr { f with dst := 9 }) = true) ∧
    ((on .K bk).sources [1] 0 0).isSome = true ∧ ((on .K bk).sources [1] 9 1).isSome = true ∧
    (on .K bk).issues (.brq (j 0 3)) = true ∧ (on .K bk).seq.outq = [] ∧
    (∀ o ∈ [true, false], (on .K (withK { sq with outq := [o] })).issues (.brq (j 0 7)) = true) := by
  decide

/-- A loop of a body that ends with the segment, a count of 0, a full stack, a body beyond the innermost one, a body that
ends in a BR, and one that reaches past the segment (LoopsRunTheirBodies). -/
theorem witness_loop : (∀ p ∈ ([(bk, 5), (bk, 6), (withK { sq with loops := List.replicate 4 { start := 0, stop := 7, rem := 1 } }, 1),
      (withK { sq with loops := [{ start := 1, stop := 3, rem := 1 }] }, 2),
      (withK { sq with code := List.replicate 8 0x0006000000000000 }, 1)] : List (Bank × BitVec 16)),
      (on .K p.1).issues (.loop (r 0 2 0 0 p.2)) = true ∧ ((on .K p.1).sources [2] 0 0).isSome = true) ∧
    (on .K bk).issues (.loop (r 0 0 0 0 5)) = true ∧ ((on .K bk).sources [0] 0 0).isSome = true := by
  decide

/-- NOP, BOPUSH into queues with room and into a full one, POST below and at the top count, AWAIT of a posted event and of
one that is not, WAITC with thresholds reached and not (CouplingWordsTakeEffect). -/
theorem witness_coupling : (on .K bk).issues (.nop (r 0 0 0 0 0)) = true ∧ (on .K bk).issues (.bopush (r 0 2 0 0x1F 0)) = true ∧
    (on .K bk).seq.keyReady 100 66 = true ∧
    (∃ q : Seq, (0x1F : BitVec 8).getLsbD q.idx = true ∧ 16 ≤ ((withK { sq with outq := List.replicate 16 true }).seq q).outq.length) ∧
    (on .K bk).issues (.post (im 0 0 7)) = true ∧ bk.event 7 + bk.postsTo 7 < 65535 ∧
    65535 ≤ ({ bk with events := [(7, 65535)] } : Bank).event 7 ∧ (on .K bk).issues (.await (im 0 0 7)) = true ∧
    (on .K { bk with events := [(7, 1)] }).issues (.await (im 0 0 7)) = true ∧ (on .K bk).issues (.waitc (im 0 0 0)) = true ∧
    (on .K { bk with ldc := 1 }).issues (.waitc (im 0 0 0)) = true := by
  refine ⟨by decide, by decide, by decide, ⟨.K, by decide, by decide⟩, ?_⟩; decide

/-- An access that a sequencer has queued. -/
def ac (id : Nat) (kind : AccKind) : Acc :=
  { id, kind, va := 0x4000, pa := 2 ^ 20, n := 8, sc := 2, ca := 0, hint := 0, dst := 9, fn := 0, signed := false, data := List.replicate 8 1,
    x := 5, w := 6, pos := 1, sent := false, half := false, armed := false, lines := [], tags := [] }

/-- A posting with nothing before it, and one behind a store (CouplingWordsTakeEffect). -/
theorem witness_post : (tget .empty (on .K (withK { sq with posts := [{ ev := 7, before := 3, nfBy := 0 }] })).dev.banks 0).k.posts =
      [{ ev := 7, before := 3, nfBy := 0 }] ∧
    (∃ a ∈ (withK { sq with posts := [{ ev := 7, before := 3, nfBy := 0 }], accs := [ac 1 .store] }).k.accs,
      a.id < 3 ∧ a.kind ≠ .mark ∧ a.kind ≠ .fence ∧ a.kind ≠ .rmark) := ⟨by decide, ac 1 .store, by decide⟩

/-- GO first and again, HALT, YIELD, TRAP and BKPT (RunControlAndTrapWordsTakeEffect). -/
theorem witness_run_control : (on .K bk).issues (.go (r 0 0 0 0 0)) = true ∧ bk.goDone = false ∧ (on .K bk).seq.accs = [] ∧
    (on .K { bk with goDone := true }).issues (.go (r 0 0 0 0 0)) = true ∧ (on .X bk).issues (.halt (r 0 0 0 0 0)) = true ∧
    (on .K bk).issues (.yield (r 0 0 0 0 0)) = true ∧ (on .D bk).issues (.trap (sf 0 0 0)) = true ∧
    (on .L bk).issues (.bkpt (sf 0 0 0)) = true := by
  decide

/-- A bank of which L's g6 holds `m`, and g7 2^32. -/
def lk (m : Word) : Bank := { bk with l := { sq with g := [(6, m), (7, BitVec.ofNat 64 (2 ^ 32))] } }

/-- AMODE at the edges of each mode's moduli, ASTEP and AADD (AddressRegistersUpdate). -/
theorem witness_address : (∀ p ∈ ([(0, 0), (1, 2), (1, 1), (2, 0x100000000), (2, 0x200000000), (3, 1), (3, 0), (3, 0x100000000),
      (3, 0x100000001)] : List (Nat × Nat)), (on .L (lk (word p.2))).issues (.amode (r 34 6 0 (BitVec.ofNat 8 p.1) 0)) = true ∧
      ((on .L (lk (word p.2))).sources [6] 34 0).isSome = true) ∧
    (on .L bk).issues (.astep (r 34 0 0 0 8)) = true ∧ ((on .L bk).sources [0] 34 0).isSome = true ∧
    (on .L bk).issues (.aadd (r 34 5 0 0 0)) = true ∧ ((on .L bk).sources [5] 34 0).isSome = true := by
  decide

/-- A scalar word that answers a next state (ScalarWordsFrame). -/
theorem witness_scalar_frame : ∃ t, exec (.add (r 1 2 3 0 5)) (on .K bk) = .next t := ⟨_, rfl⟩


/-! ## Witnesses: barriers, control words, traps, services -/

/-- A gang of partition 1 with members 0 to `glast`, of which rank 1 has arrived with `a`. -/
def gangOf (glast : Nat) (inst : Table Arrival) : Gang :=
  { part := 1, gid := 7, die := 0, image := 0, prio := 0, glast, repro := false, rename := false, gated := false, irq := false,
    prov := false, trig := false, argbase := 0, sets := [], gate := 0, doneVa := 0, tag := 0, vec := 0, stage := .running,
    members := [(0, { taskId := 5, loc := .bound 0, failed := none, bars := 0 }),
      (1, { taskId := 6, loc := .bound 2, failed := none, bars := 1 })], view := [], viewWrite := [], pending := [], inPlace := [], order := 0,
    barriers := [(0, inst)], gateStatus := 0, gateCause := 0, watch := none, depth := 0, qmask := 0, node := none, pcapt := 0,
    gateLatch := none }

/-- The machine with one gang. -/
def onGang (q : Seq) (k : Bank) (g : Gang) : State :=
  { on q k with dev := { (on q k).dev with gangs := [(gangKey 1 7, g)] } }

/-- A bank of a task in a gang of `glast` + 1. -/
def bkG (glast : Nat) : Bank := { bk with task := some { tk with glast := glast } }
/-- Arrivals of ranks 1 to `glast`, each with 9. -/
def arrived (glast op : Nat) : Table Arrival := (List.range glast).map (fun i => (i + 1, { op := op, scope := 2, v := 9 }))

/-- A barrier at which another member has not arrived; one of two members whose other member has arrived, for each operation; a
`.quad` in a gang of five; and a barrier that is decided, as this word has it and otherwise (BarrierReleasesOnLastArrival). -/
theorem witness_barrier : (∀ n i, tfind (onGang .K (bkG n) (gangOf n i)).dev.gangs (gangKey 1 7) = some (gangOf n i)) ∧
    (∀ p ∈ ([(r 7 3 0 8 0, 0), (r 7 3 0 9 0, 1), (r 7 3 0 10 0, 2), (r 0 3 0 11 0, 3)] : List (RF × Nat)),
      (onGang .K (bkG 1) (gangOf 1 [])).issues (.bar p.1) = true ∧
      ((onGang .K (bkG 1) (gangOf 1 [])).sources [3] p.1.dst 1).isSome = true ∧ p.1.fn.toNat % 4 = p.2 ∧ p.1.fn.toNat / 4 % 8 = 2) ∧
    (∀ n ∈ [1, 4], tfind (arrived n 0) barDecided = none ∧ (∀ e ∈ arrived n 0, e.1 < 64 ∧ e.2.op = 0 ∧ e.2.scope = 2) ∧
      (∀ x ∈ List.range (n + 1), x ≠ 0 → (tfind (arrived n 0) x).isSome = true)) ∧
    (onGang .K (bkG 1) (gangOf 1 [])).seq.accs = [] ∧ (∀ m ∈ (gangOf 4 []).members, m.2.failed = none) ∧
    (tfind (gangOf 1 []).members 1).isSome = true ∧
    tfind [(barDecided, { op := 1, scope := 2, v := 4 : Arrival })] barDecided = some { op := 1, scope := 2, v := 4 } :=
  ⟨fun _ _ => rfl, by decide, by decide, by decide, by decide, by decide, by decide⟩

/-- Control words read in the tenant view (ControlWordsReadAndWrite). -/
theorem witness_control_words : (∀ f ∈ [sf 6 0 0, sf 6 0 1, sf 6 0 8, sf 6 0 9, sf 6 0 10, sf 6 0 11, sf 6 0 12, sf 6 0 15, sf 6 0 16, sf 6 0 0x15,
      sf 6 0 0x23], (on .K bk).issues (.csrr f) = true) ∧ ((on .K bk).sources [] 6 1).isSome = true ∧ bk.phase = .main ∧ bk.slot = .K := by
  decide

/-- Partition and die words read in the provider view (ControlWordsReadAndWrite). -/
theorem witness_provider_words : ∀ f ∈ [sf 6 0 0x100, sf 6 0 0x106, sf 6 0 0x113, sf 6 0 0x180, sf 6 0 0x182, sf 6 0 0x188, sf 6 0 0x18D],
    (on .K { bk with task := some { tk with prov := true } }).issues (.csrr f) = true := by
  decide

/-- Control words written (ControlWordsReadAndWrite). -/
theorem witness_control_writes : (∀ f ∈ [sf 6 2 0, sf 6 2 8, sf 0 2 9, sf 6 2 10, sf 6 2 11], (on .K bk).issues (.csrw f) = true ∧
      (on .K bk).issues (.csrs f) = true ∧ (on .K bk).issues (.csrc f) = true) ∧
    ((on .K bk).sources [2] 6 1).isSome = true ∧ ((on .K bk).sources [2] 0 1).isSome = true := by
  decide

/-- A bank at the end of its clock, with no write and with each write (ControlWordsReadAndWrite). -/
theorem witness_clock_end : ∀ p ∈ ([(.D, 0x00A), (.D, 0x00B), (.D, 0x008), (.K, 0x009), (.K, 0x000)] : List (Seq × Nat)),
    ({ bk with phase := .engines, csrs := [{ seq := p.1, cw := p.2, how := 2, v := 7 }] } : Bank).status = .running ∧
    bk.traps = [] ∧ bk.yielding = false ∧ bk.k.waita = none ∧ bk.csrs = [] ∧ bk.trels = [] ∧ bk.k.accs = [] := by
  decide

/-- Traps of one clock: a retiring one behind a hold and a record, a hold behind a record, and a page fault alone
(ClockEndTakesTraps). -/
theorem witness_traps : ∀ p ∈ ([([.gate, .bkpt, .align, .prot], .align), ([.gate, .bkpt, .page], .bkpt), ([.page, .gate], .page)] :
      List (List Cause × Cause)),
    (p.2 = .align ∧ p.1 = [.gate, .bkpt] ++ .align :: [.prot]) ∨ (p.2 = .bkpt ∧ p.1 = [.gate] ++ .bkpt :: [.page]) ∨
      (p.2 = .page ∧ p.1.head? = some .page) := by
  decide

/-- The machine with a partition 1. -/
def onPart (q : Seq) (k : Bank) (p : Part) : State :=
  { on q k with dev := { (on q k).dev with parts := [(1, p)] } }
/-- A logbook ring of four records at 0x1000 that is enabled and holds one. -/
def ring : Ring := { Ring.start with base := 0x1000, en := true, lsize := 2, head := 1 }

/-- An RMARK entry. -/
def rmk : Acc := { ac 1 .rmark with fn := 0x15, x := 2 }
/-- A bank whose clock ends with that entry alone in K's queue. -/
def endMark : State := onPart .K { withK { sq with accs := [rmk] } with phase := .engines } { Part.start with log := ring }

/-- RMARK behind a load, and alone as its clock ends with the ring free; ECALL behind a load and with nothing pending; an answer to
each service (RmarkAndEcallTakeEffect). -/
theorem witness_services : (on .K (withK { sq with accs := [ac 1 .load] })).issues (.rmark (sf 0 2 0x15)) = true ∧
    ((on .K bk).sources [2] 0 0).isSome = true ∧ ring.full 20 = false ∧ ring.base % 4096 = 0 ∧ endMark.bank.k.accs = [rmk] ∧
    endMark.uncaptured 0 = true ∧ (endMark.dev.part bk.part).log = ring ∧ (endMark.dev.part bk.part).logWait = [] ∧
    (Mach.of endMark).writeHeld 0x1020 32 = false ∧
    (on .K (withK { sq with accs := [ac 1 .load] })).issues (.ecall (sf 8 3 1)) = true ∧ (on .K bk).issues (.ecall (sf 8 3 1)) = true ∧
    ((on .K bk).sources [3] 8 1).isSome = true ∧
    (∀ n ∈ [0, 1, 3, 4], (withK { sq with ecalls := [{ svc := n, arg := 2, dst := 31, slot := 1, answer := none }] }).status = .running) := by
  decide

/-! ## Witnesses: memory words -/

/-- A page of 64 KiB of partition 1 at virtual 0x10000 and HBM 0x100000, with what it allows and its CA. -/
def page (vbase pbase : Nat) (w : Bool) (ca : Nat) : TlbEnt :=
  { part := 1, task := none, vbase, size := 2, pbase, r := true, w, x := false, ca, pin := false }
/-- Core 0's translations: an ordinary page, one that may only be read, one of CA 01, and one of host memory; 0x50000 is not
mapped. -/
def core0 : CoreState :=
  { CoreState.start with tlb := [page 0x10000 0x100000 true 0, page 0x20000 0x110000 false 0, page 0x30000 0x120000 true 1,
      page 0x40000 (3 * 2 ^ 50) true 0] }
/-- The machine with core 0's translations, some bytes at HBM 0x100000, and the acting sequencer `q` of bank 0. -/
def onMem (q : Seq) (k : Bank) : State :=
  { mem := [(0x100000, 0xF1), (0x100001, 2), (0x100008, 7), (0x100010, 3)],
    dev := { (on q k).dev with cores := [(0, core0)] } }
/-- A sequencer whose g1 holds a base address, g2 an index of 8, g3 a value, and whose a0 points to the page with step 8. -/
def msq (base : Word) : SeqState :=
  { sq with g := [(1, base), (2, 8), (3, 0x1122334455667788)], a := [(0, { val := base, step := 8, modulus := 0, origin := 0, mode := 0 }),
      (1, { val := base, step := 3, modulus := 5, origin := 0, mode := 2 })] }
/-- A bank with those sequencers, and q2 with eight elements. -/
def mk (base : Word) : Bank :=
  { bk with k := msq base, l := msq base, d := msq base, q := [(2, List.replicate 8 { val := 7, wait := none, ready := 0 })] }

/-- Loads of every size, into a register, g0, an address register and a stream register, with an address register as base
(LoadsAndStoresEnterTheirQueues). -/
theorem witness_loads : (∀ p ∈ ([(mf 3 1 0 0 0 0 1 0xFFF, 1), (mf 0 1 0 1 2 0 1 8, 1), (mf 3 1 0 2 5 2 0 8, 1), (mf 3 1 2 3 2 0 0 8, 1)]
      : List (MF × Nat)), (onMem .K (mk 0x10008)).issues (.ld p.1) = true ∧
      ((onMem .K (mk 0x10008)).sources [p.1.base, p.1.idx] p.1.ds p.2).isSome = true) ∧
    (onMem .L (mk 0x10008)).issues (.ld (mf 33 32 0 3 2 0 0 0)) = true ∧ ((onMem .L (mk 0x10008)).sources [32, 0] 33 1).isSome = true ∧
    (onMem .L (mk 0x10020)).issues (.ldq (mf 48 32 0 4 2 0 0 0)) = true ∧ ((onMem .L (mk 0x10020)).sources [32, 0] 48 4).isSome = true ∧
    (onMem .K (mk 0x10008)).translation 0x10008 .read = some (.ok { pa := 0x100008, ca := 0, pin := false, page := 0x100000, size := 2 }) ∧
    (onMem .K (mk 0x10008)).seq.lqFull = false ∧ (onMem .L (mk 0x10008)).seq.postRefused 32 = false := by
  refine ⟨by decide, by decide, by decide, by decide, by decide, ?_, by decide, by decide⟩; rfl

/-- Stores of every size, from a register and from a stream register (LoadsAndStoresEnterTheirQueues). -/
theorem witness_stores : (∀ f ∈ [mf 3 1 0 0 0 0 0 0, mf 3 1 0 1 2 0 0 8, mf 0 1 0 2 5 2 0 8, mf 3 1 2 3 2 0 0 8],
      (onMem .K (mk 0x10008)).issues (.st f) = true ∧ ((onMem .K (mk 0x10008)).sources [f.base, f.idx, f.ds] 0 0).isSome = true) ∧
    (onMem .D (mk 0x10020)).issues (.stq (mf 50 32 0 4 2 0 0 0)) = true ∧
    ((onMem .D (mk 0x10020)).sources [32, 0, 50, 50, 50, 50] 0 0).isSome = true ∧ (onMem .K (mk 0x10008)).seq.sqFull = false ∧
    (onMem .K (mk 0x10008)).translation 0x10008 .write = some (.ok { pa := 0x100008, ca := 0, pin := false, page := 0x100000, size := 2 }) := by
  refine ⟨by decide, by decide, by decide, by decide, ?_⟩; rfl

/-- The atomic words, CAS among them, a task with REPRO, and cells of F32 and F64 (AtomicsEnterTheirQueues). -/
theorem witness_atomics : (onMem .K (mk 0x10000)).issues (.atom (mf 9 1 3 3 2 0 0 8)) = true ∧
    (onMem .K (mk 0x10000)).issues (.atom (mf 9 1 3 3 2 0 9 8)) = true ∧ ((onMem .K (mk 0x10000)).sources [1, 3, 9] 9 1).isSome = true ∧
    ((onMem .K (mk 0x10000)).sources [1, 3] 9 1).isSome = true ∧ (mk 0x10000).repro = false ∧
    ({ mk 0x10000 with task := some { tk with repro := true } } : Bank).repro = true ∧
    (onMem .K (mk 0x10000)).issues (.red (mf 3 1 0 2 2 0 7 4)) = true ∧ (onMem .K (mk 0x10000)).issues (.redx (mf 3 1 0 2 2 0 0 0)) = true ∧
    (onMem .K (mk 0x10000)).issues (.redx (mf 3 1 0 3 2 0 1 0)) = true ∧ ((onMem .K (mk 0x10000)).sources [1, 0, 3] 0 0).isSome = true ∧
    (onMem .K (mk 0x10000)).issues (.rdx (mf 9 1 0 2 2 0 5 0)) = true ∧ (onMem .K (mk 0x10000)).issues (.rdx (mf 9 1 0 3 2 0 13 0)) = true ∧
    ((onMem .K (mk 0x10000)).sources [1, 0] 9 1).isSome = true ∧ isHbm 0x100000 = true ∧
    (onMem .K (mk 0x10000)).translation 0x10000 .atomic = some (.ok { pa := 0x100000, ca := 0, pin := false, page := 0x100000, size := 2 }) := by
  refine ⟨by decide, by decide, by decide, by decide, by decide, by decide, by decide, by decide, by decide, by decide, by decide, by decide, by decide, by decide, ?_⟩
  rfl

/-- A sequencer whose g3 holds `v`. -/
def g3 (v base : Word) : Bank := { mk base with k := { msq base with g := [(1, base), (3, v)] } }

/-- A dirty line of host memory under the List of no partition's own, with a byte of its own. -/
def hline : HostLine :=
  { data := List.replicate 64 5, valid := List.replicate 64 true, dirty := true :: List.replicate 63 false, ca := 0, writers := [] }
/-- The machine with that line. -/
def onHostLine : State :=
  { onMem .K bk with dev := { (onMem .K bk).dev with parts := [(16, { Part.start with hostLines := [(3 * 2 ^ 44, hline)] })] } }

/-- MARK, FENCE of scope 0 and above, RINV of a range at its limits and of all, RPIN at the least and greatest size and refused,
RUNPIN of the last register and beyond, PREF (OrderingWordsQueueOrTrap); MARK and FENCE behind a load, alone, and a FENCE.sys with a
dirty line of host memory and a writing peer request. -/
theorem witness_ordering : (onMem .K bk).issues (.mark (mf 0 0 0 0 0 0 0 0)) = true ∧ (onMem .K bk).issues (.fence (mf 0 0 0 0 0 0 0 0)) = true ∧
    (onMem .K bk).issues (.fence (mf 0 0 0 0 5 0 0 0)) = true ∧ (onMem .K bk).issues (.rinv (mf 0 0 0 4 0 0 0 0)) = true ∧
    (∀ p ∈ ([(0x100000000, 0), (0x100000001, 0), (8, 0x100000000000000), (8, 0xFFFFFFFFFFFFFF)] : List (Nat × Nat)),
      (onMem .K (g3 (word p.1) (word p.2))).issues (.rinv (mf 3 1 0 3 0 0 0 0)) = true ∧ ((onMem .K (g3 (word p.1) (word p.2))).sources [1, 0, 3] 0 0).isSome = true) ∧
    (∀ p ∈ ([(0xC0F, 0x1000), (0x1E0F, 0x40000000), (0x200F, 0x1000), (0xC1F, 0x1000), (0xB0F, 0x1000), (0x1F0F, 0x80000000), (0xC0F, 0x1800),
        (0xC0F, 0x100000000000000)] : List (Nat × Nat)),
      (onMem .K (g3 (word p.1) (word p.2))).issues (.rpin (mf 3 1 0 0 0 0 0 0)) = true ∧ ((onMem .K (g3 (word p.1) (word p.2))).sources [1, 0, 3] 0 0).isSome = true) ∧
    (∀ v ∈ ([(15, 0), (16, 0)] : List (Word × Nat)), (onMem .K (g3 v.1 0)).issues (.runpin (mf 3 0 0 0 0 0 0 0)) = true ∧
      ((onMem .K (g3 v.1 0)).sources [3] 0 0).isSome = true) ∧
    (onMem .L (mk 0x10000)).issues (.pref (mf 0 32 0 4 0 2 0 8)) = true ∧ ((onMem .L (mk 0x10000)).sources [32, 0] 0 0).isSome = true ∧
    (onMem .L (mk 0x10000)).seq.postRefused 32 = false ∧ (onMem .L (mk 0x10000)).seq.postRefused 33 = true ∧
    ((onMem .K (withK { sq with accs := [ac 1 .load] })).issues (.fence (mf 0 0 0 0 5 0 0 0)) = true ∧ (ac 1 .load).kind ≠ .mark) ∧
    (onMem .K bk).seq.accs = [] ∧ (onMem .K bk).dev.dirtyLines (some 1) = [] ∧ (onMem .K bk).dev.pkg.reqs = [] ∧
    (onHostLine.issues (.fence (mf 0 0 0 0 5 0 0 0)) = true ∧ onHostLine.dev.dirtyLines (some onHostLine.bank.part) ≠ []) ∧
    ((onMem .L { mk 0x10000 with qbind := [(2, .copyOut 0)] }).issues (.pref (mf 0 32 50 4 0 2 0 8)) = true ∧
      (onMem .L { mk 0x10000 with qbind := [(2, .copyOut 0)] }).waits [32, 50] 0 0 = false ∧
      (onMem .L { mk 0x10000 with qbind := [(2, .copyOut 0)] }).refuses [32, 50] 0 0 = true ∧
      ((onMem .L { mk 0x10000 with qbind := [(2, .copyOut 0)] }).fetched [32, 50]).isSome = true) := by
  decide

/-- A sequencer L whose walk for a load at 0x50000 has been refused. -/
def walked (e : TransErr) : Bank :=
  { mk 0x50000 with l := { msq 0x50000 with walk := some { va := 0x50000, kind := .read, refused := some e } } }

/-- What its word finds of it. -/
theorem walked_translation (e : TransErr) : (onMem .L (walked e)).translation 0x50000 .read = some (.error e) := by
  have h1 : (Mach.of (onMem .L (walked e))).xlateWord (onMem .L (walked e)).dev.actBank (onMem .L (walked e)).dev.actSeq 0x50000
      .read = none := (rfl : (Mach.of (onMem .L (walked e))).xlateWord 0 .L 0x50000 .read = none)
  have h2 : (onMem .L (walked e)).seq.walk = some { va := 0x50000, kind := .read, refused := some e } := rfl
  simp [State.translation, h1, h2]

/-- A refused post-update, a misaligned address, an address whose walk is to be made or has been refused, a page that may not be
written, a page of CA 01 under an atomic, and one of host memory under an exact cell (OrderingWordsQueueOrTrap). -/
theorem witness_memory_checks : (onMem .L (mk 0x10000)).issues (.ld (mf 3 33 0 3 2 0 0 0)) = true ∧
    ((onMem .L (mk 0x10000)).sources [33, 0] 3 1).isSome = true ∧ (onMem .L (mk 0x10001)).issues (.st (mf 3 1 0 3 2 0 0 0)) = true ∧
    0x10001 % 8 ≠ 0 ∧ ((onMem .L (mk 0x10001)).sources [1, 0, 3] 0 0).isSome = true ∧
    (onMem .L (mk 0x50000)).translation 0x50000 .read = none ∧
    (∀ e, (onMem .L (walked e)).translation 0x50000 .read = some (.error e)) ∧
    (onMem .L (walked .prot)).issues (.ld (mf 3 1 0 3 2 0 0 0)) = true ∧
    ((onMem .L (walked .prot)).sources [1, 0] 3 1).isSome = true ∧
    (onMem .L (mk 0x20000)).translation 0x20000 .write = some (.error .prot) ∧
    (onMem .L (mk 0x30000)).translation 0x30000 .atomic = some (.ok { pa := 0x120000, ca := 1, pin := false, page := 0x120000, size := 2 }) ∧
    (onMem .K (mk 0x40000)).translation 0x40000 .atomic =
      some (.ok { pa := 3 * 2 ^ 50, ca := 0, pin := false, page := 3 * 2 ^ 50, size := 2 }) ∧
    isHbm (3 * 2 ^ 50) = false ∧ (onMem .K (mk 0x40000)).issues (.redx (mf 3 1 0 2 2 0 0 0)) = true ∧
    (onMem .L (mk 0x30000)).issues (.red (mf 3 1 0 3 2 0 0 0)) = true ∧
    (onMem .L (mk 0x20000)).issues (.st (mf 3 1 0 3 2 0 0 0)) = true := by
  refine ⟨by decide, by decide, by decide, by decide, by decide, rfl, walked_translation, by decide, by decide, rfl, rfl, rfl, by decide,
    by decide, by decide, by decide⟩

/-! ## Witnesses: accesses performed -/

/-- The machine whose bank 0's sequencer K has these accesses queued, with LDC and STC 3. -/
def queued (l : List Acc) : State := onMem .K { bk with k := { sq with accs := l }, ldc := 3, stc := 3 }

/-- A store elsewhere. -/
def far : Acc := { ac 1 .store with pa := 0x100040 }

/-- Loads of every size behind a store elsewhere, and one that an older store covers (LoadsDeliverMemory). -/
theorem witness_load_performed :
    (∀ a ∈ [{ ac 2 .load with pa := 0x100000, n := 1, signed := true }, { ac 2 .load with pa := 0x100000, n := 2 },
        { ac 2 .load with pa := 0x100008, n := 8, dst := 33 }, { ac 2 .load with pa := 0x100000, n := 32, dst := 50 },
        { ac 2 .load with pa := 0x100000, n := 4, dst := 0 }],
      findAcc 2 (queued [far, a]).seq.accs = some ([far], a) ∧ a.sc = 2 ∧ a.n ∈ [1, 2, 4, 8, 32] ∧
      (queued [far, a]).plain 0 a.pa a.n = true) ∧
    (∀ n ∈ [1, 2, 4, 8, 32], ¬ (far.pa < 0x100000 + n ∧ 0x100000 < far.pa + far.n)) ∧
    (queued []).uncaptured 0 = true ∧ tfind ((queued []).dev.part ((queued []).dev.lineOwner (some 1))).hostLines (0x100000 / 64) = none ∧
    findAcc 2 (queued [{ ac 1 .store with pa := 0x100000 }, { ac 2 .load with pa := 0x100002, n := 2 }]).seq.accs =
      some ([{ ac 1 .store with pa := 0x100000 }], { ac 2 .load with pa := 0x100002, n := 2 }) := by
  decide

/-- A store alone in its queue, of one byte at the end of HBM, and of 32 (StoresWriteTheirBytes). -/
theorem witness_store_performed : ∀ a ∈ [{ ac 1 .store with pa := 0x100000, n := 32, data := List.replicate 32 9 },
      { ac 1 .store with pa := 0xBFFFFFFFFF, n := 1, data := [9] }],
    findAcc 1 (queued [a]).seq.accs = some ([], a) ∧ (queued [a]).plainStore 0 a.pa a.n = true ∧
    isHbm (a.pa + a.n - 1) = true ∧ a.data.length = a.n := by
  decide

set_option exponentiation.threshold 500 in
/-- An ATOM and a RED of each operation, both sizes, and cells of F32 (AtomicsReadModifyWrite). -/
theorem witness_atomic_performed : (∀ n ∈ [0, 1, 2, 3, 4, 5, 6, 7, 8, 9], ∀ a ∈ [{ ac 1 .atom with pa := 0x100000, fn := n, n := 4 },
      { ac 1 .red with pa := 0x100008, fn := n }], findAcc 1 (queued [a]).seq.accs = some ([], a) ∧ a.pa % a.n = 0 ∧
      (queued [a]).plainStore 0 a.pa a.n = true) ∧
    (∀ a ∈ [{ ac 1 .atom with pa := 0x100000, half := true }, { ac 1 .redx with pa := 0x100000, n := 64, data := List.replicate 64 1, half := true }],
      findAcc 1 (queued [a]).seq.accs = some ([], a) ∧ (Mach.of (queued [a])).hostHolds a.pa a.n = false ∧
      (Mach.of (queued [a])).poisoned a.pa a.n = none ∧ a.data.length = a.n ∧ 0 < a.n ∧ (0, (queued [a]).bank) ∈ (queued [a]).dev.banks) ∧
    (∀ a ∈ [{ ac 1 .redx with pa := 0x100000, n := 64, x := 0x3F800000 }, { ac 1 .rdx with pa := 0x100000, n := 64 }],
      findAcc 1 (queued [a]).seq.accs = some ([], a) ∧ (queued [a]).plain 0 a.pa 64 = true ∧ (queued [a]).plainStore 0 a.pa 64 = true) ∧
    (queued []).le (0x100000 + 56) 8 = 0 ∧ fmtF32.value 0x3F800000 = .fin 8388608 23 ∧
    ((7 * 2 ^ 64 + 3 * 2 ^ 128 + 0x2F1 : Int) % 2 ^ 448 = (queued []).le 0x100000 56) := by
  decide

/-- The operands that give each result of R247 (AtomicsReadModifyWrite): a signed minimum, and CAS that fails. -/
theorem witness_atomic_result : (queued []).le 0x100000 4 = 0x2F1 ∧ (queued []).le 0x100008 8 = 7 ∧ min 7 5 = 5 := by
  decide

/-- A K whose g1 is an address, g3 an expected value and g6 a bound. -/
def wk (base v bound : Word) : Bank := { bk with k := { sq with g := [(1, base), (3, v), (6, bound)] } }

/-- A WAITA that finds a difference, a bound of 0, that parks, is misaligned, and names a page of CA 01 and of host memory
(WaitaReadsParksAndReturns). -/
theorem witness_waita : (∀ k ∈ [wk 0x10008 8 5, wk 0x10008 7 0, wk 0x10008 7 5, wk 0x10004 7 5, wk 0x30000 7 5, wk 0x40000 7 5],
      (onMem .K k).issues (.waita (mf 6 1 3 3 0 0 0 2)) = true ∧ ((onMem .K k).sources [1, 3, 6] 6 1).isSome = true ∧
      k.k.waita = none ∧ k.k.accs = [] ∧ k.k.keyReady 100 66 = true) ∧
    (onMem .K (wk 0x10008 7 5)).translation 0x10008 .read = some (.ok { pa := 0x100008, ca := 0, pin := false, page := 0x100000, size := 2 }) ∧
    (onMem .K (wk 0x30000 7 5)).translation 0x30000 .read = some (.ok { pa := 0x120000, ca := 1, pin := false, page := 0x120000, size := 2 }) ∧
    (onMem .K (wk 0x40000 7 5)).translation 0x40000 .read =
      some (.ok { pa := 3 * 2 ^ 50, ca := 0, pin := false, page := 3 * 2 ^ 50, size := 2 }) ∧
    (onMem .K bk).plain 0 0x100008 8 = true ∧ (onMem .K (wk 0x50000 7 5)).translation 0x50000 .read = none := by
  refine ⟨by decide, rfl, rfl, rfl, by decide, by decide⟩

/-- A WAITA in progress: parked, with its bound on this clock or the next, and with an outcome. -/
def wt (bound : Nat) (o : Option Nat) : Waita :=
  { va := 0x10008, pa := 0x100008, n := 8, expected := 7, bound, since := 40, slice := 3, slot := 0, outcome := o, dst := 6, pdst := 2,
    pos := 2, srcs := [1, 3, 2], forced := none }

/-- A bank whose K is parked in a WAITA with its bound reached, one clock before it, and switched out under the park rule. -/
def parked (bound : Nat) (st : BankStatus) : Bank := { withK { sq with cyc := 100, waita := some (wt bound none) } with status := st, why := .parked }

/-- WAITA's bound reached and not, and its return with each outcome (WaitaReadsParksAndReturns). -/
theorem witness_waita_return : (wt 60 none).bound ≤ ((parked 60 .running).k.cyc.toNat + (2 ^ 64 - (wt 60 none).since)) % 2 ^ 64 ∧
    ¬ (wt 61 none).bound ≤ ((parked 61 .running).k.cyc.toNat + (2 ^ 64 - (wt 61 none).since)) % 2 ^ 64 ∧
    ¬ ((parked 60 .running).status = .waiting) ∧ (parked 60 .waiting).status = .waiting ∧
    (∀ o ∈ [0, 1, 2, 3], (withK { sq with waita := some (wt 60 (some o)) }).status = .running ∧
      (fetchFields .K (withK { sq with waita := some (wt 60 (some o)) }) [1, 3, 2]).isSome = true) ∧
    (onMem .K bk).plain 0 0x100008 8 = true ∧ (onMem .K bk).uncaptured 0 = true := by
  decide

/-! ## Witnesses: Lookout, copy and trail words -/

/-- A page table at 0x200000 whose one leaf maps the first 16 MiB of partition 1 to themselves. -/
def table : List Host.Cell :=
  [(0x200000, 0x01), (0x200001, 0x40), (0x200002, 0x20), (0x204000, 0x01), (0x204001, 0x80), (0x204002, 0x20),
    (0x208000, 0x0F), (0x208001, 0x07), (0x208006, 0x10)]
/-- The same table with its leaf in the peer window (bit 50 of the frame's address). -/
def peerTable : List Host.Cell := table.take 8 ++ [(0x208006, 0x14)]
/-- Partition 1 with that table, HBM group 0 and a registered image 3. -/
def part1 : Part :=
  { Part.start with troot := 0x200000, current := { PConf.none with groups := 1 }, images := [(3, { va := 0x40000, dataVa := 0 })] }
/-- A machine with a memory `pre` below the table, partition 1, core 0's translations and bank 0. -/
def onTable (q : Seq) (k : Bank) (pre : List Host.Cell) : State :=
  { mem := pre ++ table, dev := { (onMem q k).dev with parts := [(1, part1)] } }
/-- A watch request for 0x10000 with user word 9, image 3, QMASK 1, PRIO 5, SIZE `n`, DLIM 1 and RBUD `b`. -/
def request (n b : Byte) : List Host.Cell :=
  [(0x100002, 1), (0x100008, 9), (0x100010, 3), (0x100014, 1), (0x100016, 5), (0x100017, n), (0x100018, 1), (0x10001A, b)]

set_option maxRecDepth 100000 in
/-- A watch that is set, a request whose RBUD is 0, one whose SIZE is above 11 and one with a reserved bit
(WatchesAreSetClearedAndRead). -/
theorem witness_wset : (∀ m ∈ [request 0 1, request 0 0, request 12 1, request 32 1], (onTable .K (mk 0x10000) m).issues (.wset (mf 9 1 0 4 0 0 0 0)) = true ∧
      ((onTable .K (mk 0x10000) m).sources [1, 0] 9 1).isSome = true ∧ (onTable .K (mk 0x10000) m).plain 0 0x100000 32 = true) ∧
    (onTable .K (mk 0x10000) (request 0 1)).translation 0x10000 .read =
      some (.ok { pa := 0x100000, ca := 0, pin := false, page := 0x100000, size := 2 }) ∧
    (Mach.of (onTable .K (mk 0x10000) (request 0 1))).translateLeaf 1 0x10000 .read =
      .ok { pa := 0x10000, ca := 0, pin := false, page := 0, size := 7 } ∧
    0x10000 % 2 ^ 5 = 0 ∧ isHbm 0x10000 = true ∧ (tfind (part1.images) 3).isSome = true ∧
    (onTable .K (mk 0x10000) (request 0 1)).dev.watchSlices 0x10000 0 ≠ [] ∧
    (∀ l ∈ (onTable .K (mk 0x10000) (request 0 1)).dev.watchSlices 0x10000 0,
      ((Mach.of (onTable .K (mk 0x10000) (request 0 1))).slice l).freeWatch ≠ none) ∧
    (onMem .K bk).seq.allPerformed := by
  refine ⟨by decide, rfl, rfl, by decide, by decide, by decide, by decide, by decide, by unfold SeqState.allPerformed; decide⟩

/-- The machine with that table, whose partition 1 reaches node 0. -/
def onPeerTable : State :=
  { mem := request 0 1 ++ peerTable,
    dev := { (onTable .K (mk 0x10000) []).dev with pkg := { (onTable .K (mk 0x10000) []).dev.pkg with nodes := [(0, 0x20000)] } } }

set_option maxRecDepth 100000 in
/-- A range in the peer window (WatchesAreSetClearedAndRead). -/
theorem witness_wset_range : ∃ y, (Mach.of onPeerTable).translateLeaf 1 0x10000 .read = .ok y ∧ isPeer y.pa = true ∧
    onPeerTable.dev.actBank = 0 := ⟨_, rfl, by decide, rfl⟩

/-- A request in the peer window (WatchesAreSetClearedAndRead). -/
theorem witness_wset_peer : ∃ x, ({ onMem .K (mk 0x10000) with
      dev := { (onMem .K (mk 0x10000)).dev with cores := [(0, { core0 with tlb := [page 0x10000 (2 ^ 50) true 0] })] } }).translation 0x10000 .read =
    some (.ok x) ∧ isPeer x.pa = true := ⟨_, rfl, by decide⟩

/-- A watch of partition `p` that is armed or not, pending or not, with handle 0x22 in slice 1. -/
def wtch (p : Nat) (arm pend : Bool) : Watch :=
  { arm, queued := false, pend, lead := true, repro := false, dlim := 1, pdepth := 0, rwin := 0, rbud := 1, prio := 0, qmask := 1, part := p,
    size := 0, pbase := 0x800, leadh := 0x22, vbase := 0x10000, image := 3, uword := 9, count := 2, first := 0, last := 8, rused := 0,
    cleared := false, gang := 0 }
/-- The machine with that watch, K's g1 holding a handle. -/
def onWatch (h : Word) (w : Watch) : State :=
  { onMem .K { bk with k := { sq with g := [(1, h)] } } with
    dev := { (onMem .K { bk with k := { sq with g := [(1, h)] } }).dev with
      slices := [(1, { Slice.start with watches := [(2, w)] })] } }

/-- A handle of the partition's watch (pending or not, armed or not), of another partition's watch, of none, and one with a bit
above 15 (WatchesAreSetClearedAndRead). -/
theorem witness_watch_words : (∀ s ∈ [onWatch 0x22 (wtch 1 true false), onWatch 0x22 (wtch 1 true true), onWatch 0x22 (wtch 1 false false),
      onWatch 0x22 (wtch 2 true false), onWatch 0x23 (wtch 1 true false), onWatch 0x10022 (wtch 1 true false)],
      s.issues (.wclr (r 0 1 0 0 0)) = true ∧ s.issues (.warm (r 0 1 0 0 0)) = true ∧ s.issues (.winfo (r 7 1 0 0x10 0)) = true ∧
      s.issues (.winfo (r 7 1 0 0x13 0)) = true ∧ s.issues (.winfo (r 7 0 0 3 0)) = true ∧ s.seq.accs = [] ∧
      (s.sources [1] 0 0).isSome = true ∧ (s.sources [1] 7 1).isSome = true ∧ (s.sources [1] 0 0).isSome = true ∧ (s.sources [] 7 1).isSome = true) ∧
    (onWatch 0x22 (wtch 1 true false)).dev.leadOf 0x22 = some (1, 2, wtch 1 true false) ∧
    (onWatch 0x23 (wtch 1 true false)).dev.leadOf 0x23 = none ∧ (onWatch 0x10022 (wtch 1 true false)).dev.leadOf 0x10022 = none := by
  decide

/-- L's g3, g4 and g6: source, destination and length, with q0 bound IN and q1 bound OUT of copy queue 0. -/
def cq (da sa ln : Word) : Bank :=
  { bk with
    l := { sq with g := [(3, sa), (4, da), (6, ln)], a := [(0, { val := da, step := 64, modulus := 0, origin := 0, mode := 0 }), (1, { val := sa, step := 32, modulus := 0, origin := 0, mode := 0 })] }
    qbind := [(0, .copyIn 0), (1, .copyOut 0)] }

/-- A copy command of 40 bytes from 0x10008 to 0x10108 in queue 1, at some stage. -/
def cmd (crc : Nat) (started : Bool) (reads writes : List Chunk) (buf : Table Byte) : Cmd :=
  { kind := .cpy, crc, da := 0x10108, sa := 0x10008, len := 40, rows := 1, ds := 0, ss := 0, esz := 1, ix := false, seed := 0, ord := 1, pos := 2,
    started, reads, writes, buf, idxs := [], hashed := 0, pushed := 0 }
/-- A bank whose copy queue 0 is full. -/
def fullQ : Bank :=
  { cq 0x10000 0x10100 64 with copyq := [(0, { CopyQueue.start with cmds := List.replicate 16 (cmd 0 false [] [] []) })] }

/-- Copy words at the limits of their lengths, with the bindings they need and without, CPY2 with and without address
registers, and CRCQ.PUT of an aligned and of a misaligned address (CopyWordsEnterTheirQueue). -/
theorem witness_copy : (∀ k ∈ [cq 0x10000 0x10100 0x10000000000, cq 0x10000 0x10100 0x10000000001, cq 0x10002 0x10100 0x1000001,
      cq 0x10000 0x10100 0x1000000],
      (on .L k).issues (.cpy (qf 0 4 3 6 2 0 0)) = true ∧ (on .L k).issues (.crcqSum (qf 0 0 3 6 1 0 0)) = true ∧
      (on .L k).issues (.cpySnk (qf 0 0 3 6 0 1 0)) = true ∧ (on .L k).issues (.cpySnk (qf 1 0 3 6 0 1 0)) = true ∧
      (on .L k).issues (.cpySnk (qf 0 0 0 6 0 3 0)) = true ∧
      (on .L k).issues (.cpySrc (qf 0 4 0 6 0 2 0)) = true ∧ (on .L k).issues (.gath (qf 0 4 3 6 0 7 0)) = true ∧
      (on .L k).issues (.scat (qf 1 4 3 6 0 2 0)) = true ∧ (on .L k).issues (.crcqPut (qf 0 4 0 0 0 1 0)) = true ∧
      (on .L k).issues (.crcqSeed (qf 0 0 3 0 0 2 0)) = true ∧ ((on .L k).sources [4, 3, 6] 0 0).isSome = true ∧
      ((on .L k).sources [0, 3, 6] 0 0).isSome = true ∧ ((on .L k).sources [4, 0, 6] 0 0).isSome = true ∧
      ((on .L k).sources [4, 0, 0] 0 0).isSome = true ∧ ((on .L k).sources [0, 3, 0] 0 0).isSome = true ∧ (k.copy 0).cmds.length < 16) ∧
    (∀ i ∈ ([.cpy (qf 0 4 3 6 2 0 0), .cpySnk (qf 0 0 3 6 0 1 0), .cpySrc (qf 0 4 0 6 0 2 0), .cpy2 (qf 0 4 3 6 0 0 0),
        .gath (qf 0 4 3 6 0 7 0), .scat (qf 0 4 3 6 0 2 0), .crcqSum (qf 0 0 3 6 1 0 0), .crcqPut (qf 0 4 0 0 0 1 0),
        .crcqSeed (qf 0 0 3 0 0 2 0)] : List Instr), (on .L fullQ).issues i = true) ∧ (fullQ.copy 0).cmds.length = 16 ∧
    (∀ k ∈ [cq 0x10000 0x10100 0x10000000100, cq 0x10000 0x10100 0x10000FFFFFFFF], (on .L k).issues (.cpy2 (qf 0 32 33 6 0 0 0)) = true ∧
      (on .L k).issues (.cpy2 (qf 0 4 3 6 0 0 0)) = true ∧ ((on .L k).sources [32, 33, 6] 0 0).isSome = true) := by
  decide

/-- A descriptor of DIR `dir`, four rows of 8 bytes at ring `rg`, DEPTH 2. -/
def dsc (dir rg : Nat) : TrailDesc := { dir, rowlen := 8, stride := 8, ring := rg, ringrows := 4, depth := 2 }
/-- A setting of a trail at 0x10000 with some rows. -/
def tg (d : TrailDesc) (rows : Table RowState) : TrailGen :=
  { uid := 3, desc := d, base := 0x10000, oldest := 0, rows, retired := [], cmds := [], released := false, closing := false, donePush := [],
    opened := true, batch := [], sectors := [] }
/-- A bank whose trail 1 has one setting, with four descriptors loaded: input, drain, a ring that ends with the area, and one
that reaches past it. -/
def tk1 (g : TrailGen) (v n : Word) : Bank :=
  { bk with descs := [dsc 0 0, dsc 1 0, dsc 0 0xFFFE0, dsc 0 0xFFFE4], trails := [(1, { gens := [g], isSet := true, fault := none })],
            l := { sq with g := [(3, v), (4, n)] } }

/-- A bank like that whose trail 1 is not set, and one whose trail 2 is a released setting. -/
def noTrail : Bank := { tk1 (tg (dsc 0 0) []) 0x10000 1 with trails := [] }
/-- The same with a released setting of trail 2 that still holds its ring, or with TOC at its limit. -/
def heldRing : Bank := { noTrail with trails := [(2, { gens := [{ tg (dsc 0 0) [(0, .begun)] with released := true }], isSet := false, fault := none })] }
/-- A trail with 16 commands. -/
def fullTrail : Bank :=
  tk1 { tg (dsc 0 0) [] with cmds := List.replicate 16 { adv := some 1, ord := 9 } } 0x10000 1

/-- TRSET of a free number with each descriptor and with an index that no descriptor has, of a set number, behind a released ring
and with TOC full; TRADV by 0, by one row, by the whole window and by more, with TOC full, and of a number that is not set; TREL; each
with a full queue (TrailWordsAndRows). -/
theorem witness_trail_words : (∀ n ∈ [0, 1, 2, 3, 4], ∀ k ∈ [noTrail, heldRing, { noTrail with toc := 65535 }, tk1 (tg (dsc 0 0) []) 0x10000 1],
      (on .L k).issues (.trset { qf 1 0 3 0 0 0 0 with imm := n }) = true) ∧
    (∀ k ∈ [noTrail, heldRing, { noTrail with toc := 65535 }, tk1 (tg (dsc 0 0) []) 0x10000 1],
      ((on .L k).sources [3] 0 0).isSome = true ∧ ((on .L k).sources [4] 0 0).isSome = true ∧ ((on .L k).sources [0] 0 0).isSome = true ∧
      (k.trail 1).queued < 16) ∧
    (∀ r ∈ [Instr.trset, .tradv, .trel], (on .L fullTrail).issues (r (qf 1 0 0 0 0 0 0)) = true) ∧ (fullTrail.trail 1).queued = 16 := by
  decide

/-- TRADV and TREL of the same. -/
theorem witness_trail_moves : (∀ f ∈ [qf 1 0 0 0 0 0 0, qf 1 0 0 0 0 0 1, qf 1 0 0 0 0 0 4, qf 1 0 0 4 0 0 4, qf 2 0 0 4 0 0 1],
      (on .L (tk1 (tg (dsc 0 0) []) 0x10000 1)).issues (.tradv f) = true ∧
      (on .L { tk1 (tg (dsc 0 0) []) 0x10000 1 with toc := 65535 }).issues (.tradv f) = true) ∧
    (on .L (tk1 (tg (dsc 0 0) []) 0x10000 1)).issues (.trel (qf 1 0 0 0 0 0 0)) = true ∧
    (on .L (tk1 (tg (dsc 0 0) []) 0x10000 1)).issues (.trel (qf 2 0 0 0 0 0 0)) = true ∧
    noTrail.settings false = [] ∧ noTrail.settings true = [] ∧ noTrail.trailNow 1 = none ∧
    (tk1 (tg (dsc 0 0) []) 0x10000 1).trailNow 1 = some (tg (dsc 0 0) []) ∧
    (heldRing.settings false).map (fun g => g.desc.ringOverlaps (dsc 0 0)) = [true] ∧
    ({ bk with phase := .engines, trels := [1] } : Bank).k.accs = [] := by
  decide

/-- A pending row that may begin, a drain row that may begin, a row whose sector is read, one that arrives, a drain row whose
sector is written, and one that is written (TrailWordsAndRows). -/
theorem witness_trail_rows :
    (∀ g ∈ [tg (dsc 0 0) [(0, .begun), (1, .pending), (2, .pending)], tg (dsc 1 0) [(1, .writing)],
        { tg (dsc 0 0x40) [(0, .arrived), (1, .begun)] with sectors := [(1, [{ off := 0, va := 0x10008, n := 8, sent := false }])] },
        { tg (dsc 0 0x40) [(0, .arrived), (1, .begun)] with sectors := [(1, [])] },
        { tg (dsc 1 0x40) [(1, .writing)] with sectors := [(1, [{ off := 0, va := 0x10008, n := 8, sent := false }])] },
        { tg (dsc 1 0x40) [(1, .writing)] with sectors := [(1, [])] }],
      ((tk1 g 0 0).trail 1).gens = [g] ∧ ((tk1 g 0 0).trail 1).fault = none ∧ (tk1 g 0 0).trailQ 1 = none ∧
      (g.rows.map (fun r => r.1)).Pairwise (fun a b => a < b) ∧ g.sectors.length < g.desc.depth ∧
      (∀ r ∈ g.sectors, g.batchOf r.1 = g.batchOf 1 ∧
        (r.2 = [] ∨ r.2.find? (fun d => d.off == 0) = some { off := 0, va := 0x10008, n := 8, sent := false }))) ∧
    (tg (dsc 0 0x40) [(0, .arrived), (1, .begun)]).rowChunks 1 = [{ off := 0, va := 0x10008, n := 8, sent := false }] ∧
    (onMem .K (tk1 (tg (dsc 0 0x40) [(0, .arrived), (1, .begun)]) 0 0)).plain 0 0x100008 8 = true ∧
    (onMem .K (tk1 (tg (dsc 0 0x40) [(0, .arrived), (1, .begun)]) 0 0)).plainStore 0 0x100008 8 = true := by
  decide

/-- The translations of those rows (TrailWordsAndRows). -/
theorem witness_trail_tlb : (onMem .K bk).inTlb 0 0x10008 .read { pa := 0x100008, ca := 0, pin := false, page := 0x100000, size := 2 } ∧
    (onMem .K bk).inTlb 0 0x10008 .write { pa := 0x100008, ca := 0, pin := false, page := 0x100000, size := 2 } := ⟨rfl, rfl⟩

/-! ## Witnesses: joins, bindings, copy queues -/

/-- QFENCE of every kind of queue; a memory word behind a QFENCE that waits for a load or a store; QBIND of each kind to a free
register, to a bound one, and of a queue bound elsewhere; unbinding with the queue empty and not (JoinAndBindWordsTakeEffect). -/
theorem witness_join : (on .L bk).issues (.qfence (qf 0 0 0 0 0 0 127)) = true ∧ (on .L bk).issues (.qfence (qf 0 0 0 0 0 0 1)) = true ∧
    (∀ p ∈ ([(.load, true, false), (.store, false, true)] : List (AccKind × Bool × Bool)),
      ∀ k ∈ [{ bk with l := { sq with accs := [ac 1 p.1],
                                        qfence := some { before := 2, loads := p.2.1, stores := p.2.2, copies := [], trails := false } } }],
      (on .L k).reaches (.ld (mf 3 1 0 3 2 0 0 0)) = true ∧ fencedOf (.ld (mf 3 1 0 3 2 0 0 0)) = true ∧ (on .L k).seq.pred h0 = true) ∧
    (on .L bk).issues (.qfence (qf 0 0 0 0 0 0 0)) = true ∧
    (∀ f ∈ [qf 1 0 0 0 0 0 15, qf 1 0 0 0 0 1 15, qf 15 0 0 0 0 2 15, qf 1 0 0 0 0 0 0, qf 0 0 0 0 0 1 2, qf 0 0 0 0 0 3 0, qf 0 0 0 0 0 3 1,
        qf 0 0 0 0 0 3 15, qf 4 0 0 0 0 0 15, qf 15 0 0 0 0 1 15], (on .L (cq 0 0 0)).issues (.qbind f) = true) ∧
    (cq 0 0 0).qbound 15 = .none ∧ (cq 0 0 0).qbound 0 = .copyIn 0 ∧ (cq 0 0 0).mat.queue = [] := by
  decide

/-- The machine whose bank 0 has that command in queue 1. -/
def onCopy (d : Cmd) : State := onMem .L { bk with copyq := [(1, { CopyQueue.start with cmds := [d] })], cpc := 1 }
/-- An event of 8 bytes at offset 0. -/
def ev8 (va : Nat) : Chunk := { off := 0, va, n := 8, sent := false }

/-- A command that begins, one that reads, one that writes, and one that completes, with and without a check that fails
(CopyCommandsRunAndFault). -/
theorem witness_copy_queue : (∀ d ∈ [cmd 2 false [] [] [], cmd 0 true [ev8 0x10008] [] [], cmd 0 true [] [ev8 0x10008] [(0, 5)], cmd 0 true [] [] [],
      cmd 3 true [] [] []], ((tget .empty (onCopy d).dev.banks 0).copy 1).cmds = [d] ∧
      ((tget .empty (onCopy d).dev.banks 0).copy 1).fault = none ∧ (∀ c ∈ d.reads, c.sent = false) ∧ (tget .empty (onCopy d).dev.banks 0).status = .running) ∧
    (onCopy (cmd 0 true [] [] [])).plain 0 0x100008 8 = true ∧ (onCopy (cmd 0 true [] [] [])).plainStore 0 0x100008 8 = true ∧ (onCopy (cmd 0 true [] [] [])).uncaptured 0 = true ∧
    0x100008 % 32 + 8 ≤ 32 ∧ [ev8 0x10008].find? (fun r => r.off == 0) = some (ev8 0x10008) := by
  decide

/-- The translations of those events, and one that faults (CopyCommandsRunAndFault). -/
theorem witness_copy_tlb : (onCopy (cmd 0 true [] [] [])).inTlb 0 0x10008 .read { pa := 0x100008, ca := 0, pin := false, page := 0x100000, size := 2 } ∧
    (onCopy (cmd 0 true [] [] [])).inTlb 0 0x10008 .write { pa := 0x100008, ca := 0, pin := false, page := 0x100000, size := 2 } ∧
    ((Mach.of (onCopy (cmd 0 true [ev8 0x50008] [] []))).xlate 0 false 0x50008 .read).2 = .error (.page false false) := ⟨rfl, rfl, rfl⟩

/-! ## Witnesses: vector words -/

/-- A bank with a trail number set, q2 holding 64 elements, X's g1 to g5, and a valid witness in w1. -/
def vk : Bank :=
  { bk with
    q := [(2, List.replicate 64 { val := 7, wait := none, ready := 0 })], qbind := [(0, .copyIn 0), (1, .copyOut 0)]
    x := { sq with g := [(1, 1), (2, 18), (3, 0xFFFFFFFFFFFFF69F), (4, BitVec.allOnes 64), (5, 64)] }
    vec := { bk.vec with
      wit := [(1, { bytes := List.replicate 1024 1, valid := true, oper := 0, axis := 0, win := 2, site := 5, ty := 0 }),
        (2, { bytes := List.replicate 1024 1, valid := true, oper := 4, axis := 1, win := 1, site := 5, ty := 0 })] } }

/-- The element-wise words, plain and on a slice of each kind, in F64, F32 and I32 (ElementwiseWordsWriteTheirElements). -/
theorem witness_elementwise : (∀ c ∈ ([.vadd, .vsub, .vmul, .vmin, .vmax] : List (VF → Instr)),
      ∀ f ∈ [vf 1 2 3 0 0 0 0, vf 1 1 1 0 3 1 0, vf 1 2 3 0 0 7 0, { vf 1 2 3 0 0 0 0 with sm := 1, sx := 5, si := 15 },
        { vf 1 2 3 0 0 0 0 with sm := 2, sx := 2, si := 63 }, { vf 1 2 3 0 0 0 0 with sm := 3, sx := 4 }],
      (on .X vk).vecIssues (c f) f (f.sm != 0) [2, 3] [1] = true ∧ (on .X vk).vecIssues (c f) f (f.sm != 0) [1, 1] [1] = true) ∧
    (∀ c ∈ ([.vand, .vor, .vxor, .vshl, .vshr, .vsra, .vsadd, .vssub] : List (VF → Instr)), ∀ f ∈ [vf 1 2 3 0 0 7 0, vf 1 2 3 0 2 10 0],
      (on .X vk).vecIssues (c f) f (f.sm != 0) [2, 3] [1] = true) ∧
    (∀ c ∈ ([.vabs, .vneg] : List (VF → Instr)), (on .X vk).vecIssues (c (vf 1 2 0 0 0 0 0)) (vf 1 2 0 0 0 0 0) false [2] [1] = true) ∧
    (∀ c ∈ ([.vfma, .vclamp] : List (VF → Instr)), (on .X vk).vecIssues (c (vf 1 2 3 4 0 2 0)) (vf 1 2 3 4 0 2 0) false [2, 3, 4] [1] = true) := by
  decide

/-- The special functions, compares, selects, moves, splats and indices
(SpecialFunctionWordsWriteTheirElements; CompareAndMoveWordsWriteTheirElements). -/
theorem witness_special : (∀ c ∈ ([.vrcp, .vrsq, .vsqrt, .vexp2, .vlog2, .vsin, .vcos, .vtanh] : List (VF → Instr)),
      ∀ f ∈ [vf 1 2 0 0 0 0 0, vf 1 2 0 0 7 1 0], (on .X vk).vecIssues (c f) f (f.sm != 0) [2] [1] = true) ∧
    (∀ f ∈ [vf 1 2 3 0 0 0 0, vf 1 2 3 7 0 1 0, vf 7 2 3 5 1 7 0, { vf 1 2 3 2 0 0 0 with sm := 1, sx := 1 }],
      (on .X vk).vecIssues (.vcmp f) f (f.sm != 0) [2, 3] [maskKey f.td.toNat] = true) ∧
    (on .X vk).vecIssues (.vsel (vf 1 2 3 2 0 0 0)) (vf 1 2 3 2 0 0 0) false [2, 3, maskKey 2] [1] = true ∧
    (on .X vk).vecIssues (.vmov { vf 1 2 0 0 0 0 0 with sm := 3, sx := 3, si := 35 }) { vf 1 2 0 0 0 0 0 with sm := 3, sx := 3, si := 35 } true [2] [1] = true ∧
    (∀ f ∈ [{ vf 1 2 3 1 0 0 0 with sm := 1, sx := 1 }, { vf 1 2 3 1 0 1 0 with sm := 2, sx := 5, si := 63 }, { vf 1 2 3 1 0 2 0 with sm := 3, sx := 4 }],
      (on .X vk).vecIssues (.vmovIns f) f true [2, 3] [1] = true) ∧
    (on .X vk).vecIssues (.vsplat { vf 1 0 0 0 0 0 0 with sx := 4 }) { vf 1 0 0 0 0 0 0 with sx := 4 } true [] [1] = true ∧
    (on .X vk).vecIssues (.viota { vf 1 0 0 0 0 7 0 with sx := 4, si := 3 }) { vf 1 0 0 0 0 7 0 with sx := 4, si := 3 } true [] [1] = true := by
  decide

/-- Conversions to wider, equal and narrower types and from a block type, quantizing with a scale at its limit and beyond, and
a check with finite values alone and with a NaN (ConversionWordsWriteTheirElements). -/
theorem witness_conversion : (∀ f ∈ [vf 1 2 0 16 0 0 1, { vf 1 2 0 2 0 0 0 with si := 1 }, { vf 1 2 0 0 0 2 0 with si := 1 }, vf 1 2 0 1 0 0 0],
      (on .X vk).vecIssues (.vcvt f) f false [2] [1] = true) ∧
    (on .X vk).vecIssues (.vcvt (vf 1 2 0 13 0 0 0)) (vf 1 2 0 13 0 0 0) false [2, 3] [1] = true ∧
    (∀ g ∈ ([(0, 0), (1, 1), (3, 2401)] : List (BitVec 5 × Nat)), ((on .X vk).scalar { vf 1 2 0 14 0 0 0 with sx := g.1 }).toInt.natAbs = g.2 ∧
      (on .X vk).vecIssues (.vdeq { vf 1 2 0 14 0 0 0 with sx := g.1 }) { vf 1 2 0 14 0 0 0 with sx := g.1 } true [2, 3] [1] = true ∧
      (on .X vk).vecIssues (.vquant { vf 10 8 0 2 0 14 0 with sx := g.1, si := 1 }) { vf 10 8 0 2 0 14 0 with sx := g.1, si := 1 } true [8] [10, 11] = true) ∧
    (on .X vk).vecIssues (.vchk (vf 7 6 0 0 0 0 0)) (vf 7 6 0 0 0 0 0) false [6] [maskKey 7] = true ∧
    (on .X vk).vecIssues (.vchk (vf 7 6 0 0 0 13 0)) (vf 7 6 0 0 0 13 0) false [6, 7] [maskKey 7] = true ∧
    ((on .X vk).scalar { vf 1 2 0 14 0 0 0 with sx := 3 }).toInt.natAbs = 2401 := by
  decide

/-- The same words with a block operand in an odd register, and with a scale out of range (ConversionWordsWriteTheirElements). -/
theorem witness_conversion_traps : (∀ f ∈ [vf 1 3 0 14 0 0 0, { vf 1 3 0 14 0 0 0 with sx := 3 }],
      (on .X vk).vecIssues (.vdeq f) f true [3] [1] = true) ∧
    (∀ f ∈ [{ vf 11 8 0 2 0 14 0 with si := 1 }, { vf 11 8 0 2 0 14 0 with sx := 3, si := 1 }],
      (on .X vk).vecIssues (.vquant f) f true [8] [11] = true) ∧
    (on .X vk).vecIssues (.vcvt (vf 1 3 0 13 0 0 0)) (vf 1 3 0 13 0 0 0) false [3] [1] = true ∧
    (on .X vk).vecIssues (.vchk (vf 7 3 0 0 0 13 0)) (vf 7 3 0 0 0 13 0) false [3] [maskKey 7] = true ∧
    Ty.ofCode 13 = .kb4 := by
  decide

/-- Rotations, broadcasts, reductions, scans and the transposition (AxisWordsWriteTheirElements). -/
theorem witness_axis : (∀ c ∈ ([.vrrot, .vrbc, .vcrot, .vcbc] : List (VF → Instr)), ∀ f ∈ [{ vf 1 2 0 0 0 0 0 with sx := 5, si := 63 }, { vf 1 2 0 0 0 7 0 with sx := 4 }],
      (on .X vk).vecIssues (c f) f true [2] [1] = true) ∧
    (∀ c ∈ ([.vrred, .vrscan, .vcred, .vcscan] : List (VF → Instr)),
      ∀ f ∈ [vf 1 2 0 0 0 0 1, vf 1 2 0 1 0 0 0, vf 1 2 0 2 0 7 0, vf 1 2 0 16 0 7 0, vf 1 2 0 0 0 8 0],
      (on .X vk).vecIssues (c f) f false [2] [1] = true) ∧
    (on .X vk).vecIssues (.vtrn (vf 1 2 0 0 0 0 0)) (vf 1 2 0 0 0 0 0) false [2] [1] = true := by
  decide

/-- The producers on both axes, VADJ of a register that suits with each rule, and of one that does not in each way
(WitnessWordsTakeEffect). -/
theorem witness_producers : (∀ c ∈ ([.vwmax, .vwmin, .vwmed, .vwssum] : List (VF → Instr)),
      ∀ f ∈ [{ vf 1 2 0 2 0 0 0 with sx := 3, si := 63 }, { vf 1 2 0 15 0 7 0 with sx := 7 }],
      (on .X vk).vecIssues (c f) f false [2] [1, witKey (f.sx.toNat % 8)] = true) ∧
    (on .X vk).vecIssues (.vwclamp { vf 1 2 3 4 0 7 0 with sx := 3 }) { vf 1 2 3 4 0 7 0 with sx := 3 } false [2, 3, 4] [1, witKey 3] = true ∧
    (∀ f ∈ [{ vf 4 3 0 1 0 0 0 with sx := 1, si := 5 }, { vf 4 3 1 1 0 0 0 with sx := 1, si := 5 }, { vf 4 3 2 1 0 0 0 with sx := 1, si := 5 },
        { vf 4 3 0 1 0 0 0 with sx := 1, si := 6 }, { vf 4 3 0 9 0 0 0 with sx := 1, si := 5 }, { vf 4 3 0 2 0 0 0 with sx := 1, si := 5 },
        { vf 4 3 0 1 0 0 0 with sx := 3, si := 5 }, { vf 4 3 0 8 0 0 0 with sx := 2, si := 5 }, { vf 4 3 1 8 0 0 0 with sx := 2, si := 5 }],
      (on .X vk).vecIssues (.vadj f) f false [3, witKey (f.sx.toNat % 8)] [4, witKey (f.sx.toNat % 8)] = true ∧
      (on .X vk).vecIssues (.vadj { f with tb := f.tb + 4 }) { f with tb := f.tb + 4 } false [3, witKey (f.sx.toNat % 8)] [4] = true) := by
  decide

/-- X that has moved `n` elements of an image. -/
def mvd (n : Nat) (vs : List Word) : Bank := { vk with x := { vk.x with moved := n, popped := vs } }

/-- VWOUT and VWIN at their first, middle and last element, with an image that is taken and one that is refused, and against a
binding (WitnessImagesMove). -/
theorem witness_images : (∀ n ∈ [0, 1, 128, 129], (on .X (mvd n [])).vecIssues (.vwout (vf 0 1 3 0 0 0 0)) (vf 0 1 3 0 0 0 0) false [witKey 1] [] = true ∧
      (on .X (mvd n [])).vecIssues (.vwin (vf 1 0 2 0 0 0 0)) (vf 1 0 2 0 0 0 0) false [] [witKey 1] = true ∧
      0 < (mvd n []).room 3 ∧ ((mvd n []).pop 2).isSome = true) ∧
    vk.pushRefused 3 = false ∧ vk.popRefused 2 = false ∧ vk.pushRefused 0 = true ∧ vk.popRefused 1 = true ∧
    (on .X vk).vecIssues (.vwout (vf 0 1 0 0 0 0 0)) (vf 0 1 0 0 0 0 0) false [witKey 1] [] = true ∧
    (on .X vk).vecIssues (.vwin (vf 1 0 1 0 0 0 0)) (vf 1 0 1 0 0 0 0) false [] [witKey 1] = true := by
  decide

set_option maxRecDepth 100000 in
/-- Images that R294 refuses and takes: zeros with a CRC of 0, and with the CRC-32C of their bytes (WitnessImagesMove). -/
theorem witness_image_read :
    Witness.ofImage ((List.replicate 129 (0 : Word) ++ [0]).flatMap (fun (x : Word) => leBytes 8 x.toNat)) = none ∧
    Witness.ofImage (([0, 0xB3AA939800000000] ++ List.replicate 127 (0 : Word) ++ [0]).flatMap (fun (x : Word) => leBytes 8 x.toNat)) =
      some .cleared := by
  decide +kernel

/-- A witness register of R290 (WitnessImagesMove). -/
theorem witness_image : ∃ w : Witness, w.bytes.length = 1024 ∧ w.oper ≤ 4 ∧ w.axis ≤ 1 ∧ 1 ≤ w.win ∧ w.win ≤ 8 ∧ w.site ≤ 63 ∧
    w.ty = 12 ∧ w.valid = true :=
  ⟨{ bytes := List.replicate 1024 1, valid := true, oper := 4, axis := 1, win := 8, site := 63, ty := 12 }, by
    rw [List.length_replicate], by decide, by decide, by decide, by decide, by decide, rfl, rfl⟩

/-- A bank whose trail 1 is `g`, with X's g1 at `a`. -/
def tv (g : TrailGen) (a : Word) : Bank :=
  { vk with trails := [(1, { gens := [g], isSet := true, fault := none })], x := { sq with g := [(1, a)] } }
/-- Four rows that have arrived, from row 3 on. -/
def rowsIn : TrailGen := { tg (dsc 0 0x40) [(3, .arrived), (4, .arrived), (5, .arrived), (6, .arrived)] with oldest := 3 }

/-- VLDW of the last rows of a window and past it, of a drain trail and of a number that is not set; VSTW into free slots, past
the ring, into an input trail (RowWordsMoveRows). -/
theorem witness_rows : (∀ p ∈ ([(rowsIn, 2), (rowsIn, 3), (tg (dsc 1 0) [], 0), (tg (dsc 1 0) [], 3)] : List (TrailGen × Word)),
      ∀ f ∈ [{ vf 4 1 0 2 0 0 0 with sm := 1, sx := 1 }, { vf 4 2 0 2 0 0 0 with sm := 1, sx := 1 }],
      (on .X (tv p.1 p.2)).vecIssues (.vldw f) f true [] [4] = true ∧
      (on .X (tv p.1 p.2)).vecIssues (.vstw { f with td := 0, tb := 8 }) { f with td := 0, tb := 8 } true [8] [] = true) ∧
    ((tv rowsIn 2).trail 1).current = some rowsIn ∧ ((tv rowsIn 2).trail 2).current = none ∧
    (∀ i ∈ [0, 1], tfind rowsIn.rows (3 + 2 + i) = some .arrived ∧ (tg (dsc 1 0) []).slotFree (0 + i) = true) := by
  decide

/-- Tile rows through stream registers, and against their bindings (RowWordsMoveRows). -/
theorem witness_stream_rows : (on .X vk).vecIssues (.vpopq { vf 5 0 2 0 0 0 0 with sm := 1, sx := 5, si := 15 }) { vf 5 0 2 0 0 0 0 with sm := 1, sx := 5, si := 15 } true [] [5] = true ∧
    (Bank.popN 32 vk 2).isSome = true ∧
    (on .X vk).vecIssues (.vpushq { vf 0 6 3 0 0 0 0 with sm := 1 }) { vf 0 6 3 0 0 0 0 with sm := 1 } true [6] [] = true ∧ 32 ≤ vk.room 3 ∧
    (on .X vk).vecIssues (.vcpush { vf 9 6 3 0 0 1 0 with sm := 1, si := 5 }) { vf 9 6 3 0 0 1 0 with sm := 1, si := 5 } true [6] [] = true ∧
    vk.x.keyReady 100 9 = true ∧ ((on .X vk).selectedOf { vf 9 6 3 0 0 1 0 with sm := 1, si := 5 } 5).length ≤ vk.room 3 ∧
    (on .X vk).vecIssues (.vcpop { vf 5 0 2 0 3 7 0 with sm := 1 }) { vf 5 0 2 0 3 7 0 with sm := 1 } true [] [5] = true ∧
    (∀ f ∈ [{ vf 5 0 1 0 0 0 0 with sm := 1 }], (on .X vk).vecIssues (.vpopq f) f true [] [5] = true ∧
      (on .X vk).vecIssues (.vcpop f) f true [] [5] = true) ∧
    (∀ f ∈ [{ vf 0 6 0 0 0 0 0 with sm := 1 }], (on .X vk).vecIssues (.vpushq f) f true [6] [] = true) ∧
    (∀ f ∈ [{ vf 9 6 0 0 0 0 0 with sm := 1 }], (on .X vk).vecIssues (.vcpush f) f true [6] [] = true) ∧
    vk.popRefused 1 = true ∧ vk.pushRefused 0 = true := by
  decide

/-! ## Witnesses: matrix words -/

/-- An input trail of `n` window rows of `len` bytes. -/
def inT (dir n len : Nat) : TrailGen := tg { dir, rowlen := len, stride := 8, ring := 0, ringrows := n, depth := 2 } []
/-- A bank whose trails 1 to 4 are inputs of 64 rows of 384 bytes, of 64 short rows, of few rows, and a drain; q0 bound IN and q1
OUT; the task has rank `rk` of 8. -/
def mb (rk : Nat) : Bank :=
  { bk with
    task := some { tk with rank := rk, glast := 7 }, qbind := [(0, .copyIn 0), (1, .copyOut 0)]
    trails := [(1, { gens := [inT 0 64 384], isSet := true, fault := none }), (2, { gens := [inT 0 64 252], isSet := true, fault := none }),
      (3, { gens := [inT 0 15 384], isSet := true, fault := none }), (4, { gens := [inT 1 64 384], isSet := true, fault := none })] }
/-- A bank whose collector 3 holds integer rows and whose stationary plane is of type I8. -/
def mbi : Bank :=
  { mb 1 with mat := { MatState.start with
      stationary := { Plane.zero with ty := .i8 }
      coll := [(3, { Collector.start with cls := (List.range 64).map (fun i => (i, .integer)) })] } }

/-- The matrix words that are always taken, MMODE of a tile and of streams bound for and against it, and read-outs that are
taken, of the wrong class, of an odd pair, and against a binding (MatrixWordsEnterTheQueue). -/
theorem witness_matrix_words : (∀ p ∈ ([(.mswap x0, []), (.mzero { x0 with ct := 15 }, []), (.krel { x0 with hn := 3 }, []), (.msamp { x0 with fn := 16 }, []),
      (.mstat { x0 with ts := 31, acc := true }, [31])] : List (Instr × List Nat)), (on .X mbi).matIssues p.1 [] p.2 = true) ∧
    (on .X mbi).matIssues (.mmode { x0 with ts := 3, fn := 14 }) [3] [] = true ∧ (on .X mbi).matIssues (.mmode { x0 with fn := 6 }) [] [] = true ∧
    (∀ f ∈ [{ x0 with ts := 2, sq := true, fn := 14 }, { x0 with ts := 1, sq := true, fn := 8 }], (on .X mbi).matIssues (.mmode f) [] [] = true) ∧
    mbi.popRefused 2 = false ∧ mbi.popRefused 1 = true ∧ mbi.pushRefused 2 = false ∧ mbi.pushRefused 0 = true ∧
    (∀ f ∈ [{ x0 with ts := 8, ct := 1, fn := 60 }, { x0 with ts := 8, ct := 3, ty := 9 }, { x0 with ts := 8, ct := 3, fn := 1 },
        { x0 with ts := 8, hn := 4 }, { x0 with ts := 8, hn := 4, ty := 1, acc := true }], (on .X mbi).matIssues (.mrd f) [] [8] = true) ∧
    (∀ p ∈ ([(8, true), (9, false), (8, false)] : List (BitVec 5 × Bool)),
      (on .X mbi).matIssues (.mrd { x0 with ts := p.1, ct := 1, ty := 13, sat := p.2 }) [] [p.1.toNat, p.1.toNat + 1] = true) ∧
    (∀ f ∈ [{ x0 with ts := 2, sq := true, ct := 1 }, { x0 with ts := 0, sq := true }, { x0 with ts := 2, sq := true, ct := 3, fn := 1 },
        { x0 with ts := 2, sq := true, ty := 14, sat := true }], (on .X mbi).matIssues (.mrdq f) [] [] = true) ∧
    tget .unset mbi.mat.tracked.cls (64 * 3) = .integer ∧ tget .unset mbi.mat.tracked.cls (64 * 1) = .unset := by
  decide

/-- Loads and products of tiles, streams and trails that are taken and refused, and chains at each rank
(MatrixWordsEnterTheQueue). -/
theorem witness_matrix_sources : (∀ f ∈ [{ x0 with ts := 28 }, { x0 with ts := 26 }],
      (on .X (mb 1)).matIssues (.mldw f) ((List.range 4).map (fun i => f.ts.toNat + i)) [] = true) ∧
    (∀ f ∈ [{ x0 with ts := 24, ty := 13 }, { x0 with ts := 23, ty := 13 }],
      (on .X (mb 1)).matIssues (.mldw f) ((List.range 8).map (fun i => f.ts.toNat + i)) [] = true) ∧
    (∀ f ∈ [{ x0 with ts := 2, sq := true, fn := 1 }, { x0 with ts := 1, sq := true, fn := 1 }, { x0 with ts := 1, fn := 2 }, { x0 with ts := 2, fn := 2 },
        { x0 with ts := 3, fn := 2 }, { x0 with ts := 4, fn := 2 }, { x0 with ts := 9, fn := 2 }], (on .X (mb 1)).matIssues (.mldw f) [] [] = true) ∧
    (∀ f ∈ [{ x0 with ts := 31, fn := 15 }, { x0 with ts := 31, fn := 15, hn := 3 }, { x0 with ts := 31, fn := 15, ty := 2 }, { x0 with ts := 31, fn := 15, chn := 1 }],
      (on .X (mb 1)).matIssues (.mmul f) [31] [] = true ∧ (on .X (mb 7)).matIssues (.mmul f) [31] [] = true) ∧
    (on .X (mb 1)).matIssues (.mmul { x0 with ts := 31, fn := 16 }) [31, 32] [] = true ∧
    (on .X mbi).matIssues (.mmul { x0 with ts := 31, fn := 15, ct := 3 }) [31] [] = true ∧
    (∀ f ∈ [{ x0 with ts := 2, sq := true }, { x0 with ts := 1, sq := true }, { x0 with ts := 1, hn := 8, fn := 63 }, { x0 with ts := 3, hn := 8, fn := 14 },
        { x0 with ts := 3, hn := 8, fn := 15 }, { x0 with ts := 4, hn := 8 }], (on .X (mb 1)).matIssues (.mmul f) [] [] = true) ∧
    (∀ k ∈ [mb 0, mb 1, { mb 1 with task := none }], (on .X k).matIssues (.mchain { x0 with fn := 63 }) [] [] = true) ∧
    (mb 1).mat.tracked.stationary = .f32 ∧ (mb 1).trailNow 9 = none := by
  decide

/-- A kernel of one HALT in two coordinates over the trails `a` and `b`, and one with a reserved header byte. -/
def kern (a b res : Byte) : Kernel := { hdr := [a, b, 2, 0, res, 0, 0, 0], words := [0x0009000000000000] }
/-- A binding of a handle to trails `a` and `b`, of F32, with `n` points. -/
def bnd (a b n : Nat) : Binding :=
  { ty := .f32, kernel := 0, words := [0x0009000000000000], d := 2, rowTrail := a, colTrail := b, consts := [0, 0, 0], lam := 0, override := false,
    overrideVal := 0, nr := n, nc := n, same := false }
/-- A bank with kernels 0 to 2 and handles 1 to 3, whose tile 6 holds `v` in its first cells and point counts `n`. -/
def kb (v n : Cell32) : Bank :=
  { mb 1 with
    kernels := [(0, kern 1 2 0), (1, kern 1 5 0), (2, kern 1 2 9)]
    trails := tput (mb 1).trails 5 { gens := [inT 0 64 4], isSet := true, fault := none }
    vec := { VecState.start with tiles := [(6, [v, 2] ++ List.replicate 62 0 ++ [n, n])] }
    mat := { MatState.start with handles := [(1, bnd 1 2 64), (2, bnd 1 3 15), (3, bnd 1 2 65)] } }

/-- KBIND of a kernel that is taken, with short rows, refused by its header, not loaded, and with no points
(KernelWordsEnterTheQueue). -/
theorem witness_kbind : (∀ f ∈ [{ x0 with ts := 6 }, { x0 with ts := 6, fn := 1, acc := true }, { x0 with ts := 6, fn := 2 }, { x0 with ts := 6, fn := 3 }],
      (on .X (kb 1 64)).matIssues (.kbind f) [6] [] = true ∧ (on .X (kb 1 0)).matIssues (.kbind f) [6] [] = true) ∧
    tfind (kb 1 64).kernels 0 = some (kern 1 2 0) ∧ (kern 1 2 0).accepted .f32 = true ∧ (kern 1 2 9).accepted .f32 = false ∧
    tfind (kb 1 64).kernels 3 = none ∧ 0 < (on .X (kb 1 64)).elem .n32 6 1 0 ∧ (on .X (kb 1 0)).elem .n32 6 1 0 = 0 ∧
    (kb 1 64).trailNow 1 = some (inT 0 64 384) ∧ (kb 1 64).trailNow 5 = some (inT 0 64 4) := by
  decide

/-- MLDW of a handle and KGEN of a bound handle, with too few rows, of another type, and of an unbound one
(KernelWordsEnterTheQueue). -/
theorem witness_kernel_words : (∀ h ∈ ([(0, none), (1, some (bnd 1 2 64)), (2, some (bnd 1 3 15)), (3, some (bnd 1 2 65))] : List (BitVec 4 × Option Binding)),
      tfind (kb 1 64).mat.tracked.handles h.1.toNat = h.2 ∧ (on .X (kb 1 64)).matIssues (.mldw { x0 with fn := 3, hn := h.1 }) [] [] = true ∧
      (∀ f ∈ [{ x0 with ts := 9, fn := 3 }, { x0 with ts := 9, fn := 4 }, { x0 with ts := 9, ty := 1 }],
        (on .X (kb 1 64)).matIssues (.kgen { f with hn := h.1 }) [] [9] = true)) := by
  decide

/-- MSOLVE of each handle, of block sizes 1 and 16, at the ends of its parameter's range (KernelWordsEnterTheQueue). -/
theorem witness_solve_words : (∀ f ∈ [{ x0 with ts := 6, fn := 1 }, { x0 with ts := 6, fn := 1, ct := 15 }, { x0 with ts := 6, fn := 1, hn := 1 },
      { x0 with ts := 6, fn := 1, hn := 2 }], (on .X (kb 1 64)).matIssues (.msolve { f with hn := f.hn + 1 }) [6] [] = true) ∧
    (on .X (kb 1 64)).matIssues (.msolve { x0 with ts := 6, fn := 1 }) [6] [] = true ∧
    (on .X (kb 1023 64)).matIssues (.msolve { x0 with ts := 6, fn := 1, hn := 1 }) [6] [] = true ∧
    (on .X (kb 1024 64)).matIssues (.msolve { x0 with ts := 6, fn := 1, hn := 1 }) [6] [] = true ∧
    (on .X (kb 0 64)).matIssues (.msolve { x0 with ts := 6, fn := 1, hn := 1 }) [6] [] = true ∧
    (on .X (kb 1023 64)).elem .n32 6 0 0 = 1023 ∧ (on .X (kb 1023 64)).elem .n32 6 0 1 = 2 := by
  decide

/-- The bank whose kernel 0 and handle 1 name trails that are not set. -/
def kbx : Bank :=
  { kb 1 64 with kernels := [(0, kern 9 1 0)], mat := { MatState.start with handles := [(1, bnd 1 9 64), (2, bnd 1 2 64)] } }

/-- Kernel words whose point trails are not set, and an MSOLVE whose right-hand sides' trail is not (KernelWordsEnterTheQueue). -/
theorem witness_missing_trails : (on .X kbx).matIssues (.kbind { x0 with ts := 6 }) [6] [] = true ∧ (kern 9 1 0).accepted .f32 = true ∧
    (on .X kbx).matIssues (.mldw { x0 with fn := 3, hn := 1 }) [] [] = true ∧
    (on .X kbx).matIssues (.kgen { x0 with ts := 9, hn := 1 }) [] [9] = true ∧
    (∀ h ∈ [1, 2], (on .X kbx).matIssues (.msolve { x0 with ts := 6, fn := 9, hn := h }) [6] [] = true) ∧ kbx.trailNow 9 = none := by
  decide

/-- A matrix queue entry of a word. -/
def ent (i : Instr) (started : Bool) (src : List ARow) : MEnt :=
  { word := i, pos := 2, ord := 1, mode := .rne, seed := 0, period := 0, refs := [], binding := none, params := [], started, src, buf := [], out := [],
    rowsDone := 0, startClk := 0, tseq := 0, held := 0 }
/-- The machine whose bank 0 has that entry at the head of its matrix queue and event 7 at count `n`. -/
def onMat (e : MEnt) (n : Nat) : State := on .X { bk with mat := { MatState.start with queue := [e] }, events := [(7, n)], clk := 10000, phase := .close }

/-- An entry that waits for no event and for one that is posted (MatrixEntriesStartAndComplete). -/
theorem witness_matrix_start : ∀ i ∈ ([.mrd { x0 with ts := 8 }, .mmul { x0 with ew := 7, ts := 4, fn := 15 }, .mldw x0, .krel { x0 with hn := 3 },
      .kbind { x0 with ts := 6 }, .mstat { x0 with acc := true }] : List Instr),
    (onMat (ent i false []) 1).bank.mat.queue = [ent i false []] ∧ (onMat (ent i false []) 1).bank.phase = .close ∧
      (onMat (ent i false []) 1).bank.status = .running ∧ 0 < tget 0 (onMat (ent i false []) 1).bank.events 7 := by
  decide

/-- Entries of every kind that may complete, with an event to post below its top count (MatrixEntriesStartAndComplete). -/
theorem witness_matrix_complete : (∀ p ∈ ([(.mswap x0, 0), (.mzero { x0 with ct := 3 }, 0), (.mmode { x0 with fn := 6 }, 0), (.msamp { x0 with fn := 32 }, 0),
      (.mstat { x0 with ts := 4 }, 0), (.mldw { x0 with ep := 7 }, 64), (.mmul { x0 with fn := 1 }, 2), (.mmul { x0 with fn := 1, ty := 9 }, 2),
      (.mrd { x0 with ts := 8 }, 0), (.mrd { x0 with ts := 8, ty := 9 }, 0)] : List (Instr × Nat)),
      (popNeeds p.1 = none ∧ rowsNeeded p.1 ≤ p.2 ∧ (xf p.1).chn = 0 ∧ (xf p.1).ep.toNat ≤ 7) ∧
      (ent p.1 true []).startClk + (onMat (ent p.1 true []) 1).bank.mat.clocks (ent p.1 true []) + (ent p.1 true []).held ≤ 10000) ∧
    ({ (onMat (ent .attestDone true []) 1).bank with phase := .main, slot := .K } : Bank).between = true ∧
    tget 0 (onMat (ent .attestDone true []) 65534).bank.events 7 + (onMat (ent .attestDone true []) 65534).bank.postsTo 7 < 65535 := by
  decide +kernel

/-! ## Witnesses: triggers, launches, gangs -/

/-- Partition 1 owning quads 0 and 1 of die 0 and every group. -/
def part2 : Part := { part1 with current := { quads := 3, slices := 0xFFFFFFFFFF, groups := 2 ^ 192 - 1 } }
/-- The machine whose slice 1 holds the watch `w` and, on their way to it, the counted writes `l`. -/
def onLook (w : Watch) (l : List CountedWrite) (g : Gang) (k : Bank) : State :=
  { onGang .K k g with dev := { (onGang .K k g).dev with
      parts := [(1, part2)], slices := [(1, { Slice.start with watches := [(2, w)], arrivals := l, count := 255 })] } }
/-- A counted write of the watch at depth `d`. -/
def cwrite (d : Nat) : CountedWrite := { handle := 0x22, addr := 16, depth := d }

/-- A counted write of a watch that is not armed, past the depth limit, past the rate, of a pending trigger, and of a new one
(CountedWritesTriggerHandlers). -/
theorem witness_counted_writes : (∀ p ∈ ([(wtch 1 false false, 1), (wtch 1 true false, 2), ({ wtch 1 true false with rused := 1 }, 1), (wtch 1 true true, 1),
      (wtch 1 true false, 1)] : List (Watch × Nat)),
      (onLook p.1 [cwrite p.2] (gangOf 0 []) bk).dev.leadOf 0x22 = some (1, 2, p.1)) ∧
    (wtch 1 true false).dlim = 1 ∧ (wtch 1 true false).rbud = 1 ∧ (wtch 1 true false).rused = 0 ∧
    (onLook (wtch 1 true false) [] (gangOf 0 []) bk).dev.handlerQuads 1 0 1 = [0] ∧
    (onLook (wtch 1 true false) [] (gangOf 0 []) bk).dev.handlerQuads 1 0 0xFFF0 = [0, 1] := by
  decide

/-- A handler's bank that waits for the close of its trigger, of a watch that stays and of one that is cleared
(CountedWritesTriggerHandlers). -/
theorem witness_trigger_close : ∀ w ∈ [wtch 1 true true, { wtch 1 true true with queued := true }, { wtch 1 true true with cleared := true }],
    ∀ k ∈ [withK { sq with released := false }], k.status = .running ∧ k.k.released = false ∧ k.gang = some (gangKey 1 7) ∧
      (onLook w [] { gangOf 0 [] with watch := some 0x22 } k).dev.leadOf 0x22 = some (1, 2, w) ∧
      (onLook w [] { gangOf 0 [] with watch := some 0x22 } k).dev.slices.map (fun l => l.2.arrivals) = [[]] ∧
      bitOf (gangOf 0 []).pcapt.toNat 0 = false := by
  decide

/-- The machine of partition 1 whose launch queue is `r`, with the bytes `l` at HBM 0x1000 and the page table. -/
def onQueue (r : Ring) (l : List Host.Cell) : State :=
  { mem := l ++ table, dev := { (onTable .K bk []).dev with banks := [], parts := [(1, { part2 with lq := r, plq := r })] } }

/-- TAIL at the end of what the ring holds, past it, and behind HEAD; an entry of each kind (LaunchQueuesAdvance). -/
theorem witness_launch_queue : (∀ p ∈ ([(5, 4), (6, 5), (0, 2 ^ 32 - 1), (1, 0)] : List (Word × Nat)),
      (p.1.toNat % 2 ^ 32 + 2 ^ 32 - ring.head.toNat % 2 ^ 32) % 2 ^ 32 = p.2) ∧ 2 ^ min ring.lsize 16 = 4 ∧
    ring.en = true ∧ ring.head.setWidth 32 ≠ ({ ring with tail := 2 } : Ring).tail ∧
    (onQueue { ring with tail := 2 } []).dev.entryPending 1 false = false ∧
    (∀ p ∈ ([(1, 0, 0, 0), (2, 0, 0, 7), (2, 0, 63, 0), (0, 0, 0, 0), (3, 0, 0, 0)] : List (Nat × Nat × Nat × Nat)),
      ∀ l ∈ [([(0x1010, 0x40), (0x1018, p.1), (0x1019, p.2.1), (0x101A, p.2.2.1), (0x101C, p.2.2.2)].filter (fun x : Nat × Nat => x.2 != 0)).map
          (fun x => ((x.1, BitVec.ofNat 8 x.2) : Host.Cell))],
        (Mach.of (onQueue { ring with tail := 2 } l)).hostHolds 0x1010 16 = false ∧ (onQueue ring l).le 0x1010 8 = 0x40 ∧
        (onQueue ring l).le 0x1018 1 = p.1 ∧ (onQueue ring l).le 0x101A 1 = p.2.2.1) ∧
    (onQueue ring []).dev.ownsQuadOn 1 0 = true := by
  decide

/-- A submission of partition 1's launch queue at `a`. -/
def subAt (a : Nat) : Submission :=
  { die := 0, part := 1, prov := false, addr := a, node := none, queue := true, graph := none, waits := false, given := false }
/-- The machine whose die 0 has that submission, with the bytes `l` at HBM 0x1000. -/
def onSubmit (x : Submission) (l : List Host.Cell) : State :=
  { onQueue ring l with dev := { (onQueue ring l).dev with dies := [(0, { Die.start with submits := [x] })] } }
/-- A descriptor of image 3 with PRIO 5 and one member more, ARGBASE 0x77, DONE 0x2000, TAG 9. -/
def descriptor : List Host.Cell :=
  [(0x1000, 3), (0x1004, 5), (0x1005, 1), (0x1006, 1), (0x1008, 0x77), (0x1021, 0x20), (0x1028, 9)]

/-- A submission that is misaligned, and one whose descriptor is read (GangsAreAcceptedAndReady). -/
theorem witness_submission : (∀ x ∈ [subAt 0x1000, subAt 0x1020], nextSubmission false ((onSubmit x []).dev.die 0).submits = some x) ∧
    0x1020 % 64 ≠ 0 ∧ bitOf part2.pcapt.toNat 1 = false ∧ (onSubmit (subAt 0x1000) descriptor).dev.gangsOn 0 < 8192 ∧ bitOf part2.pcapt.toNat 0 = false ∧
    tfind part2.images 3 ≠ none ∧ (onSubmit (subAt 0x1000) descriptor).dev.ownsQuadOn 1 0 = true := by
  decide

/-- The descriptor as that submission's read gives it (GangsAreAcceptedAndReady). -/
theorem witness_descriptor : ∃ bs : List Byte, (Mach.of (onSubmit (subAt 0x1000) descriptor)).ownRead 1 0x1000 64 =
      (Mach.of (onSubmit (subAt 0x1000) descriptor), .ok bs) ∧ (descr bs).illegal = false ∧ (descr bs).gated = false ∧ (descr bs).nrd = 0 ∧
    (descr bs).nwr = 0 ∧ (descr bs).die = 0 ∧ (descr bs).image = 3 := ⟨_, rfl, by decide +kernel⟩

/-- A plot whose published version has a frame at 0x300000 with a second version at 0x308000. -/
def twoVersions (st : VState) (copied : Bool) : Plot :=
  { versions := [{ frame := 0x300000, writer := none, state := .final, copied := true, freed := false },
      { frame := 0x308000, writer := none, state := st, copied, freed := false }], published := 0 }
/-- The machine with that plot of partition 1 at virtual 0x300000. -/
def onPlot (p : Plot) (g : Gang) : State :=
  { onTable .K bk [] with dev := { (onTable .K bk []).dev with plots := [(2 ^ 42 + 0xC0, p)], gangs := [(gangKey 1 7, g)] } }

set_option maxRecDepth 100000 in
/-- A version that may be copied (GangsAreAcceptedAndReady). -/
theorem witness_copy_version : ∀ s ∈ [onPlot (twoVersions .provisional false) (gangOf 0 [])], ∀ key ∈ [2 ^ 42 + 0xC0],
    (s.dev.plot key).versions.length = 2 ∧ isHbm ((Mach.of s).versionFrame key 0) = true ∧ (Mach.of s).versionFrame key 0 % 16384 = 0 ∧
    0x308000 % 16384 = 0 ∧ (Mach.of s).hostHolds ((Mach.of s).versionFrame key 0) 16384 = false ∧ (Mach.of s).writeHeld 0x308000 16384 = false ∧
    (Mach.of s).copyHeld (key / 2 ^ 42) ((Mach.of s).versionFrame key 0) 0x308000 = false := by
  decide

/-- A version that may be copied; a gang that is ready, and one with nothing to order (GangsAreAcceptedAndReady). -/
theorem witness_ready : (onPlot (twoVersions .provisional false) (gangOf 0 [])).dev.plot (1 * 2 ^ 42 + 0xC0 % 2 ^ 42) = twoVersions .provisional false ∧
    (twoVersions .provisional false).newestBelow 1 = 0 ∧ (twoVersions .provisional false).stateOf 0 = .final ∧
    (∀ st ∈ [GangStage.ready, .ordering], ∀ g ∈ [{ gangOf 0 [] with stage := st }],
      tfind (onPlot (twoVersions .final true) g).dev.gangs (gangKey 1 7) = some g ∧
      (Mach.of (onPlot (twoVersions .final true) g)).gangSettled g = true ∧ ((onPlot (twoVersions .final true) g).dev.hamper 0).length < 1024) := by
  decide

/-! ## Witnesses: hampers, tasks -/

/-- An entry of gang 7 of partition 1 with `n` members, number `i` in its order. -/
def hent (n : Nat) (i : Nat) : HampEnt := { gang := gangKey 1 7, saved := none, prio := 0, ord := i, n, part := 1 }
/-- The machine with those hampers, gang 7 and bank 0. -/
def onHamp (hs : Table (List HampEnt)) (g : Gang) (k : Bank) : State :=
  { onLook (wtch 1 true true) [] g k with dev := { (onLook (wtch 1 true true) [] g k).dev with hampers := hs } }
/-- A gang of `n` members that waits in a hamper. -/
def waiting (n : Nat) : Gang :=
  { gangOf (n - 1) [] with stage := .hamper, members := (List.range n).map (fun i => (i, { taskId := 5 + i, loc := .hamper, failed := none, bars := 0 })) }

/-- A quad and a core hamper at their sizes and thresholds and one past them, over a die hamper of one entry (HampersFeedBanks). -/
theorem witness_baskets : (∀ n ∈ [4, 5, 16, 17, 64, 65], ∀ hs ∈ [[(0, [hent 1 99]), (1000, (List.range n).map (hent 1)), (2000, (List.range n).map (hent 1))]],
      ((onHamp hs (waiting 1) Bank.empty).dev.hamper 1000).length = n ∧ ((onHamp hs (waiting 1) Bank.empty).dev.hamper 2000).length = n) ∧
    (Mach.of (onHamp [(0, [hent 1 99])] (waiting 1) Bank.empty)).mayHold (hent 1 99) 0 4 = true ∧
    (Mach.of (onHamp [(0, [hent 5 99])] (waiting 5) Bank.empty)).mayHold (hent 5 99) 0 4 = false := by
  decide

/-- An empty bank whose best head is a task of its own core's, quad's or die's hamper, and one of a gang of two
(HampersFeedBanks). -/
theorem witness_dispatch : (∀ h ∈ [0, 1000, 2000], ∀ s ∈ [onHamp [(h, [hent 1 1])] (waiting 1) Bank.empty],
      bestHead ((Mach.of s).heads 0) = some (h, hent 1 1) ∧ s.dev.slotBlocks 0 = false ∧ tfind s.dev.gangs (hent 1 1).gang = some (waiting 1) ∧
      bitOf (waiting 1).pcapt.toNat 0 = false ∧ bitOf (waiting 1).pcapt.toNat 1 = false ∧
      (∀ x ∈ s.dev.hamper (0 / 128), (s.dev.gangOf x).any (fun y => y.trig) = false)) ∧
    (∀ s ∈ [onHamp [(0, [hent 2 1])] (waiting 2) Bank.empty], bestHead ((Mach.of s).heads 0) = some (0, hent 2 1) ∧
      tfind s.dev.gangs (hent 2 1).gang = some (waiting 2) ∧
      (∀ x ∈ s.dev.hamper (0 / 128), (s.dev.gangOf x).any (fun y => y.trig) = false) ∧
      ((List.range 8).filter (fun i => i != 0 % 8 && (tget Bank.empty s.dev.banks (0 / 8 * 8 + i)).held == some (hent 2 1).gang)).length + 1 < 2) := by
  decide

/-- A running gang of one member, on bank 0. -/
def solo : Gang := { gangOf 0 [] with members := [(0, { taskId := 5, loc := .bound 0, failed := none, bars := 0 })] }

/-- An image at 0x40000 whose one segment, at 128, is one K word HALT. -/
def image : List Host.Cell := [(0x40006, 1), (0x40044, 8), (0x40048, 0x80), (0x40086, 9)]
/-- A machine with that image, a page that may be executed, and a bank of task `tk3` in some state. -/
def onLoad (st : BankStatus) : State :=
  { mem := image ++ table, dev := { (onPlot (twoVersions .final true)
      { solo with stage := .bound }).dev with
    banks := [(0, { Bank.empty with status := st, task := some { tk with image := 3 }, mbox := 0x77 })]
    cores := [(0, { CoreState.start with tlb := [{ page 0x40000 0x40000 false 0 with x := true }] })] } }

/-- The records and the words of that image as the loader reads them (TasksLoadAndStart). -/
theorem witness_load : ∃ rs bs : List Byte, (Mach.of (onLoad .loading)).loadRecords 0 0x40000 = (Mach.of (onLoad .loading), .ok rs []) ∧
    (segsOf rs).map (fun g => (g.kind, g.index, g.size, g.offset)) = [(0, 0, 8, 128)] ∧
    Mach.loadGo 0 9 (Mach.of (onLoad .loading)) 0x40080 0 8 = (Mach.of (onLoad .loading), .ok bs []) ∧
    tfind ((onLoad .loading).dev.part 1).images 3 = some { va := 0x40000, dataVa := 0 } ∧ bs = [0, 0, 0, 0, 0, 0, 9, 0] :=
  ⟨_, _, rfl, by decide +kernel, rfl, rfl, rfl⟩

/-- The same machine, whose image's one segment is kernel 0 of two words of which its header counts one. -/
def onKernel : State :=
  { onLoad .loading with mem := [(0x40006, 1), (0x40040, 4), (0x40044, 32), (0x40048, 0x80), (0x40083, 1), (0x40096, 9)] ++ table }

/-- The records of that image (TasksLoadAndStart). -/
theorem witness_load_kernel : ∃ rs bs : List Byte, (Mach.of onKernel).loadRecords 0 0x40000 = (Mach.of onKernel, .ok rs []) ∧
    (segsOf rs).map (fun g => (g.kind, g.index, g.size, g.offset)) = [(4, 0, 32, 128)] ∧
    Mach.loadGo 0 33 (Mach.of onKernel) 0x40080 0 32 = (Mach.of onKernel, .ok bs []) ∧ bs.length = 32 ∧ bs.getD 3 0 = 1 :=
  ⟨_, _, rfl, by decide +kernel, rfl, by decide +kernel, by decide +kernel⟩


/-- A gang whose one member is loaded (TasksLoadAndStart). -/
theorem witness_start : ((tget .empty (onLoad .loaded).dev.banks 0).status = .loaded ∧ (tget .empty (onLoad .loaded).dev.banks 0).savePa = none) ∧
    (tfind (onLoad .loaded).dev.gangs (gangKey 1 7)).isSome = true ∧ (tget .empty (onLoad .loaded).dev.banks (partner 0)).status = .empty ∧
    (onLoad .loaded).dev.saving 0 = false ∧ (tget .empty (onLoad .loaded).dev.banks 0).copyq = [] ∧
    (tget .empty (onLoad .loaded).dev.banks 0).trails = [] ∧ (tget .empty (onLoad .loaded).dev.banks 0).mat.queue = [] := by
  decide

/-- A bank whose task has halted, running and ready (TasksRetireAndComplete). -/
theorem witness_retire : ∀ st ∈ [BankStatus.running, .ready], ∀ k ∈ [{ Bank.empty with status := st, task := some tk, k := { SeqState.start true with halted := true } }],
    k.enginesIdle = true ∧ k.anyAcc = false ∧ (onHamp [] solo k).dev.dirtyLines (some 1) = [] ∧ ((onHamp [] solo k).dev.part 1).logWait = [] ∧
    k.ldc = 0 ∧ k.stc = 0 ∧ k.cpc = 0 ∧ k.toc = 0 ∧ k.failed = none ∧
    (∀ q ∈ [Seq.L, .X, .D], (k.seq q).released = false) ∧ k.mat.queue = [] ∧
    tfind (onHamp [] solo k).dev.gangs (gangKey 1 7) = some solo ∧ solo.view = [] ∧ (onHamp [] solo k).dev.versionsBy (gangKey 1 7) = [] := by
  decide

/-- A gang whose last member has retired, with its gate at 0x2000. -/
def gated : Gang :=
  { gangOf 0 [] with stage := .retired, gated := true, rename := true, gate := 0x2000, doneVa := 0x2040, tag := 9,
                     members := [(0, { taskId := 5, loc := .retired, failed := none, bars := 0 })], view := [(2 ^ 42 + 0xC0, 1)] }
/-- The machine with that gang, the gate word `v` and a provisional version of its own. -/
def onGate (v : Byte) (g : Gang) : State :=
  { onPlot { twoVersions .provisional true with versions := [{ frame := 0x300000, writer := none, state := .final, copied := true, freed := false },
      { frame := 0x308000, writer := some (gangKey 1 7), state := .provisional, copied := true, freed := false }] } g with
    mem := [(0x2000, v)].filter (fun x => x.2 != 0) ++ table }

/-- The gate words 0, 1, 2 and 3 as they are read, and a value that a store has left (TasksRetireAndComplete). -/
theorem witness_gate : (∀ v ∈ ([[], [1], [2], [3]] : List (List Byte)), gated.stage = .retired ∧ gated.gated = true ∧ gated.firstFailed = none ∧
      tfind (onGate (v.getD 0 0) gated).dev.gangs (gangKey 1 7) = some gated ∧ gated.gateLatch = none ∧
      (Mach.of (onGate (v.getD 0 0) gated)).mapsHeld 1 = false) ∧
    (∃ bs : List Byte, (Mach.of (onGate 0 gated)).ownRead 1 0x2000 8 = (Mach.of (onGate 0 gated), .ok bs) ∧ leNat bs = 0) ∧
    (∃ bs : List Byte, (Mach.of (onGate 1 gated)).ownRead 1 0x2000 8 = (Mach.of (onGate 1 gated), .ok bs) ∧ leNat bs = 1) ∧
    (∃ bs : List Byte, (Mach.of (onGate 3 gated)).ownRead 1 0x2000 8 = (Mach.of (onGate 3 gated), .ok bs) ∧ leNat bs = 3) ∧
    ({ gated with gateLatch := some 2 } : Gang).gateLatch = some 2 :=
  ⟨by decide, ⟨_, rfl, by decide⟩, ⟨_, rfl, by decide⟩, ⟨_, rfl, by decide⟩, rfl⟩

set_option maxRecDepth 100000 in
/-- Gangs that complete: retired, with a gate decided, and with a member that failed; and the completion word's place
(TasksRetireAndComplete). -/
theorem witness_completion : (∀ g ∈ [{ gated with gated := false }, { gated with stage := .decided, gateStatus := 2 },
      { gated with members := [(0, { taskId := 5, loc := .retired, failed := some .prot, bars := 0 })], irq := true, vec := 2 }],
      (g.stage = .retired ∧ g.gated = false ∧ g.firstFailed = none) ∨ (g.stage = .decided ∧ g.gated = true ∧ g.firstFailed = none) ∨
        (g.stage = .retired ∧ g.firstFailed = some (0, .prot))) ∧ gated.node = none ∧ gated.doneVa ≠ 0 ∧
    (Mach.of (onGate 1 gated)).translateLeaf 1 0x2040 .write = .ok { pa := 0x2040, ca := 0, pin := false, page := 0, size := 7 } ∧
    (onGate 1 gated).ownStore 0x2040 := ⟨by decide, rfl, by decide, rfl, by unfold State.ownStore; decide⟩

/-- The four leaf entries of a page of 16 KiB of partition 1 at virtual 0x1000000, with frame 0x400000 and MIGR `mg`. -/
def leaves (mg : Bool) : List Host.Cell :=
  [(0x208010, 0x01), (0x208011, 0xC0), (0x208012, 0x20)] ++ (List.range 4).flatMap (fun j =>
    [(0x20C000 + 8 * j, if mg then 0x8F else 0x0F), (0x20C001 + 8 * j, 0x01), (0x20C002 + 8 * j, 0x40), (0x20C006 + 8 * j, 0x10)])
/-- A machine with that page, of whose plot a version waits to be published. -/
def onLeaf : State :=
  { mem := table ++ leaves false, dev := { (onTable .K bk []).dev with
      parts := [(1, part2)], plots := [(2 ^ 42 + 0x400, twoVersions .final true)]
      gangs := [(gangKey 1 7, { gangOf 0 [] with view := [(2 ^ 42 + 0x400, 0)] })] } }

/-- A plot whose older version a running gang still sees and whose newer one is final (TasksRetireAndComplete). -/
theorem witness_publication : onLeaf.dev.plot (1 * 2 ^ 42 + 0x400 % 2 ^ 42) = twoVersions .final true ∧ onLeaf.dev.viewHolds (2 ^ 42 + 0x400) 0 = true ∧
    (Mach.of onLeaf).rawLeaf 1 0x1000000 = some (0x20C000, 0x001000000040010F) ∧
    (Mach.of onLeaf).leavesOf 1 0x1000000 = (List.range 4).map (fun j => 0x20C000 + 8 * j) ∧
    onLeaf.dev.watchesIn ((Mach.of onLeaf).leafPlot (2 ^ 42 + 0x400)) (2 ^ 14) = [] ∧
    (∀ j < 4, (Mach.of onLeaf).hostHolds (0x20C000 + 8 * j) 8 = false) ∧
    (Mach.of onLeaf).hostHolds ((Mach.of onLeaf).leafPlot (2 ^ 42 + 0x400)) (2 ^ 14) = false ∧
    (Mach.of onLeaf).hostHolds 0x308000 (2 ^ 14) = false ∧ isHostMem 0x20C01F = false ∧
    (∀ e ∈ onLeaf.dev.banks, e.2.k.waita = none ∧ ∀ q ∈ [Seq.K, .L, .X, .D], (e.2.seq q).walk = none) := by
  decide

/-! ## Witnesses: bind records, restores, quanta, graphs -/

/-- A bind record that names partition 1, a TASKID, OP `op`, and a save area at host memory 2^52 - 2^26. -/
def record (op task : Nat) : BitVec 128 := BitVec.ofNat 128 (op + 2 ^ 8 + task * 2 ^ 32 + (2 ^ 52 - 2 ^ 26) * 2 ^ 64)

/-- Records with a reserved bit or OP and without; a BIND whose task waits, and one whose task does not (BindRecordsAreActedOn). -/
theorem witness_records : ¬ slotOk (record 1 5 + BitVec.ofNat 128 (2 ^ 12)) ∧ ¬ slotOk (record 1 5 + BitVec.ofNat 128 (2 ^ 127)) ∧ slotOk (record 1 5) ∧
    (record 5 5).toNat % 16 < 6 ∧ 6 ≤ (record 6 5).toNat % 16 ∧ 6 ≤ (record 15 5).toNat % 16 ∧
    (Mach.of (onHamp [(0, [hent 1 1])] (waiting 1) Bank.empty)).bindTarget (0 / 128) (slotRecord (record 1 5) 1 0).part (slotRecord (record 1 5) 1 0).task =
      some (0, hent 1 1, 0) ∧
    (Mach.of (onHamp [(0, [hent 1 1])] (waiting 1) Bank.empty)).bindTarget (0 / 128) (slotRecord (record 1 6) 1 0).part (slotRecord (record 1 6) 1 0).task = none ∧
    (onHamp [(0, [hent 1 1])] (waiting 1) Bank.empty).dev.quadOwner (0 / 8) = some 1 ∧ (waiting 1).placeOk 0 0 = true := by
  refine ⟨by unfold slotOk; decide, by unfold slotOk; decide, by unfold slotOk; decide, by decide, by decide, by decide, by decide, by decide,
    by decide, by decide⟩

/-- A ready bank that has settled, and a save area at the top of host memory (BindRecordsAreActedOn). -/
theorem witness_save : ({ bk with status := .ready, k := SeqState.start true } : Bank).settled = true ∧ (slotRecord (record 5 5) 5 0).savePa = 2 ^ 52 - 2 ^ 26 ∧
    (onHamp [] solo bk).dev.saveAreaOk (2 ^ 52 - 2 ^ 26) = true := by
  refine ⟨by decide, by decide, ?_⟩
  have h : ∀ i < 16385, (onHamp [] solo bk).dev.providerMem (2 ^ 52 - 2 ^ 26 + 4096 * i - b2n (i == saveBytes / 4096)) = true := by
    intro i hi
    have : b2n (i == saveBytes / 4096) ≤ 1 := by unfold b2n; split <;> omega
    by_cases hs : i = 16384
    · subst hs; decide
    · have : b2n (i == saveBytes / 4096) = 0 := by simp [b2n, saveBytes, hs]
      simp only [Dev.providerMem, isHostMem, this, Bool.or_eq_true, beq_iff_eq]
      left; omega
  simp only [Dev.saveAreaOk, Bool.and_eq_true, List.all_eq_true, List.mem_range]
  exact ⟨⟨by decide, by decide⟩, fun i hi => h i hi⟩

/-- Banks between two clocks and inside one, and what else bears on a record's acting (BindRecordsAreActedOn). -/
theorem witness_between : bk.between = true ∧ ({ bk with slot := .L } : Bank).between = false ∧ Bank.empty.status = .empty ∧
    ((onHamp [] solo bk).dev.part bk.part).deferred = [] ∧ (waiting 1).trig = false ∧ bitOf (waiting 1).pcapt.toNat 0 = false ∧
    bitOf (waiting 1).pcapt.toNat 1 = false ∧ (hent 1 1).saved = none ∧
    (Mach.of (hosted (onHamp [] solo bk))).writeHeld (2 ^ 52 - 2 ^ 26) (2 ^ 26) = false := by
  decide

/-- A saved context of the task. -/
def saved (st : BankStatus) : Saved := { task := tk, mbox := 0x77, bank := { bk with status := st } }
/-- The machine whose bank 0 has that context to restore. -/
def onSaved (st now : BankStatus) : State :=
  { onHamp [] solo bk with dev := { (onHamp [] solo bk).dev with
      banks := [(0, { bk with status := now, savePa := some (2 ^ 52 + 0x1000) })]
      pkg := { (onHamp [] solo bk).dev.pkg with saved := [(2 ^ 52 + 0x1000, saved st)] } } }

/-- A restore of a context that was ready and one that was loaded, and one whose area has no header
(BanksRestoreSwitchAndYieldToHeads). -/
theorem witness_restore : (∀ st ∈ [BankStatus.ready, .loaded],
      (tget .empty (onSaved st .loaded).dev.banks 0).savePa = some (2 ^ 52 + 0x1000) ∧ (tget .empty (onSaved st .loaded).dev.banks 0).status = .loaded ∧
      tfind (onSaved st .loaded).dev.pkg.saved (2 ^ 52 + 0x1000) = some (saved st) ∧ (Mach.of (onSaved st .loaded)).hostHolds 0x1000 (2 ^ 26) = false) ∧
    (tget .empty (onSaved .ready .loading).dev.banks 0).status = .loading ∧ (tget .empty (onSaved .ready .loading).dev.banks 0).why = .none ∧
    (tget .empty (onSaved .ready .loading).dev.banks 0).task = some tk ∧ (onSaved .ready .loading).le 0x1000 4 ≠ 0x4B534156 ∧
    (Mach.of (onSaved .ready .loading)).hostHolds 0x1000 (2 ^ 26) = false := by
  decide

/-- The machine with two banks of core 0. -/
def onPair (k p : Bank) : State := { onHamp [] solo k with dev := { (onHamp [] solo k).dev with banks := [(0, k), (1, p)] } }

/-- A ready bank whose partner is empty, loads, is parked, awaits an answer, or runs a task of lower priority
(BanksRestoreSwitchAndYieldToHeads). -/
theorem witness_switch : ∀ k ∈ [{ bk with status := .ready, task := some { tk with prio := 1 } }],
    ∀ p ∈ [Bank.empty, { Bank.empty with status := .loading }, { bk with status := .waiting, why := .parked },
        { bk with status := .waiting, why := .answer }, bk],
      (tget .empty (onPair k p).dev.banks 0) = k ∧ tget .empty (onPair k p).dev.banks (partner 0) = p ∧ k.k.ecalls = [] ∧
      (onPair k p).dev.saving 0 = false ∧ k.yielding = false ∧ (Mach.of (onPair k p)).settled 0 = true ∧
      ((p.status = .empty ∨ p.status = .loading ∨ (p.status = .waiting ∧ (p.why = .parked ∨ (Mach.of (onPair k p)).settled 1 = true))) ∨
        (p.status = .running ∧ p.prio < k.prio ∧ p.between = true ∧ p.mat.queue = [] ∧ (Mach.of (onPair k p)).settled 1 = true)) := by
  decide

/-- A partition with one waiting head, of higher priority than the task that runs on bank 0 (BanksRestoreSwitchAndYieldToHeads). -/
theorem witness_quantum : ∀ e ∈ [{ hent 1 1 with prio := 3 }], ∀ s ∈ [onHamp [(0, [e])] (waiting 1) bk],
    s.dev.partHeads 1 0 = [(0, e)] ∧ (∀ d ∈ [1, 2, 3], s.dev.partHeads 1 d = []) ∧ (Mach.of s).victims 1 e 0 = [0] ∧
      (tget .empty s.dev.banks (partner 0)).status = .empty ∧ (tget .empty s.dev.banks 0).status = .running ∧
      (∀ d ∈ [0, 1, 2, 3], s.dev.partHeads 2 d = []) ∧ (tget .empty s.dev.banks 0).between = true ∧
      s.dev.parts.map (fun p => p.2.deferred) = [[]] ∧ (Mach.of s).bindTarget 0 1 5 = some (0, e, 0) ∧
      (∀ b ∈ s.dev.banks, b.2.task.map (fun x => x.part) = some 1) := by
  decide

/-- A node of a graph. -/
def node (kind npred n0 n1 : Nat) : GNode :=
  { kind, npred, s0 := 0, n0, s1 := 2, n1, addr := 0x2000, bfirst := if kind = 3 then 1 else 0, blast := if kind = 3 then 1 else 0 }
/-- A graph whose node 0 is `x`, of which node 1 awaits one arrival and node 2 two; node 0 stands at `loc` with `sk` skips. -/
def graph (x : GNode) (loc : NodeAt) (sk : Nat) : Graph :=
  { die := 0, part := 1, prov := false, nodes := [x, { node 1 1 0 0 with addr := 0x1000 }, node 5 2 0 0], succs := [1, 2, 2], doneVa := 0x2040, tag := 9,
    vec := 0, st := [(0, { dones := 0, skips := sk, loc, ord := 0 })], nextReady := 1, faulted := false }
/-- The machine whose walker 0 has that graph at place 0, with a condition word `v`. -/
def onGraph (v : Byte) (g : Graph) : State :=
  { onGate v gated with dev := { (onGate v gated).dev with gangs := [], graphs := [(0, g)] } }

/-- Ready nodes of every kind, with the condition words 0 and 1, and a node that is skipped (GraphsRun). -/
theorem witness_nodes : (∀ v ∈ ([0, 1] : List Nat), ∀ x ∈ [node 1 0 2 0, node 2 0 2 1, node 3 1 2 1, node 4 0 2 0, node 5 0 2 0],
      tfind (onGraph v (graph x .ready 0)).dev.graphs 0 = some (graph x .ready 0) ∧ ((graph x .ready 0).at 0).loc = .ready ∧
      (graph x .ready 0).node 0 = x ∧ (graph x .ready 0).succs.take 2 = [1, 2]) ∧
    (∃ bs : List Byte, (Mach.of (onGraph 0 (graph (node 2 0 2 1) .ready 0))).ownRead 1 0x2000 8 =
      (Mach.of (onGraph 0 (graph (node 2 0 2 1) .ready 0)), .ok bs) ∧ leNat bs = 0) ∧
    (∃ bs : List Byte, (Mach.of (onGraph 1 (graph (node 2 0 2 1) .ready 0))).ownRead 1 0x2000 8 =
      (Mach.of (onGraph 1 (graph (node 2 0 2 1) .ready 0)), .ok bs) ∧ leNat bs = 1) ∧
    ((graph (node 2 1 2 1) .waiting 1).at 0).skips = ((graph (node 2 1 2 1) .waiting 1).node 0).npred :=
  ⟨by decide, ⟨_, rfl, by decide⟩, ⟨_, rfl, by decide⟩, by decide⟩

/-- A launch of a graph of one TASK node at 0x1000, with its node at 0x1020 (GraphsRun). -/
def onGraphReq : State :=
  { onSubmit (subAt 0x1000) [(0x1000, 1), (0x1008, 0x20), (0x1009, 0x10), (0x1010, 0x80), (0x1011, 0x10), (0x1018, 0x40), (0x1019, 0x20), (0x1020, 1),
      (0x1029, 0x30)] with
    dev := { (onSubmit (subAt 0x1000) []).dev with dies := [(0, { Die.start with graphReqs := [{ subAt 0x1000 with graph := some (7, 2) }] })] } }

/-- That launch is read (GraphsRun). -/
theorem witness_graph_accept : (onGraphReq.dev.die 0).graphReqs.find? (fun y => !y.waits) = some { subAt 0x1000 with graph := some (7, 2) } ∧
    onGraphReq.dev.freeGraph 0 = some 0 ∧ (onGraphReq.dev.die 0).stopped = false ∧
    ∃ (h : GHeader) (g : Graph), (Mach.of onGraphReq).readGraph { subAt 0x1000 with graph := some (7, 2) } = (Mach.of onGraphReq, some h, .ok g) ∧
      h.nnode = 1 ∧ g.nodes.length = 1 ∧ (g.at 0).loc = .ready :=
  ⟨by decide, by decide, by decide, _, _, rfl, by decide +kernel, by decide +kernel, by decide +kernel⟩

/-- A graph that has run (GraphsRun). -/
theorem witness_graph_over : ∀ s ∈ [onGraph 0 (graph (node 5 0 0 0) .finished 0)],
    (∀ j ∈ [0, 1, 2], ((graph (node 5 0 0 0) .finished 0).at j).loc ≠ .ready ∧ (graph (node 5 0 0 0) .finished 0).skipped j = false) ∧
    s.dev.gangs = [] ∧ s.dev.dies = [] ∧ (graph (node 5 0 0 0) .finished 0).nodes.length = 3 := by
  decide

/-! ## Witnesses: records, answers, pages -/

/-- A fault record of the task on bank 0, at virtual 0x300010, with FLAGS `fl`. -/
def frec (fl : Nat) : FaultRec :=
  { cause := Cause.page.code, src := 1, access := 1, flags := fl, core := 0, taskId := 5, pos := 2, va := 0x300010, pa := 0, detail := 0, gangId := 7,
    bank := some 0, queue := none, submission := none, vec := none }
/-- The machine of partition 1 with the fault queue `r`, the records `l`, and the awaited records `aw`; bank 0 awaits an answer. -/
def onFault (r : Ring) (l : List FaultRec) (aw : Table FaultRec) : State :=
  { onPlot (twoVersions .final true) solo with dev := { (onPlot (twoVersions .final true) solo).dev with
      parts := [(1, { part2 with fq := r, records := l, awaiting := aw })]
      banks := [(0, { bk with status := .waiting, why := .answer, answerSeq := some 3, onCont := [.L] })] } }

/-- A record that goes to an empty ring and to one that holds records, with and without an answer, and one that finds the ring
full or disabled (FaultsAreRecordedAndAnswered). -/
theorem witness_records_written : (∀ p ∈ ([(1, 1), (1, 0), (0xFFFFFFFFFFFFFFFF, 0xFFFFFFFE)] : List (Nat × Nat)),
      ({ ring with head := word p.1, tail := BitVec.ofNat 32 p.2 } : Ring).full 16 = false ∧
      ∀ f ∈ [0, 1, 2], ((onFault { ring with head := word p.1, tail := BitVec.ofNat 32 p.2 } [frec f] []).dev.part 1).records = [frec f]) ∧
    ({ ring with head := 4, tail := 0 } : Ring).full 16 = true ∧ ({ ring with en := false } : Ring).en = false ∧ (frec 0).vec = none ∧
    (∀ f ∈ [0, 1, 2], (frec f).keptBack = false) ∧ (Mach.of (onFault ring [frec 0] [])).writeHeld 0x1040 64 = false ∧ isHbm 0x1040 = true ∧
    (Mach.of (onFault ring [frec 0] [])).poisoned 0x1040 64 = none ∧ bitOf (frec 5).flags 0 = true ∧ bitOf (frec 5).flags 2 = true ∧ bitOf (frec 2).flags 0 = false := by
  decide

/-- An awaited record of the task that waits on bank 0, and a number that no awaited record has (FaultsAreRecordedAndAnswered). -/
theorem witness_answers : ((onFault ring [] [(3, frec 1)]).dev.part 1).awaited ((3 : Word).toNat % 2 ^ 32) = some (3, frec 1) ∧
    (frec 1).src % 8 ≠ 5 ∧ (onFault ring [] [(3, frec 1)]).dev.saving 0 = false ∧
    ((onFault ring [] [(3, frec 1)]).dev.part 1).awaited ((4 : Word).toNat % 2 ^ 32) = none ∧ (3 : Word).getLsbD 34 = false ∧
    (frec 1).submission = none ∧ (frec 1).queue = none ∧ (Mach.of (onFault ring [] [(3, frec 1)])).bankOf 1 (frec 1).taskId = some 0 ∧
    (tget .empty (onFault ring [] [(3, frec 1)]).dev.banks 0).status = .waiting ∧
    (tget .empty (onFault ring [] [(3, frec 1)]).dev.banks 0).answerSeq = some 3 := by
  decide

/-- Partition 1 with a free-frame map at host memory, and a registered page of 4 KiB at 0x1000000 that lies in host memory. -/
def part3 : Part := { part2 with fmapb := 3 * 2 ^ 50, registered := [(0x1000000, 0x001C00000010000F)] }
/-- The machine with that partition: the map offers the frames at 0x500000 and, of another die, at 0x3000000000. -/
def onFrames (aw : Table FaultRec) : State :=
  { mem := table ++ leaves false ++ [(3 * 2 ^ 50 + 0xA0, 0xFF), (3 * 2 ^ 50 + 0x600000, 0xF0)]
    dev := { (hosted (onFault ring [] [])).dev with parts := [(1, { part3 with awaiting := aw })] } }

/-- A migrating fault whose migration is over, and the fault of a registered page for which a frame is free
(FaultsAreRecordedAndAnswered). -/
theorem witness_place : bitOf (frec 5).flags 2 = true ∧ (Mach.of (onFrames [(3, frec 5)])).rawLeaf 1 (frec 5).va = some (0x208000, 0x001000000000070F) ∧
    bitOf 0x001000000000070F 7 = false ∧ (∀ r ∈ [{ frec 1 with va := 0x1000010 }], bitOf r.flags 2 = false ∧ bitOf r.flags 3 = false ∧
      part3.registeredPage r.va = some (0x1000000, 0x001C00000010000F) ∧
      (Mach.of (onFrames [(3, r)])).findFrame 1 0 (pageBytes (0x001C00000010000F / 2 ^ 8 % 2 ^ 4) / 4096) (r.core / 2 ^ 14) = some 0x500000) := by
  decide

/-- A walk under way, which TINV ends (PagesMoveAndTlbsForget). -/
theorem witness_tinv : (withK { sq with walk := some { va := 0x10000, kind := .read, refused := none } }).k.walk ≠ none := by
  decide

/-- Die 0 whose tracker has counted `n` accesses of die 1 on the page at 0x400000. -/
def hot (n : Nat) : Die := { Die.start with hen := true, hthresh := 4, counts := [(0x400 * 4 + 1, n)] }
/-- The page that the tracker finds there. -/
def hotPage : Page := { frame := 0x400000, size := 1, vas := [0x1000000], leaves := (List.range 4).map (fun j => 0x20C000 + 8 * j), e := 0x001000000040010F }

/-- A page that another die uses as often as the threshold says (PagesMoveAndTlbsForget). -/
theorem witness_hot : (hot 4).hotFor 0 hotPage = some 1 ∧ (hot 3).hotFor 0 hotPage = none ∧ hbmDie hotPage.frame = 0 ∧ bitOf hotPage.e 5 = false ∧
    bitOf hotPage.e 6 = false ∧ bitOf hotPage.e 7 = false ∧ (onFrames []).dev.versioned 1 hotPage = false ∧ hotPage.size ≠ 0 ∧
    (Mach.of (onFrames [])).freeRun 1 0 (pageBytes hotPage.size / 4096) 1 = some 0x3000004000 ∧ (hot 4).migrations.length < 64 := by
  decide

/-- The machine with that page alone and that die. -/
def onHot (n : Nat) : State :=
  { onFrames [] with
    mem := table.take 6 ++ leaves false ++ [(3 * 2 ^ 50 + 0xA0, 0xFF), (3 * 2 ^ 50 + 0x600000, 0xF0)]
    dev := { (onFrames []).dev with dies := [(0, hot n)] } }

/-- The tracker counts that page, in partition 1 (PagesMoveAndTlbsForget). -/
theorem witness_counted : (Mach.of (onHot 4)).countedPages 0 = [(1, hotPage)] ∧ ((onHot 4).dev.die 0).hen = true ∧ (Mach.of (onHot 4)).startHeld 1 hotPage = false ∧
    ((onHot 4).dev.die 0).stopped = false :=
  ⟨by decide +kernel, rfl, by decide +kernel, rfl⟩

/-- A migration of that page. -/
def migr (copied : Bool) : Migration :=
  { part := 1, vas := [0x1000000], size := 1, src := 0x400000, dst := 0x3000004000, leaves := hotPage.leaves, flushed := true, copied, forResize := false }
/-- The machine in which die 0 has that migration. -/
def onMigr (copied : Bool) : State :=
  { mem := table ++ leaves true, dev := { (onPlot (twoVersions .final true) solo).dev with
      parts := [(1, part2)], dies := [(0, { Die.start with migrations := [migr copied] })] } }

/-- A migration that is to be copied, and one that is to end (PagesMoveAndTlbsForget). -/
theorem witness_migration : (onMigr false).dev.pendingAt (migr false).src (pageBytes (migr false).size) = false ∧
    ({ onMigr false with dev := { (onMigr false).dev with banks := [(0, withK { sq with accs := [{ ac 1 .load with pa := 0x400000, n := 8 }] })] } } : State).dev.pendingAt
      (migr false).src 16384 = true ∧
    (Mach.of (onMigr false)).hostHolds (migr false).src 16384 = false ∧ (Mach.of (onMigr false)).hostHolds (migr false).dst 16384 = false ∧
    (Mach.of (onMigr false)).copyHeld 1 (migr false).src (migr false).dst = false ∧ (onMigr true).dev.pkg.leaving = [] ∧
    (Mach.of (onMigr true)).leavesHeld (migr true).leaves = false ∧ (Mach.of (onMigr true)).mapsHeld 1 = false ∧ isHostMem 0x20C018 = false ∧
    ((onMigr true).dev.die 0).migrations.find? (fun x => x.copied) = some (migr true) ∧
    ((onMigr false).dev.die 0).migrations.find? (fun x => !x.copied) = some (migr false) ∧
    (migr true).leaves = (List.range 4).map (fun j => 0x20C000 + 8 * j) ∧ (part2.fmapb = 0) ∧ part2.awaiting = [] ∧
    (onMigr true).dev.watchesIn (migr true).src (pageBytes (migr true).size) = [] ∧ (∀ e ∈ (onMigr true).dev.banks, e.2.k.waita = none) ∧
    bitOf ((onMigr true).le 0x20C000 8) 7 = true := by
  decide

/-! ## Witnesses: frames, the host, peers, failures, bring-up -/

/-- A frame request of SIZE `sz` for the free-frame map at `pa`, with OP `op`. -/
def freqV (op sz pa : Nat) : Word := BitVec.ofNat 64 (op + sz * 2 ^ 4 + pa)

/-- The machine in which a frame request of partition 1 has begun, with map base 2^51 + 2^50. -/
def onFreq (w : Word) : State :=
  { onFrames [] with dev := { (onFrames []).dev with parts := [(1, { part3 with freq := w, fbusy := true, fbase := 3 * 2 ^ 50 })] } }

/-- GIVE and TAKE that are carried out and refused: unaligned, outside the groups, of a reserved SIZE, not free; the map's lines
held, where the port carries nothing, and not (FramesResizesAndProviderWords). -/
theorem witness_frames : (Mach.of (onFreq (freqV 0 1 0x600000))).freqRefused 1 (freqV 0 1 0x600000).toNat = false ∧
    (Mach.of (onFreq (freqV 1 1 0x500000))).freqRefused 1 (freqV 1 1 0x500000).toNat = false ∧
    (Mach.of (onFreq (freqV 0 1 0x601000))).freqRefused 1 (freqV 0 1 0x601000).toNat = true ∧
    (Mach.of (onFreq (freqV 0 12 0x600000))).freqRefused 1 (freqV 0 12 0x600000).toNat = true ∧
    (Mach.of (onFreq (freqV 0 1 (3 * 2 ^ 50)))).freqRefused 1 (freqV 0 1 (3 * 2 ^ 50)).toNat = true ∧
    (Mach.of (onFreq (freqV 1 0 0x508000))).freqRefused 1 (freqV 1 0 0x508000).toNat = true ∧
    (onFrames []).dev.pkg.poison = [] ∧ (onFrames []).dev.pkg.mup ≠ 0 ∧ (onFault ring [] []).dev.pkg.mup = 0 ∧
    (Mach.of (onFrames [])).hostHolds (3 * 2 ^ 50) 0x1800000 = false ∧
    (Mach.of (onFault ring [] [])).hostHolds (3 * 2 ^ 50) 0x1800000 = true ∧ part3.fbusy = false ∧
    (∀ p ∈ ([(0, false), (1, true)] : List (Nat × Bool)), (freqV p.1 1 0x500000).getLsbD 0 = p.2) :=
  ⟨by decide, by decide, by decide, by decide, by decide, by decide, by decide, by decide, by decide, by decide, by decide, by decide, by decide⟩

/-- The machine whose partition 1 has staged `c`. -/
def onStaged (c : PConf) : State :=
  { onFrames [] with dev := { (onFrames []).dev with parts := [(1, { part2 with staged := c })], dies := [] } }

/-- A staged configuration that is refused, and one that adds a quad (FramesResizesAndProviderWords). -/
theorem witness_resize : (onStaged { part2.current with quads := 0 }).dev.resizeRefused 1 = true ∧
    (∀ s ∈ [onStaged { part2.current with quads := 7 }], s.dev.resizeRefused 1 = false ∧ (s.dev.part 1).rbusy = false ∧
      (s.dev.part 1).staged.slices = (s.dev.part 1).current.slices ∧
      (s.dev.part 1).staged.groups = (s.dev.part 1).current.groups ∧
      (∀ j < 64, bitOf (s.dev.part 1).current.quads j = true → bitOf (s.dev.part 1).staged.quads j = true) ∧ s.dev.dies = []) := by
  decide +kernel

/-- A host line of the task's partition, dirty or clean, under CXL.cache. -/
def cline (d : Bool) : HostLine :=
  { data := List.replicate 64 7, valid := List.replicate 64 true, dirty := List.replicate 64 d, ca := 2, writers := [] }
/-- The machine whose partition 1 holds that line at the start of host memory, with HCAP `c`. -/
def onHost (d : Bool) (c : Nat) : State :=
  { onFrames [] with dev := { (onFrames []).dev with parts := [(1, { part2 with hcap := c, hostLines := [(3 * 2 ^ 50 / 64, cline d)] })] } }

/-- The first and last bytes of the HDM range and one past it; a line that is held, clean and dirty, and one that is not
(HostReachesTheDevice). -/
theorem witness_host : (onHost true 0).dev.pkg.hdmBase = 0 ∧ 768 * 2 ^ 30 - 8 + 8 ≤ 0 + 768 * 2 ^ 30 ∧ 0 + 768 * 2 ^ 30 < 768 * 2 ^ 30 - 7 + 8 ∧
    (onHost true 0).dev.pkg.poison = [] ∧ (onHost true 0).dev.pkg.mup ≠ 0 ∧ (Mach.of (onHost true 0)).halfDone 0 64 = false ∧
    (Mach.of (onMem .K (withK { sq with accs := [{ ac 1 .atom with half := true, pa := 0x100000, n := 8 }] }))).halfDone 0x100000 64 = true ∧
    (onHost true 0).dev.cacheHolders ((3 * 2 ^ 50 + 0x3F % 2 ^ 50) / 64) = [1] ∧
    (onHost true 0).dev.cacheHolders ((3 * 2 ^ 50 + 0x40 % 2 ^ 50) / 64) = [] := by
  decide

/-- A line to be written back, dirty and clean, with credit at the host port and without (HostReachesTheDevice). -/
theorem witness_writeback : (∀ d ∈ [true, false], tfind ((onHost d 0).dev.part ((onHost d 0).dev.lineOwner (some 1))).hostLines (3 * 2 ^ 50 / 64) = some (cline d)) ∧
    true ∈ (cline true).dirty ∧ true ∉ (cline false).dirty ∧ (onHost true 0).dev.hasCredit hostLink 1 1 = true ∧
    ({ onHost true 0 with dev := { (onHost true 0).dev with pkg := (onHost true 0).dev.pkg.useSlots hostLink 1 16 } } : State).dev.hasCredit hostLink 1 1 = false ∧
    (onHost true 0).dev.vfOn 1 = true ∧ (onHost true 0).dev.vfOn 2 = false := by
  decide

/-- A flit of partition 1 from node 9 on port 0, next in order, of SIZE `sz`, FN `fn`, to offset `addr` of the export. -/
def inFlit (opc sz fn addr : Nat) : Flit :=
  { flit 0 opc with part := 1, seq := 4096, ack := 0, srcn := 9, dstn := 3, size := sz, tag := 6, fn, addr, data := List.replicate 8 1 }
/-- The machine whose port 0 is up, whose node 9 may reach partition 1's export, whose first 16 MiB are pinned. -/
def onPeer (rs : List PeerReq) (k : Bank) : State :=
  { mem := table.take 6 ++ [(0x208000, 0x2F), (0x208001, 0x07), (0x208006, 0x10)]
    dev := { (onHamp [] solo k).dev with
      parts := [(1, { part2 with pexp := 0x10000 })]
      pkg := { (onHamp [] solo k).dev.pkg with ports := [(0, { Port.start with up := true })], nodes := [(9, BitVec.ofNat 64 (2 ^ 33 + 1))], reqs := rs } } }

/-- Requests in order and out of order, with credit for their response and without, one of every size of an atomic, and one past the
tree (PeersAreServedAndAnswered). -/
theorem witness_inbound : (∀ k ∈ ([.read, .write, .atomic] : List Kind), ∀ p ∈ ([(2, 4), (3, 8)] : List (Nat × Nat)),
      (Mach.of (onPeer [] bk)).inbound (inFlit 1 p.1 0 0x100) k = some [(0x10100, p.2)] ∧ flitBytes (inFlit 1 p.1 0 0x100) = some p.2) ∧
    (Mach.of (onPeer [] bk)).inbound (inFlit 1 3 0 0x2000000) .read = none ∧ (Mach.of (onPeer [] bk)).inbound (inFlit 1 3 0 0x2000000) .write = none ∧
    (Mach.of (onPeer [] bk)).writeHeld 0x10100 8 = false ∧ (Mach.of (onPeer [] bk)).poisoned 0x10100 8 = none ∧
    (tget Port.start (onPeer [] bk).dev.pkg.ports 0).up = true ∧
    (inFlit 1 3 0 0).seq % 4096 = ((tget Port.start (onPeer [] bk).dev.pkg.ports 0).lastIn + 1) % 4096 ∧
    5 % 4096 ≠ ((tget Port.start (onPeer [] bk).dev.pkg.ports 0).lastIn + 1) % 4096 ∧
    (onPeer [] bk).dev.hasCredit ((onPeer [] bk).dev.pkg.replyPort (inFlit 1 3 0 0)) 1 1 = true ∧
    ({ onPeer [] bk with dev := { (onPeer [] bk).dev with pkg := (onPeer [] bk).dev.pkg.useSlots 0 1 4096 } } : State).dev.hasCredit
      ((onPeer [] bk).dev.pkg.replyPort (inFlit 1 3 0 0)) 1 1 = false := by
  decide

/-- A request of the access 1 of K of the task. -/
def preq (opc : Nat) : PeerReq :=
  { tag := 6, port := 0, part := 1, task := 5, unit := 0, id := 1, opc, pa := 2 ^ 50 + 9 * 2 ^ 40, skip := 0, len := 8, pos := 1, va := 0x4000 }
/-- The machine with that request for an access of a kind. -/
def onReq (kind : AccKind) (opc : Nat) : State := onPeer [preq opc] { bk with k := { sq with accs := [{ ac 1 kind with sent := true }] }, ldc := 1, stc := 1 }

/-- A load, a store and an atomic that await the response to their request (PeersAreServedAndAnswered). -/
theorem witness_response : ∀ p ∈ ([(.load, 1), (.store, 2), (.atom, 3)] : List (AccKind × Nat)),
    (onReq p.1 p.2).dev.pkg.requestOf (inFlit 5 3 0 0) = some (preq p.2) ∧ (preq p.2).unit = Seq.K.idx ∧
      (Mach.of (onReq p.1 p.2)).bankOf 1 5 = some 0 ∧
      ((tget .empty (onReq p.1 p.2).dev.banks 0).k.accs.find? (fun x => x.id == 1 && x.sent)) = some { ac 1 p.1 with sent := true } ∧
      (∀ x ∈ (tget .empty (onReq p.1 p.2).dev.banks 0).k.accs, x.kind ≠ .rmark ∧ x.kind.isFence = false) ∧
      (onReq p.1 p.2).uncaptured 0 = true ∧ (tget .empty (onReq p.1 p.2).dev.banks 0).status = .running := by
  decide

/-- Uncorrectable data for an engine and for a load of K (FailuresRetireWork). -/
theorem witness_eccu : (tget .empty (onReq .load 1).dev.banks 0).status ≠ .empty ∧ (tget .empty (onReq .load 1).dev.banks 0).status ≠ .retiring ∧
    ((tget .empty (onReq .load 1).dev.banks 0).seq (Seq.ofIdx 0)).accAt 1 = some { ac 1 .load with sent := true } ∧
    (∀ x ∈ (tget .empty (onReq .load 1).dev.banks 0).k.accs, x.kind ≠ .rmark) ∧ (onReq .load 1).dev.ownsQuadOn 1 0 = true ∧
    ((onReq .load 1).dev.die 0).stopped = false := by
  decide

/-- A package with one bank of stack 0 out of spares and stack 1 excluded. -/
def worn : Pkg :=
  { (Pkg.start .empty) with excluded := 2, repairs := (List.range 3).map (fun i => { stack := 0, pch := 0, bank := 0, spare := i, row := i }) }

/-- Rows that are known, that take the last spare, and of a stack that is excluded; an attestation request
(BringUpAndRepairs). -/
theorem witness_bist : bitOf worn.excluded 1 = true ∧ bitOf worn.excluded 0 = false ∧ worn.rowKnown 0 0 0 (2 % 2 ^ 18) = true ∧
    worn.rowKnown 0 0 0 (2 ^ 18 - 1) = false ∧ worn.freeSpare 0 0 0 = some 3 ∧ worn.agoBusy = false ∧ (0x41 : Word).getLsbD 0 = true ∧
    (Mach.of { State.reset with dev := { State.reset.dev with pkg := { worn with agoBusy := true } } }).hostHolds 0 (352 + sigBytes) = false ∧
    worn.leaving = [] ∧ worn.poison = [] ∧ (∀ part < 16, (Mach.of { State.reset with dev := { State.reset.dev with pkg := worn } }).mapsHeld part = false) ∧
    isHbm (0 * 32) = true ∧ pchOf (0 * 32) = 0 := by
  decide

/-- The header of a configuration image with an empty body (R372). -/
def imageHeader : List Byte := leBytes 4 0x4D49474B ++ leBytes 2 1 ++ List.replicate 58 0
/-- The header and its signing key's public key (R372). -/
def signedPart (pub : List Byte) : List Byte := imageHeader ++ pub
/-- A board that holds that image, signed with a key, and the digest of the public key. -/
def signedBoard (key : List Byte) : Board :=
  { Board.empty with
    pufOk := true, rootDigest := shake256 32 (slhPublic key)
    config := signedPart (slhPublic key) ++ slhSign key (signedPart (slhPublic key)) [] }

/-- Bring-up takes a configuration image that is signed with the key of the board's fuses (BringUpAndRepairs). -/
theorem witness_config_image : (signedBoard (List.replicate 96 0)).pufOk = true ∧
    imageOk (signedBoard (List.replicate 96 0)).rootDigest 1 0 (signedBoard (List.replicate 96 0)).config = true := by
  refine ⟨rfl, ?_⟩
  have hv := fun msg => slhVerify_sign (key := List.replicate 96 0) (by simp) msg []
  have hs := fun msg => slhSign_length (key := List.replicate 96 0) (by simp) msg []
  have hp := slhPublic_length (key := List.replicate 96 0) (by simp)
  generalize hk : List.replicate 96 (0 : Byte) = key at hv hs hp ⊢
  simp only [signedBoard]
  generalize slhPublic key = pub at hv hp ⊢
  generalize hm : slhSign key (signedPart pub) [] = sig
  have hl : (signedPart pub).length = 128 := by rw [signedPart, List.length_append, hp]; rfl
  have hsl : sig.length = sigBytes := by rw [← hm]; exact hs _
  have hh : imageHeader.length = 64 := by decide
  have hf : ∀ off n, off + n ≤ 64 → imageField (signedPart pub ++ sig) off n = leNat ((imageHeader.drop off).take n) := by
    intro off n hn
    rw [imageField, signedPart, List.append_assoc, List.drop_append_of_le_length (by omega),
      List.take_append_of_le_length (by rw [List.length_drop]; omega)]
  have h0 : imageField (signedPart pub ++ sig) 16 8 = 0 := by rw [hf _ _ (by omega)]; decide
  have e1 : imageField (signedPart pub ++ sig) 0 4 = 0x4D49474B := by rw [hf _ _ (by omega)]; decide
  have e2 : imageField (signedPart pub ++ sig) 4 2 = 1 := by rw [hf _ _ (by omega)]; decide
  have e3 : imageField (signedPart pub ++ sig) 6 2 = 0 := by rw [hf _ _ (by omega)]; decide
  have e4 : imageField (signedPart pub ++ sig) 24 40 = 0 := by rw [hf _ _ (by omega)]; decide
  have hkey : ((signedPart pub ++ sig).drop 64).take 64 = pub := by
    rw [signedPart, List.append_assoc, List.drop_left' hh, List.take_left' hp]
  have hsig : ((signedPart pub ++ sig).drop 128).take sigBytes = sig := by
    rw [List.drop_left' hl, ← hsl, List.take_length]
  have hv' : slhVerify pub (signedPart pub) sig = true := by rw [← hm]; exact hv _
  have hmsg : (signedPart pub ++ sig).take 128 = signedPart pub := List.take_left' hl
  simp only [imageOk, h0, Nat.add_zero, hkey, hsig, hmsg, e1, e2, e3, e4, List.length_append, hl, hsl, hv',
    beq_self_eq_true, Bool.and_true, Bool.true_or, Nat.zero_le, decide_true]

/-- Boards whose identity fails, and whose configuration image fails (BringUpAndRepairs). -/
theorem witness_board : Board.empty.pufOk = false ∧ ({ Board.empty with pufOk := true } : Board).pufOk = true ∧
    imageOk ({ Board.empty with pufOk := true } : Board).rootDigest 1 0 ({ Board.empty with pufOk := true } : Board).config = false ∧
    ({ Board.empty with stacksOk := 0xFFF } : Board).badStacks = [] ∧ ({ Board.empty with modulesOk := 1 } : Board).modulesOk % 16 ≠ 0 := by
  decide

end Sys2Proof.Tests
end

section
/-! PROOF. Comparisons and selection: what CMP, PLOG and SEL do where they issue and where a check refuses them (R215 to R217), and
the clause of O11 that fails. `Tests.witness_compare` meets the hypotheses used here. -/

namespace Sys2Proof.Machine

/-! ## Words that a check of R207 refuses -/

/-- The bits of a word are checked as soon as its sequencer may issue it (R207). -/
theorem refuses_of_not_wf {s : State} {i : Instr} (hs : streamsOk i s.dev.actSeq = true) (hw : i.wf = false) :
    (Mach.of s).ctx.refuses i = some .illegal := by
  simp [Ctx.refuses, legalOn, hs, hw]

/-- On the clock on which a word would otherwise issue, the first check of R207 that fails traps, whether its predicate is true
or false (R169). -/
theorem issueWord_of_refuses {s : State} {i : Instr} {c : Cause} (body : Ctx → Mach → Act)
    (h : s.wouldIssue i (body (Mach.of s).ctx ((Mach.of s).entered i)).stalls = true)
    (hc : (Mach.of s).ctx.refuses i = some c) : issueWord i s body = .next (s.trapped (s.trapOf c)) := by
  simp only [State.wouldIssue, State.opens, State.unfenced, Bool.and_eq_true, Bool.or_eq_true, decide_eq_true_eq,
    beq_iff_eq, Bool.not_eq_true'] at h
  obtain ⟨⟨⟨hopen, hclk⟩, hpred⟩, hgo⟩ := h
  have htime : ¬ ((!(s.bank.open s.dev.actSeq) || decide (s.bank.clk < s.seq.earliest (hdrOf i))) = true) := by
    simp [hopen, hclk]
  have hfree : ¬ ((s.seq.pred (hdrOf i) && (fencedOf i && (Mach.of s).fenced (Mach.of s).ctx ||
      (body (Mach.of s).ctx ((Mach.of s).entered i)).stalls)) = true) := by
    rcases hgo with hp | ⟨hf | hf, hstall⟩
    · simp only [hp, Bool.false_and, Bool.false_eq_true, not_false_eq_true]
    · simp only [hf, hstall, Bool.false_and, Bool.or_false, Bool.and_false, Bool.false_eq_true, not_false_eq_true]
    · simp only [hf, hstall, Bool.or_false, Bool.and_false, Bool.false_eq_true, not_false_eq_true]
  have hissue : (Mach.of s).issue i body = (Mach.of s).addTrap s.dev.actBank (s.trapOf c) := by
    refine (if_neg htime).trans <| (if_neg ?_).trans ?_
    · rcases hpred with h | h <;> simp [h]
    · rw [hc]; exact if_neg hfree
  rw [issueWord, commit, hissue]
  exact congrArg _ (close_finish_trap s _)

/-- A word whose description stalls on nothing else stalls exactly where its registers hold it up (R44). -/
theorem operands_stalls (s : State) (srcs : List RegF) (dst : RegF) (n : Nat) (body : Mach → List Word → Act)
    (hb : ∀ m vs, (body m vs).stalls = false) :
    (operands (Mach.of s).ctx (Mach.of s) srcs dst n body).stalls = s.waits srcs dst n := by
  cases hw : s.waits srcs dst n with
  | true => rw [operands_of_waits hw]; rfl
  | false =>
    cases hr : s.refuses srcs dst n with
    | true => rw [operands_of_refuses hw hr]; rfl
    | false =>
      obtain ⟨p, hf⟩ : ∃ p, s.fetched srcs = some p := by
        cases hf : s.fetched srcs with
        | none => simp [State.waits, hf] at hw
        | some p => exact ⟨p, rfl⟩
      have hv : s.sources srcs dst n = some (p.1, p.2) := by simp [State.sources, hw, hr, hf]
      rw [operands_of_sources hv]
      exact hb _ _

theorem predsReady_of_keyReady {s : State} {ns : List Nat} (h : ∀ n ∈ ns, s.seq.keyReady s.bank.clk (64 + n) = true) :
    (Mach.of s).ctx.predsReady ns = true :=
  List.all_eq_true.2 h

/-! ## CMP -/

/-- The conditions of R203 on the numbers that the words stand for. -/
theorem cmpCond_spec (fn : BitVec 8) (a b : Word) :
    (fn = 0 → (cmpCond fn.toNat a b = true ↔ a = b)) ∧ (fn = 1 → (cmpCond fn.toNat a b = true ↔ a ≠ b)) ∧
    (fn = 2 → (cmpCond fn.toNat a b = true ↔ a.toInt < b.toInt)) ∧
    (fn = 3 → (cmpCond fn.toNat a b = true ↔ a.toNat < b.toNat)) ∧
    (fn = 4 → (cmpCond fn.toNat a b = true ↔ b.toInt ≤ a.toInt)) ∧
    (fn = 5 → (cmpCond fn.toNat a b = true ↔ b.toNat ≤ a.toNat)) := by
  refine ⟨?_, ?_, ?_, ?_, ?_, ?_⟩ <;> rintro rfl <;> simp [cmpCond, BitVec.slt, BitVec.ult]

/-- CMP writes its condition on value(SA) and b of R210 to p[DST] (R215). -/
theorem exec_cmp_of_issues {f : RF} {s : State} {vs : List Word} {k : Bank} (hi : s.issues (.cmp f) = true)
    (hr : s.seq.keyReady s.bank.clk (64 + f.dst.toNat) = true) (hv : s.sources [f.sa, f.sb] 0 0 = some (vs, k)) :
    exec (.cmp f) s = .next (s.wordDone (k.setSeq s.dev.actSeq ((k.seq s.dev.actSeq).putPred f.dst.toNat
      (cmpCond f.fn.toNat (opnd vs 0) (secondOperand (opnd vs 1) f.imm)))) 1 none) := by
  have hp : (Mach.of s).ctx.predsReady [f.dst.toNat] = true := predsReady_of_keyReady (by simpa using hr)
  refine (issueWord_of_issues hi _).trans (congrArg _ ?_)
  rw [Mach.entered_of_not_fenced _ _ rfl, hp, operands_of_sources hv]
  exact close_finish_done _ _ _ _ _ (Mach.modSeq_setBank ..) (by simp [sources_clk hv])

theorem fn_le_of_cmp_wf {f : RF} (h : (Instr.cmp f).wf = true) : f.fn.toNat ≤ 5 := by
  simp only [Instr.wf, Bool.and_eq_true, decide_eq_true_eq] at h
  exact h.2

/-- A reserved condition traps (R203). -/
theorem exec_cmp_of_reserved {f : RF} {s : State} (hr : s.seq.keyReady s.bank.clk (64 + f.dst.toNat) = true)
    (hw : s.wouldIssue (.cmp f) (s.waits [f.sa, f.sb] 0 0) = true) (hs : streamsOk (.cmp f) s.dev.actSeq = true)
    (hf : 5 < f.fn.toNat) : exec (.cmp f) s = .next (s.trapped (s.trapOf .illegal)) := by
  have hp : (Mach.of s).ctx.predsReady [f.dst.toNat] = true := predsReady_of_keyReady (by simpa using hr)
  have hwf : (Instr.cmp f).wf = false := Bool.eq_false_iff.2 fun h => absurd (fn_le_of_cmp_wf h) (Nat.not_le.2 hf)
  refine issueWord_of_refuses _ ?_ (refuses_of_not_wf hs hwf)
  rw [Mach.entered_of_not_fenced _ _ rfl, hp]
  exact (congrArg _ (operands_stalls s _ _ _ _ fun _ _ => rfl)).trans hw

/-! ## PLOG -/

/-- PLOG writes its operation on p[SA] and p[SB] to p[DST], p0 reading true (R216). -/
theorem exec_plog_of_issues {f : RF} {s : State} (hi : s.issues (.plog f) = true)
    (hr : ∀ n ∈ [f.dst, f.sa, f.sb], s.seq.keyReady s.bank.clk (64 + n.toNat) = true) :
    exec (.plog f) s = .next (s.wordDone (s.bank.setSeq s.dev.actSeq (s.seq.putPred f.dst.toNat
      (plogOp f.fn.toNat (s.seq.getPred f.sa.toNat) (s.seq.getPred f.sb.toNat)))) 1 none) := by
  have hp : (Mach.of s).ctx.predsReady [f.dst.toNat, f.sa.toNat, f.sb.toNat] = true :=
    predsReady_of_keyReady (by simpa using hr)
  refine (issueWord_of_issues hi _).trans (congrArg _ ?_)
  rw [Mach.entered_of_not_fenced _ _ rfl, hp]
  exact close_finish_done _ _ _ _ _ rfl (by simp)

theorem fn_le_and_sb_of_plog_wf {f : RF} (h : (Instr.plog f).wf = true) : f.fn.toNat ≤ 5 ∧ (f.fn ≠ 5 ∨ f.sb = 0) := by
  simp only [Instr.wf, Bool.and_eq_true, Bool.or_eq_true, decide_eq_true_eq, bne_iff_ne, beq_iff_eq] at h
  obtain ⟨⟨⟨-, hfn⟩, hsb⟩, -⟩ := h
  exact ⟨hfn, hsb⟩

/-- A reserved operation traps, and so does an SB beside NOT (R203, R216). -/
theorem exec_plog_of_reserved {f : RF} {s : State}
    (hr : ∀ n ∈ [f.dst, f.sa, f.sb], s.seq.keyReady s.bank.clk (64 + n.toNat) = true)
    (hw : s.wouldIssue (.plog f) false = true) (hs : streamsOk (.plog f) s.dev.actSeq = true)
    (hf : 5 < f.fn.toNat ∨ (f.fn = 5 ∧ f.sb ≠ 0)) : exec (.plog f) s = .next (s.trapped (s.trapOf .illegal)) := by
  have hp : (Mach.of s).ctx.predsReady [f.dst.toNat, f.sa.toNat, f.sb.toNat] = true :=
    predsReady_of_keyReady (by simpa using hr)
  have hwf : (Instr.plog f).wf = false := Bool.eq_false_iff.2 fun h => by
    obtain ⟨hfn, hnot⟩ := fn_le_and_sb_of_plog_wf h
    rcases hf with hlt | ⟨heq, hsb⟩
    · exact absurd hfn (Nat.not_le.2 hlt)
    · exact hnot.elim (absurd heq) hsb
  refine issueWord_of_refuses _ ?_ (refuses_of_not_wf hs hwf)
  rw [Mach.entered_of_not_fenced _ _ rfl, hp]
  exact hw

/-! ## SEL -/

/-- The predicate that SEL names in FN[2:0]. -/
theorem fld_low_three (n : Nat) : fld n 0 3 = n % 8 := by simp [fld]

theorem bitOf_toNat {w : Nat} (x : BitVec w) (i : Nat) : bitOf x.toNat i = x.getLsbD i := by
  rw [bitOf, BitVec.getLsbD, Nat.testBit_eq_decide_div_mod_eq]
  exact rfl

/-- SEL writes value(SA) where p[FN[2:0]] XOR FN[3] holds, else value(SB), and pops both (R217). -/
theorem exec_sel_of_issues {f : RF} {s : State} {vs : List Word} {k : Bank} (hi : s.issues (.sel f) = true)
    (hr : s.seq.keyReady s.bank.clk (64 + f.fn.toNat % 8) = true) (hv : s.sources [f.sa, f.sb] f.dst 1 = some (vs, k)) :
    exec (.sel f) s = .next (s.wordDone (k.result s.dev.actSeq f.dst 1
      (if s.seq.getPred (f.fn.toNat % 8) ^^ f.fn.getLsbD 3 then opnd vs 0 else opnd vs 1)) 1 none) := by
  have hp : (Mach.of s).ctx.predsReady [fld f.fn.toNat 0 3] = true :=
    predsReady_of_keyReady (by simpa [fld_low_three] using hr)
  refine (issueWord_of_issues hi _).trans (congrArg _ ?_)
  rw [Mach.entered_of_not_fenced _ _ rfl, hp, operands_of_sources hv, fld_low_three, bitOf_toNat,
    putReg_setBank _ _ _ _ _ (sources_clk hv)]
  exact close_finish_done _ _ _ _ _ rfl (by simp [sources_clk hv])

theorem fn_lt_and_imm_of_sel_wf {f : RF} (h : (Instr.sel f).wf = true) : f.fn.toNat < 16 ∧ f.imm = 0 := by
  simp only [Instr.wf, Bool.and_eq_true, decide_eq_true_eq, beq_iff_eq] at h
  obtain ⟨⟨-, hfn⟩, himm⟩ := h
  exact ⟨hfn, himm⟩

/-- FN[7:4] and IMM16 of SEL are 0 (R217). -/
theorem exec_sel_of_reserved {f : RF} {s : State} (hr : s.seq.keyReady s.bank.clk (64 + f.fn.toNat % 8) = true)
    (hw : s.wouldIssue (.sel f) (s.waits [f.sa, f.sb] f.dst 1) = true) (hs : streamsOk (.sel f) s.dev.actSeq = true)
    (hf : 16 ≤ f.fn.toNat ∨ f.imm ≠ 0) : exec (.sel f) s = .next (s.trapped (s.trapOf .illegal)) := by
  have hp : (Mach.of s).ctx.predsReady [fld f.fn.toNat 0 3] = true :=
    predsReady_of_keyReady (by simpa [fld_low_three] using hr)
  have hwf : (Instr.sel f).wf = false := Bool.eq_false_iff.2 fun h => by
    obtain ⟨hfn, himm⟩ := fn_lt_and_imm_of_sel_wf h
    exact hf.elim (Nat.not_le.2 hfn) (absurd himm)
  refine issueWord_of_refuses _ ?_ (refuses_of_not_wf hs hwf)
  rw [Mach.entered_of_not_fenced _ _ rfl, hp]
  exact (congrArg _ (operands_stalls s _ _ _ _ fun _ _ => rfl)).trans hw

/-- `opOf` gives the FN of a word of SYS alone (R205): beside OP 0x04 of SEL it gives 0, whatever the word's FN is. -/
theorem opOf_sel (f : RF) : opOf (.sel f) = some (0x04, 0) := rfl

/-- Refutes O11: its clause `opOf (.sel f) = some (4, f.fn.toNat)` fails wherever FN is not 0, and R217 puts the predicate
there. The counterexample is the statement's own sample word, SEL g8, g3, g4, !p2, whose FN is 0x0A. OP 0x04 itself is right,
and what the other clauses say of the execution of CMP, PLOG and SEL holds, by the theorems above. -/
theorem not_comparesAndSelectsWriteTheirResults : ¬ Obligations.ComparesAndSelectsWriteTheirResults := by
  unfold Obligations.ComparesAndSelectsWriteTheirResults
  rintro ⟨-, -, -, -, hop, -⟩
  have h := hop { h := { idle := 0, pred := 0, pneg := false }, dst := 8, sa := 3, sb := 4, fn := 10, imm := 0 }
  rw [opOf_sel] at h
  exact absurd h (by decide)

end Sys2Proof.Machine
end

section
/-! PROOF. ALU words: the results of R214 as the numbers and bits that the words stand for, the word that writes one result (R210,
R211), and the reserved fields of CLZ, POPC and BREV. `Tests.witness_alu` and `Tests.witness_alu_one` meet the hypotheses used here. -/

namespace Sys2Proof.Machine

/-! ## Sums, products and shifts -/

theorem sub_eq_ofInt (a b : Word) : a - b = BitVec.ofInt 64 ((a.toNat : Int) - b.toNat) := by
  apply BitVec.eq_of_toNat_eq
  rw [BitVec.toNat_sub, BitVec.toNat_ofInt]
  omega

theorem mul_eq_ofNat (a b : Word) : a * b = BitVec.ofNat 64 (a.toNat * b.toNat) := by
  apply BitVec.eq_of_toNat_eq
  rw [BitVec.toNat_mul, BitVec.toNat_ofNat]

theorem shiftLeft_eq_ofNat (a : Word) (n : Nat) : a <<< n = BitVec.ofNat 64 (a.toNat * 2 ^ n) := by
  apply BitVec.eq_of_toNat_eq
  rw [BitVec.toNat_shiftLeft, Nat.shiftLeft_eq, BitVec.toNat_ofNat]

theorem ushiftRight_eq_ofNat (a : Word) (n : Nat) : a >>> n = BitVec.ofNat 64 (a.toNat / 2 ^ n) := by
  apply BitVec.eq_of_toNat_eq
  rw [BitVec.toNat_ushiftRight, Nat.shiftRight_eq_div_pow, BitVec.toNat_ofNat,
    Nat.mod_eq_of_lt (Nat.lt_of_le_of_lt (Nat.div_le_self ..) a.isLt)]

theorem sshiftRight_eq_ofInt (a : Word) (n : Nat) : a.sshiftRight n = BitVec.ofInt 64 (a.toInt / 2 ^ n) := by
  rw [BitVec.sshiftRight, Int.shiftRight_eq_div_pow]
  norm_cast

/-- A bit of a word rotated left stands `b` places higher, around the end. -/
theorem getLsbD_rotateLeft_shAmt (a b : Word) {i : Nat} (hi : i < 64) :
    (a.rotateLeft (shAmt b)).getLsbD ((i + b.toNat) % 64) = a.getLsbD i := by
  have hs : (i + b.toNat) % 64 = (i + shAmt b) % 64 := by rw [shAmt]; omega
  have hn : shAmt b < 64 := Nat.mod_lt _ (by decide)
  rw [hs, BitVec.getLsbD_rotateLeft, Nat.mod_eq_of_lt hn]
  by_cases hc : i + shAmt b < 64
  · have hge : ¬ i + shAmt b < shAmt b := by omega
    simp [Nat.mod_eq_of_lt hc, hc, hge]
  · have hlt : i + shAmt b - 64 < shAmt b := by omega
    have hback : 64 - shAmt b + (i + shAmt b - 64) = i := by omega
    simp [Nat.mod_eq_sub_mod (Nat.not_lt.1 hc), Nat.mod_eq_of_lt (Nat.lt_trans hlt hn), hlt, hback]

/-! ## Minima and maxima -/

theorem toInt_ite_slt_eq_min (a b : Word) : (if BitVec.slt a b then a else b).toInt = min a.toInt b.toInt := by
  rw [BitVec.slt_eq_decide]
  by_cases h : a.toInt < b.toInt
  · rw [decide_eq_true h, if_pos rfl, Int.min_eq_left (Int.le_of_lt h)]
  · rw [decide_eq_false h, if_neg Bool.false_ne_true, Int.min_eq_right (Int.not_lt.1 h)]

theorem toInt_ite_slt_eq_max (a b : Word) : (if BitVec.slt a b then b else a).toInt = max a.toInt b.toInt := by
  rw [BitVec.slt_eq_decide]
  by_cases h : a.toInt < b.toInt
  · rw [decide_eq_true h, if_pos rfl, Int.max_eq_right (Int.le_of_lt h)]
  · rw [decide_eq_false h, if_neg Bool.false_ne_true, Int.max_eq_left (Int.not_lt.1 h)]

theorem toNat_ite_ult_eq_min (a b : Word) : (if BitVec.ult a b then a else b).toNat = min a.toNat b.toNat := by
  rw [BitVec.ult_eq_decide]
  by_cases h : a.toNat < b.toNat
  · rw [decide_eq_true h, if_pos rfl, Nat.min_eq_left (Nat.le_of_lt h)]
  · rw [decide_eq_false h, if_neg Bool.false_ne_true, Nat.min_eq_right (Nat.not_lt.1 h)]

theorem toNat_ite_ult_eq_max (a b : Word) : (if BitVec.ult a b then b else a).toNat = max a.toNat b.toNat := by
  rw [BitVec.ult_eq_decide]
  by_cases h : a.toNat < b.toNat
  · rw [decide_eq_true h, if_pos rfl, Nat.max_eq_right (Nat.le_of_lt h)]
  · rw [decide_eq_false h, if_neg Bool.false_ne_true, Nat.max_eq_left (Nat.not_lt.1 h)]

/-! ## Remainders -/

/-- The signed remainder is what the truncated quotient leaves. -/
theorem remS_eq (a b : Word) :
    remS a b = if b = 0 then a else BitVec.ofInt 64 (a.toInt - b.toInt * a.toInt.tdiv b.toInt) := by
  rw [remS, Int.tmod_def]

/-! ## Bit counts and reversals -/

/-- The count of leading zeros bounds the word on both sides. -/
theorem clz64_spec (a : Word) : (clz64 a).toNat ≤ 64 ∧ a.toNat < 2 ^ (64 - (clz64 a).toNat) ∧
    ((clz64 a).toNat < 64 → 2 ^ (63 - (clz64 a).toNat) ≤ a.toNat) := by
  by_cases ha : a = 0
  · subst ha; decide
  · have h0 : a.toNat ≠ 0 := fun h => ha (BitVec.eq_of_toNat_eq h)
    have hlog : Nat.log2 a.toNat < 64 := (Nat.log2_lt h0).2 a.isLt
    have hc : (clz64 a).toNat = 63 - Nat.log2 a.toNat := by
      rw [clz64, if_neg ha, BitVec.toNat_ofNat]; omega
    have hup : 64 - (clz64 a).toNat = Nat.log2 a.toNat + 1 := by omega
    have hlo : 63 - (clz64 a).toNat = Nat.log2 a.toNat := by omega
    rw [hup, hlo]
    exact ⟨by omega, Nat.lt_log2_self, fun _ => Nat.log2_self_le h0⟩

/-- Counting by addition is the length of the filtered list. -/
theorem foldl_b2n_eq_length_filter (p : Nat → Bool) (l : List Nat) (n : Nat) :
    l.foldl (fun n i => n + b2n (p i)) n = n + (l.filter p).length := by
  induction l generalizing n with
  | nil => rfl
  | cons i l ih =>
    rw [List.foldl_cons, ih, List.filter_cons]
    cases p i with
    | false => rfl
    | true => rw [if_pos rfl, List.length_cons, b2n, if_pos rfl]; omega

theorem popc64_toNat (a : Word) : (popc64 a).toNat = ((List.range 64).filter (fun i => a.getLsbD i)).length := by
  have hle : ((List.range 64).filter (fun i => a.getLsbD i)).length ≤ 64 :=
    Nat.le_trans (List.length_filter_le ..) (Nat.le_of_eq List.length_range)
  simp only [popc64, bitOf_toNat, foldl_b2n_eq_length_filter, Nat.zero_add, BitVec.toNat_ofNat]
  exact Nat.mod_eq_of_lt (Nat.lt_of_le_of_lt hle (by decide))

/-- A bit of a reversal of `k` bits is the bit as far from the other end. -/
theorem testBit_revBits (k x i : Nat) : (revBits k x).testBit i = (decide (i < k) && x.testBit (k - 1 - i)) := by
  induction k generalizing x i with
  | zero => simp [revBits]
  | succ k ih =>
    have hlt : revBits k (x / 2) < 2 ^ k := Nat.lt_pow_two_of_testBit _ fun j hj => by simp [ih, Nat.not_lt.2 hj]
    rw [revBits, Nat.mul_comm, Nat.testBit_two_pow_mul_add _ hlt, ih]
    by_cases hik : i < k
    · have e : k + 1 - 1 - i = k - 1 - i + 1 := by omega
      rw [if_pos hik, e, Nat.testBit_succ]
      simp [hik, Nat.lt_succ_of_lt hik]
    · rw [if_neg hik]
      rcases Nat.lt_or_eq_of_le (Nat.not_lt.1 hik) with h | rfl
      · have e : i - k = (i - k - 1) + 1 := by omega
        rw [e, Nat.testBit_succ, Nat.div_eq_of_lt (Nat.mod_lt _ (by decide)), Nat.zero_testBit,
          decide_eq_false (by omega), Bool.false_and]
      · simp

theorem getLsbD_revBits (a : Word) {i : Nat} (hi : i < 64) : (word (revBits 64 a.toNat)).getLsbD i = a.getLsbD (63 - i) := by
  rw [BitVec.getLsbD_ofNat, testBit_revBits]
  simp [hi, BitVec.getLsbD]

/-! ## Extensions -/

theorem extWidth_pos (b : Word) : 0 < extWidth b := by
  unfold extWidth; split <;> omega

theorem extWidth_le (b : Word) : extWidth b ≤ 64 := by
  unfold extWidth; split <;> omega

theorem getLsbD_zext64 (a b : Word) {i : Nat} (hi : i < 64) :
    (zext64 a b).getLsbD i = (decide (i < extWidth b) && a.getLsbD i) := by
  rw [zext64, BitVec.getLsbD_ofNat, Nat.testBit_mod_two_pow]
  simp [hi, BitVec.getLsbD]

/-- Adding 2^64 - 2^n to a number below 2^n sets the bits from n on. -/
theorem testBit_add_ones {x n i : Nat} (hx : x < 2 ^ n) (hn : n ≤ 64) (hi : i < 64) :
    (x + (2 ^ 64 - 2 ^ n)).testBit i = (decide (n ≤ i) || x.testBit i) := by
  have e : x + (2 ^ 64 - 2 ^ n) = 2 ^ n * (2 ^ (64 - n) - 1) + x := by
    rw [Nat.mul_sub, ← Nat.pow_add, Nat.add_sub_cancel' hn]; omega
  rw [e, Nat.testBit_two_pow_mul_add _ hx]
  by_cases h : i < n
  · rw [if_pos h, decide_eq_false (Nat.not_le.2 h), Bool.false_or]
  · have hin : i - n < 64 - n := by omega
    rw [if_neg h, Nat.testBit_two_pow_sub_one, decide_eq_true hin, decide_eq_true (Nat.not_lt.1 h), Bool.true_or]

theorem bitOf_eq_testBit (n i : Nat) : bitOf n i = n.testBit i :=
  Nat.testBit_eq_decide_div_mod_eq.symm

theorem getLsbD_sext64 (a b : Word) {i : Nat} (hi : i < 64) :
    (sext64 a b).getLsbD i = a.getLsbD (min i (extWidth b - 1)) := by
  have hp := extWidth_pos b
  have hl := extWidth_le b
  have hx : a.toNat % 2 ^ extWidth b < 2 ^ extWidth b := Nat.mod_lt _ (Nat.two_pow_pos _)
  have hb : ∀ j, (a.toNat % 2 ^ extWidth b).testBit j = (decide (j < extWidth b) && a.getLsbD j) :=
    fun j => Nat.testBit_mod_two_pow ..
  have hsign : bitOf (a.toNat % 2 ^ extWidth b) (extWidth b - 1) = a.getLsbD (extWidth b - 1) := by
    rw [bitOf_eq_testBit, hb, decide_eq_true (by omega), Bool.true_and]
  have hv : (sext64 a b).getLsbD i =
      ((a.getLsbD (extWidth b - 1) && decide (extWidth b ≤ i)) || (decide (i < extWidth b) && a.getLsbD i)) := by
    simp only [sext64, hsign]
    split
    · next h => rw [BitVec.getLsbD_ofNat, testBit_add_ones hx hl hi, hb, h]; simp [hi]
    · next h => rw [BitVec.getLsbD_ofNat, hb, Bool.eq_false_iff.2 h]; simp [hi]
  rw [hv]
  by_cases h : i < extWidth b
  · rw [Nat.min_eq_left (by omega), decide_eq_true h, decide_eq_false (Nat.not_le.2 h), Bool.and_false, Bool.false_or,
      Bool.true_and]
  · rw [Nat.min_eq_right (by omega), decide_eq_false h, decide_eq_true (Nat.not_lt.1 h), Bool.and_true, Bool.false_and,
      Bool.or_false]

/-! ## The word that writes one result -/

theorem aluWord_of_issues {i : Instr} {f : RF} {s : State} {vs : List Word} {k : Bank} (lat : Nat) (g : Word → Word → Word)
    (hf : fencedOf i = false) (hi : s.issues i = true) (hv : s.sources [f.sa, f.sb] f.dst 1 = some (vs, k)) :
    aluWord i f lat g s =
      .next (s.wordDone (k.result s.dev.actSeq f.dst lat (g (opnd vs 0) (secondOperand (opnd vs 1) f.imm))) 1 none) := by
  refine (issueWord_of_issues hi _).trans (congrArg _ ?_)
  rw [Mach.entered_of_not_fenced _ _ hf, operands_of_sources hv, putReg_setBank _ _ _ _ _ (sources_clk hv)]
  exact close_finish_done _ _ _ _ _ rfl (by simp [sources_clk hv])

/-- A row of R214: an instruction, its latency, and what its result is to be for a and b of R210. -/
abbrev AluRow := (RF → Instr) × Nat × (Word → Word → Word → Prop)

/-- A word of a row, where it issues with its operands, writes a result that the row allows, and does nothing else. -/
def AluRow.Writes (r : AluRow) : Prop :=
  ∀ (f : RF) (s : State) (vs : List Word) (k : Bank), s.issues (r.1 f) = true →
    s.sources [f.sa, f.sb] f.dst 1 = some (vs, k) →
    ∃ v, r.2.2 (opnd vs 0) (opnd vs 1 + f.imm.signExtend 64) v ∧
      exec (r.1 f) s = .next (s.wordDone (k.result s.dev.actSeq f.dst r.2.1 v) 1 none)

/-- An ALU word whose function meets its row's description for every a and b. -/
theorem AluRow.writes_of_spec {i : RF → Instr} {lat : Nat} {spec : Word → Word → Word → Prop} (g : Word → Word → Word)
    (hs : ∀ a b, spec a b (g a b)) (hx : ∀ f s, exec (i f) s = aluWord (i f) f lat g s := by exact fun _ _ => rfl)
    (hf : ∀ f, fencedOf (i f) = false := by exact fun _ => rfl) : AluRow.Writes (i, lat, spec) :=
  fun f s _ _ hi hv => ⟨_, hs _ _, (hx f s).trans (aluWord_of_issues lat g (hf f) hi hv)⟩

/-! ## Reserved fields -/

theorem RF.sb_and_imm_of_alu1 {f : RF} {c : Nat} (h : f.alu1 c = true) : f.sb = 0 ∧ f.imm = 0 := by
  simp only [RF.alu1, Bool.and_eq_true, beq_iff_eq] at h
  obtain ⟨⟨-, hsb⟩, himm⟩ := h
  exact ⟨hsb, himm⟩

/-- A word of one source traps where its SB or IMM16 is not 0 (R186, R214). -/
theorem aluWord_of_reserved {i : Instr} {f : RF} {s : State} {c : Nat} (lat : Nat) (g : Word → Word → Word)
    (hf : fencedOf i = false) (hwf : i.wf = f.alu1 c) (hw : s.wouldIssue i (s.waits [f.sa, f.sb] f.dst 1) = true)
    (hs : streamsOk i s.dev.actSeq = true) (hr : f.sb ≠ 0 ∨ f.imm ≠ 0) :
    aluWord i f lat g s = .next (s.trapped (s.trapOf .illegal)) := by
  have hbad : i.wf = false := Bool.eq_false_iff.2 fun h => by
    obtain ⟨hsb, himm⟩ := RF.sb_and_imm_of_alu1 (hwf.symm.trans h)
    exact hr.elim (absurd hsb) (absurd himm)
  refine issueWord_of_refuses _ ?_ (refuses_of_not_wf hs hbad)
  rw [Mach.entered_of_not_fenced _ _ hf]
  exact (congrArg _ (operands_stalls s _ _ _ _ fun _ _ => rfl)).trans hw

/-- Settles O9: each row of R214 by the lemma about its function, and the reserved fields of CLZ, POPC and BREV. -/
theorem aluWordsWriteTheirResults : Obligations.AluWordsWriteTheirResults := by
  unfold Obligations.AluWordsWriteTheirResults
  change (∀ r ∈ _, AluRow.Writes r) ∧ _
  simp only [List.forall_mem_cons]
  refine ⟨⟨?add, ?sub, ?and, ?or, ?xor, ?shl, ?shr, ?sra, ?rotl, ?min, ?max, ?minn, ?maxn, ?mul, ?mulh, ?mulhn, ?div, ?divn,
    ?rem, ?remn, ?clz, ?popc, ?brev, ?sext, ?zext, List.forall_mem_nil _⟩, ?clzTrap, ?popcTrap, ?brevTrap, List.forall_mem_nil _⟩
  case add => exact AluRow.writes_of_spec (fun a b => a + b) BitVec.add_def
  case sub => exact AluRow.writes_of_spec (fun a b => a - b) sub_eq_ofInt
  case and => exact AluRow.writes_of_spec (fun a b => a &&& b) (fun _ _ => rfl)
  case or => exact AluRow.writes_of_spec (fun a b => a ||| b) (fun _ _ => rfl)
  case xor => exact AluRow.writes_of_spec (fun a b => a ^^^ b) (fun _ _ => rfl)
  case shl => exact AluRow.writes_of_spec (fun a b => a <<< shAmt b) (fun a b => shiftLeft_eq_ofNat a (shAmt b))
  case shr => exact AluRow.writes_of_spec (fun a b => a >>> shAmt b) (fun a b => ushiftRight_eq_ofNat a (shAmt b))
  case sra => exact AluRow.writes_of_spec (fun a b => a.sshiftRight (shAmt b)) (fun a b => sshiftRight_eq_ofInt a (shAmt b))
  case rotl => exact AluRow.writes_of_spec (fun a b => a.rotateLeft (shAmt b)) (fun a b _ => getLsbD_rotateLeft_shAmt a b)
  case min => exact AluRow.writes_of_spec (fun a b => if BitVec.slt a b then a else b) toInt_ite_slt_eq_min
  case max => exact AluRow.writes_of_spec (fun a b => if BitVec.slt a b then b else a) toInt_ite_slt_eq_max
  case minn => exact AluRow.writes_of_spec (fun a b => if BitVec.ult a b then a else b) toNat_ite_ult_eq_min
  case maxn => exact AluRow.writes_of_spec (fun a b => if BitVec.ult a b then b else a) toNat_ite_ult_eq_max
  case mul => exact AluRow.writes_of_spec (fun a b => a * b) mul_eq_ofNat
  case mulh => exact AluRow.writes_of_spec mulHigh (fun _ _ => rfl)
  case mulhn => exact AluRow.writes_of_spec mulHighU (fun _ _ => rfl)
  case div => exact AluRow.writes_of_spec divS (fun _ _ => rfl)
  case divn => exact AluRow.writes_of_spec divU (fun _ _ => rfl)
  case rem => exact AluRow.writes_of_spec remS remS_eq
  case remn => exact AluRow.writes_of_spec remU (fun _ _ => rfl)
  case clz => exact AluRow.writes_of_spec (fun a _ => clz64 a) (fun a _ => clz64_spec a)
  case popc => exact AluRow.writes_of_spec (fun a _ => popc64 a) (fun a _ => popc64_toNat a)
  case brev => exact AluRow.writes_of_spec (fun a _ => word (revBits 64 a.toNat)) (fun a _ _ => getLsbD_revBits a)
  case sext => exact AluRow.writes_of_spec sext64 (fun a b _ => getLsbD_sext64 a b)
  case zext => exact AluRow.writes_of_spec zext64 (fun a b _ => getLsbD_zext64 a b)
  case clzTrap => exact fun _ _ => aluWord_of_reserved (c := 0x14) 1 (fun a _ => clz64 a) rfl rfl
  case popcTrap => exact fun _ _ => aluWord_of_reserved (c := 0x15) 1 (fun a _ => popc64 a) rfl rfl
  case brevTrap => exact fun _ _ => aluWord_of_reserved (c := 0x16) 1 (fun a _ => word (revBits 64 a.toNat)) rfl rfl

end Sys2Proof.Machine
end

section
/-! PROOF. Loops: LOOP's checks and its push (R221, R222), and where the completion of a word leads its sequencer (R43, R222).
`Tests.witness_loop` meets the hypotheses used here. -/

namespace Sys2Proof.Machine

/-! ## LOOP -/

/-- A body that ends at position `e` reaches past the innermost one (R222). -/
def SeqState.pastInnermost (t : SeqState) (e : Nat) : Bool :=
  match t.loops with
  | x :: _ => decide (x.stop < e)
  | [] => false

theorem pastInnermost_iff (t : SeqState) (e : Nat) : t.pastInnermost e = true ↔ ∃ x ∈ t.loops.head?, x.stop < e := by
  unfold SeqState.pastInnermost
  cases t.loops <;> simp

/-- The checks of LOOP on a body that ends at position `e`, as `execLoop` makes them (R222). -/
def SeqState.loopRefused (t : SeqState) (e : Nat) : Bool :=
  decide (t.words ≤ e) || decide (4 ≤ t.loops.length) || t.pastInnermost e || t.badLoopEnd e

/-- The OPs that may not end a body are BR, CALL, JR, LOOP and BRQ (R222). -/
theorem badLoopEnd_iff {t : SeqState} {e : Nat} {w : Word} (h : t.code[e]? = some w) :
    t.badLoopEnd e = true ↔ w.toNat / 2 ^ 46 % 256 ∈ [0x18, 0x19, 0x1A, 0x1B, 0x1C] := by
  have hw : t.code.getD e 0 = w := by rw [List.getD_eq_getElem?_getD, h]; rfl
  have hop : fld w.toNat 46 8 = w.toNat / 2 ^ 46 % 256 := rfl
  simp only [SeqState.badLoopEnd, hw, hop, Bool.and_eq_true, decide_eq_true_eq, List.mem_cons, List.not_mem_nil, or_false]
  omega

theorem loopRefused_iff (t : SeqState) (e : Nat) : t.loopRefused e = true ↔
    t.code.length ≤ e ∨ 4 ≤ t.loops.length ∨ (∃ x ∈ t.loops.head?, x.stop < e) ∨
      ∃ w ∈ t.code[e]?, w.toNat / 2 ^ 46 % 256 ∈ [0x18, 0x19, 0x1A, 0x1B, 0x1C] := by
  simp only [SeqState.loopRefused, Bool.or_eq_true, pastInnermost_iff, decide_eq_true_eq, or_assoc]
  rw [SeqState.words]
  cases hc : t.code[e]? with
  | none => simp [List.getElem?_eq_none_iff.1 hc]
  | some w => simp only [badLoopEnd_iff hc, Option.mem_some_iff, exists_eq_left']

section
variable {f : RF} {s : State} {vs : List Word} {k : Bank}
variable (hi : s.issues (.loop f) = true) (hv : s.sources [f.sa] 0 0 = some (vs, k))
include hi hv

/-- What LOOP does where it issues with its operand: its checks, then the count. -/
theorem exec_loop_of_issues : exec (.loop f) s = .next (((Mach.of s).finish (Mach.of s).ctx
    (if s.seq.loopRefused (s.seq.pos + f.imm.toNat) then .trap (s.trapOf .illegal)
      else if opnd vs 0 = 0 then .done ((Mach.of s).setBank s.dev.actBank k) 1 (some (s.seq.pos + f.imm.toNat + 1))
      else .done (((Mach.of s).setBank s.dev.actBank k).modSeq s.dev.actBank s.dev.actSeq (fun t =>
        { t with loops := { start := s.seq.pos + 1, stop := s.seq.pos + f.imm.toNat, rem := (opnd vs 0).toNat } :: t.loops })) 1
        (some (s.seq.pos + 1)))).close s) := by
  refine (issueWord_of_issues hi _).trans (congrArg _ ?_)
  rw [Mach.entered_of_not_fenced _ _ rfl, operands_of_sources hv]
  rfl

/-- A body that a check refuses traps. -/
theorem exec_loop_of_refused (h : s.seq.loopRefused (s.seq.pos + f.imm.toNat) = true) :
    exec (.loop f) s = .next (s.trapped (s.trapOf .illegal)) := by
  rw [exec_loop_of_issues hi hv, if_pos h, close_finish_trap]

/-- A count of 0 passes the body. -/
theorem exec_loop_of_zero (h : ¬ s.seq.loopRefused (s.seq.pos + f.imm.toNat) = true) (hz : opnd vs 0 = 0) :
    exec (.loop f) s = .next (s.wordDone k 1 (some (s.seq.pos + f.imm.toNat + 1))) := by
  rw [exec_loop_of_issues hi hv, if_neg h, if_pos hz, close_finish_done _ _ _ _ _ rfl (sources_clk hv)]

/-- Another count pushes the body with it. -/
theorem exec_loop_of_nonzero (h : ¬ s.seq.loopRefused (s.seq.pos + f.imm.toNat) = true) (hz : opnd vs 0 ≠ 0) :
    exec (.loop f) s = .next (s.wordDone (k.setSeq s.dev.actSeq { k.seq s.dev.actSeq with loops :=
      { start := s.seq.pos + 1, stop := s.seq.pos + f.imm.toNat, rem := (opnd vs 0).toNat } :: (k.seq s.dev.actSeq).loops }) 1
      (some (s.seq.pos + 1))) := by
  rw [exec_loop_of_issues hi hv, if_neg h, if_neg hz]
  exact congrArg _ (close_finish_done _ _ _ _ _ (Mach.modSeq_setBank ..) (by simp [sources_clk hv]))

end

/-! ## The end of a body -/

/-- No body ends at the word. -/
theorem loopAdvance_of_not_end {p : Nat} {l : List LoopEnt} (h : ∀ e ∈ l.head?, e.stop ≠ p) : loopAdvance p l = (l, p + 1) := by
  cases l with
  | nil => rfl
  | cons e es => exact if_neg (h e rfl)

/-- A body with passes left leads back to its start. -/
theorem loopAdvance_of_again {p : Nat} {e : LoopEnt} {es : List LoopEnt} (h : e.stop = p) (hr : 1 < e.rem) :
    loopAdvance p (e :: es) = ({ e with rem := e.rem - 1 } :: es, e.start) :=
  (if_pos h).trans (if_pos hr)

/-- A body on its last pass is left, and the entry below it is tested. -/
theorem loopAdvance_of_last {p : Nat} {e : LoopEnt} {es : List LoopEnt} (h : e.stop = p) (hr : e.rem ≤ 1) :
    loopAdvance p (e :: es) = loopAdvance p es :=
  (if_pos h).trans (if_neg (Nat.not_lt.2 hr))

@[simp] theorem SeqState.retire_none_loops (t : SeqState) (clk occ : Nat) :
    (t.retire clk occ none).loops = (loopAdvance t.pos t.loops).1 := rfl

theorem SeqState.retire_of_last {t : SeqState} {e : LoopEnt} {es : List LoopEnt} (clk occ : Nat) (hl : t.loops = e :: es)
    (h : e.stop = t.pos) (hr : e.rem ≤ 1) : t.retire clk occ none = { t with loops := es }.retire clk occ none := by
  simp only [SeqState.retire, hl, loopAdvance_of_last h hr]

/-- Settles O13: LOOP by its three outcomes, and the completion of a word by the cases of `loopAdvance`. -/
theorem loopsRunTheirBodies : Obligations.LoopsRunTheirBodies := by
  unfold Obligations.LoopsRunTheirBodies
  refine ⟨?loop, fun _ => rfl, ?completion⟩
  case loop =>
    rintro f s vs k hi hv e bad rfl hbad
    rw [← loopRefused_iff] at hbad
    exact ⟨fun h => exec_loop_of_refused hi hv (hbad.1 h), fun h => exec_loop_of_zero hi hv (h ∘ hbad.2),
      fun h => exec_loop_of_nonzero hi hv (h ∘ hbad.2)⟩
  case completion =>
    intro t clk occ n
    refine ⟨rfl, rfl, rfl, rfl, fun h => ?notEnd, fun e es hl h hr => ?again, fun e es hl h hr => t.retire_of_last clk occ hl h hr⟩
    case notEnd => simp [loopAdvance_of_not_end h]
    case again => simp [hl, loopAdvance_of_again h hr]

end Sys2Proof.Machine
end
